-- ==== Sys2Proof/Word.lean ====
section
/-! DEFINITION. The word types of the MB4 (spec/00_scope.md R2, R3): bit 0 is the least significant bit,
memory is byte-addressed and little-endian. -/

namespace Sys2Proof

/-- One byte of memory. -/
abbrev Byte := BitVec 8

/-- One instruction word, or one 32-bit lane (R173, R249). -/
abbrev Word := BitVec 32

/-- One g register (R197). -/
abbrev Dword := BitVec 64

/-- One v register, 32 lanes of 32 bits (R197, R249). -/
abbrev Vec := BitVec 1024

/-- One p register, one bit per 8-bit lane (R197). -/
abbrev Pred := BitVec 128

/-- A 48-bit address field (R36, R60). -/
abbrev Va := BitVec 48

/-- A 6-bit register field (R182). -/
abbrev RegNum := BitVec 6

/-- A 4-bit predicate field (R182). -/
abbrev PredNum := BitVec 4

end Sys2Proof
end

