-- ==== Sys2Proof/Config.lean ====
section
/-! DEFINITION. What the spec leaves to each device: free values, as constants without a body. -/

namespace Sys2Proof.Config

/-- The SHA3-512 digest of bytes, which the spec names and does not define. DESIGN CHOICE (log 10). -/
opaque sha3 : List Byte → List Byte

/-- The first 8 bytes of the keyed SHA3-512 digest of bytes (R25). DESIGN CHOICE (log 10). -/
opaque keyedDigest : List Byte → List Byte → Dword

/-- Whether an ML-DSA-87 signature of bytes holds under a key (R17, R30, R31). DESIGN CHOICE (log 10). -/
opaque signatureHolds : List Byte → List Byte → List Byte → Bool

/-- The identity key's ML-DSA-87 signature over bytes (R17). DESIGN CHOICE (log 10). -/
opaque identitySign : List Byte → List Byte

/-- The identity public key (R17), and the Lumtur key in ROM (R16). DESIGN CHOICE (log 10). -/
opaque identityKey : List Byte
/-- DESIGN CHOICE (log 10). -/
opaque lumturKey : List Byte

/-- Whether bytes are a valid ML-KEM-1024 encapsulation key, and an encapsulation to it: the ciphertext and the shared
secret, for the n-th one made (R30). DESIGN CHOICE (log 10). -/
opaque kemValid : List Byte → Bool
/-- DESIGN CHOICE (log 3). -/
opaque kemCiphertext : List Byte → Nat → List Byte
/-- DESIGN CHOICE (log 3). -/
opaque kemSecret : List Byte → Nat → List Byte

/-- The counters of the dies but ND0, by die and boot: how far each is ahead as ND0's starts, and its drift in each
10,000 ns, whose remainder by 3 stands for a count lost, none, or one gained (R156). DESIGN CHOICE (log 11). -/
opaque dieStart : Nat → Nat → Nat
/-- DESIGN CHOICE (log 11). -/
opaque dieDrift : Nat → Nat → Nat → Nat

/-- The three fixed neighbours of a sensor (R152). DESIGN CHOICE (log 47). -/
opaque sensorNeighbour : Nat → Nat → Nat

/-- The result of AENQ or APCHASE that meets a race as it is performed, by its word (R108).
DEDUCED (log 15). DESIGN CHOICE (log 80). -/
opaque racedResult : Nat → Dword

/-- Which of the places that an atomic reads of a list holds an uncorrectable error, by its word (R235).
DESIGN CHOICE (log 68). -/
opaque errorAt : Nat → Nat

/-- The place that is logged where the data of a load of a register of an agent or of the counter window has an error, by
the load's word and the offset (R235). DESIGN CHOICE (log 62). -/
opaque registerPlace : Nat → Nat → Nat

/-- Whether a SWPT whose entry names no packet start puts the target into sr.tinfo (R174), by the address of the entry;
else it puts that address (R142). DESIGN CHOICE (log 71). -/
opaque swptTarget : Nat → Bool

/-- Energy used since a device time, up to a device time: of a context in nJ (R157); of a partition, or of the package
for none, in µJ (R34). DESIGN CHOICE (log 11). -/
opaque contextEnergy : Nat → Nat → Nat → Dword
/-- DESIGN CHOICE (log 11). -/
opaque partitionEnergy : Option Nat → Nat → Nat → Dword

/-- A byte that a copy reads outside the device: of a host or a peer, by its number, the address, and a count of reads.
DESIGN CHOICE (log 38). -/
opaque outsideByte : Bool → Nat → Nat → Nat → BitVec 8

/-- Whether the n-th check of a stope that is flagged is that of its array (R150). DESIGN CHOICE (log 44). -/
opaque arrayFlagged : Nat → Bool

/-- The header of the n-th packet that the fabric engine sends, whose layout the spec does not give (R384), and the port
it leaves by (R23, R362). DESIGN CHOICE (log 3). -/
opaque packetHeader : Nat → BitVec 256
/-- DESIGN CHOICE (log 3). -/
opaque packetPort : Nat → Nat

/-- The Foreman's choices: the rank of a logical stope at the n-th assignment (R20); the place in the list of free
granules of the one that it maps for the n-th granule of a partition, and whether it declines one (R70); the address of
the snapshot region of the n-th context, whose low six bits do not count (R56, R209); and where in the region the
copy-queue image of a launch's gang stope goes (R330). DESIGN CHOICE (log 3, 30). -/
opaque stopeRank : Nat → Nat → Nat
/-- DESIGN CHOICE (log 3). DEDUCED (log 24). -/
opaque granuleChoice : Nat → Nat → Nat
/-- DESIGN CHOICE (log 3). DEDUCED (log 24). -/
opaque granuleDeclined : Nat → Nat → Nat → Bool
/-- DESIGN CHOICE (log 3, 52). -/
opaque snapshotRegion : Nat → Nat
/-- DESIGN CHOICE (log 42). -/
opaque queueImageAddr : Nat → Nat → Nat

/-- Whether the n-th boot derives the identity seed (R16). DESIGN CHOICE (log 3). -/
opaque seedDerived : Nat → Bool

end Sys2Proof.Config
end

