-- ==== Sys2Proof/Machine/Flags.lean ====
section
/-! DEFINITION. The sticky flags of sr.fflags and of the accumulator banks (spec/06_numbers.md R125). A flag is set by
every operation whose result meets its condition; the operations of Numbers, Special and Micro answer their flags
beside their results. -/

namespace Sys2Proof.Machine

/-- The five sticky flags NV, DZ, OF, UF, NX in bits [4] to [0] (R125). -/
abbrev Flags := BitVec 5

def flagNV : Flags := 0b10000#5
def flagDZ : Flags := 0b01000#5
def flagOF : Flags := 0b00100#5
def flagUF : Flags := 0b00010#5
def flagNX : Flags := 0b00001#5

/-- Join the flags of several lanes or elements. -/
def joinFlags (xs : List Flags) : Flags := xs.foldl (fun acc f => acc ||| f) 0

end Sys2Proof.Machine
end

