-- ==== Sys2Proof/Syntax.lean ====
section
/-! DEFINITION. The syntax of the MB4: the operand subfields of the instruction words (spec/09_encoding.md R181 to
R189), what the events of the device bring with them, and Instr, one constructor for every row of
spec/opcode_table.json. -/

namespace Sys2Proof

/-! ## Subfields of the words -/

/-- Scope of an atomic (R94, R186). -/
inductive Scope where
  | stope | die | package | system
  deriving DecidableEq, Repr

/-- Ordering of an atomic (R92, R186). -/
inductive Order where
  | relaxed | acquire | release | acqRel | sc
  deriving DecidableEq, Repr

/-- A rounding mode, codes 0 to 4 (R123). -/
inductive Mode where
  | rne | rtz | rup | rdn | rsh
  deriving DecidableEq, Repr

/-- A rounding field of formats VC and MD: a mode, or the dynamic mode of sr.frm (R123, R186). -/
inductive Rnd where
  | fixed (m : Mode) | dyn
  deriving DecidableEq, Repr

/-- Source and target codes of VCVT, in code order (R186). -/
inductive CvtFmt where
  | int32 | uint32 | fp32 | bf16 | int16 | int8 | e4m3 | e5m2
  deriving DecidableEq, Repr

/-- Drain formats (R186). -/
inductive DrainFmt where
  | fp32 | bf16 | int32
  deriving DecidableEq, Repr

/-- Operations of VRED (R189). -/
inductive RedOp where
  | add | min | max | fadd | fmin | fmax
  deriving DecidableEq, Repr

/-- Element formats of R126, codes 0 to 7. VQNT takes the first seven (R189). -/
inductive ElemFmt where
  | t2 | e2m1 | e2m3 | e3m2 | int8 | e4m3 | e5m2 | bf16
  deriving DecidableEq, Repr

/-- Selectors of MSTAT (R306): a bank, an offset register, the lease. -/
inductive MstatSel where
  | bank (k : BitVec 2) | offset (k : BitVec 3) | lease
  deriving DecidableEq, Repr

/-- The W and q bits of VPACK and VUNPACK (R261): a 16-bit part 0 or 1, or an 8-bit part 0 to 3. -/
inductive PartSel where
  | half (q : Bool) | byte (q : BitVec 2)
  deriving DecidableEq, Repr

/-- The numbered system registers, in number order (R270). -/
inductive SysReg where
  | fflags | frm | seed | tvec | tcause | tinfo | plevel | freezelimit | dmask | snapver | gpc | glink
  | lc | ec | rrb | lstart | lend | lgpc | prio | deadline | cbase
  deriving DecidableEq, Repr

/-! ## What events bring -/

/-- A core: its logical stope and its number in the stope (R8). -/
structure CoreId where
  stope : BitVec 6
  core  : BitVec 2
  deriving DecidableEq, Repr

/-- A request to the Foreman (R25): the header's fields, the Ultra Ethernet Transport address it came from, whether it
came by reliable ordered delivery, and the body's bytes. -/
structure Request where
  auth      : Dword
  context   : Dword
  length    : Word
  seq       : Word
  status    : BitVec 16
  function  : Byte
  partition : Byte
  type      : BitVec 16
  reserved  : Byte
  version   : Byte
  source    : BitVec 128
  /-- Whether its connection delivers in order (R26). -/
  ordered   : Bool
  body      : List Byte
  deriving DecidableEq, Repr

/-- The delivery modes that the ports do not support (R14). -/
inductive UetMode where
  | rudi | uud
  deriving DecidableEq, Repr

/-- Kinds of sensor (R152). -/
inductive SensorKind where
  | thermal | current
  deriving DecidableEq, Repr

/-- One sample of one sensor: its number and its reading, in degrees or in percent of the rail's rating (R152). -/
structure SensorSample where
  sensor : Nat
  value  : Int
  deriving DecidableEq, Repr

/-- What the governor samples at an evaluation (R139, R152): whether a queue's average depth exceeded 75 %
in the last period, and the readings that have changed. -/
structure GovernorInput where
  queueFull : Bool
  sensors   : List SensorSample
  deriving DecidableEq, Repr

/-- A parity error met by a group at a step of a matrix product (R300): how many times in a row. -/
structure ParityError where
  group : Nat
  step  : Nat
  times : Nat
  deriving DecidableEq, Repr

/-- The operations that the fabric carries (R363, R370, R371). -/
inductive FabFn where
  | load | store | add | and | or | xor | min | max | swap | cas
  | redAdd | redAnd | redOr | redXor | redMin | redMax | redFadd | redFmin | redFmax
  | ticket | trig
  deriving DecidableEq, Repr

/-- An operation as a packet carries it (R364, R369 to R373): the function, the address at the target, the
access size in bytes, the data, the second datum of CAS, and the counter to notify at the target. -/
structure FabOp where
  fn     : FabFn
  addr   : Dword
  size   : Nat
  data   : Vec
  data2  : Dword
  notify : Option Dword
  deriving DecidableEq, Repr

/-- What an arriving packet asks for (R352, R355, R358): an operation, a contribution that a switch group member makes to
a reduction window homed here, or the call of a ticket whose holder counter lies here. -/
inductive PacketBody where
  | operation (op : FabOp)
  | contribution (group : BitVec 16) (rank : Nat) (op : FabOp)
  | call (counter : Dword)
  | ackOnly
  deriving DecidableEq, Repr

/-- An operation packet (R351 to R353). -/
structure Packet where
  package : BitVec 19
  context : Dword
  seq     : Word
  rack    : Word
  body    : PacketBody
  deriving DecidableEq, Repr

/-- The reply of a remote operation (R353, R356): its status word and up to 128 bytes. -/
structure FabReply where
  status : Dword
  data   : Vec
  flags  : BitVec 5
  deriving DecidableEq, Repr

/-- A flit as received: beat 0, its header (R383), and beats 1 to 7. -/
structure Flit where
  header : BitVec 256
  beats  : BitVec 1792
  deriving DecidableEq, Repr


/-- The instructions and events of spec/opcode_table.json, one constructor a row, in the table's order.
A word constructor holds the fields the table names, less the chain bit (R173), which belongs to the clause.
An event constructor holds what the outside world, or the unit that acts, brings to the step. -/
inductive Instr where
  -- Majors 0 and 28: system words and waits (14)
  /-- NOP (R180). -/
  | nop
  /-- TRAP (R273). -/
  | trap (a k : RegNum) (t : Bool)
  /-- ERET (R274). -/
  | eret
  /-- RDSR (R272). -/
  | rdsr (d : RegNum) (s : SysReg)
  /-- WRSR (R272). -/
  | wrsr (a : RegNum) (s : SysReg) (t : Bool)
  /-- SNAPRD (R275). -/
  | snaprd (d a : RegNum) (t : Bool)
  /-- SNAPWR (R275). -/
  | snapwr (a b : RegNum) (t u : Bool)
  /-- FENCE_S (R276). -/
  | fenceS
  /-- FENCE_D (R276). -/
  | fenceD
  /-- FENCE_Y (R276). -/
  | fenceY
  /-- SUSPEND (R277). -/
  | suspend
  /-- ENDSTEP (R277). -/
  | endstep
  /-- EXIT (R277). -/
  | exit (a : RegNum) (t : Bool)
  /-- LAUNCH (R278). -/
  | launch (d a : RegNum) (t : Bool)
  /-- DEADLINE (R279). -/
  | deadline (a b : RegNum) (t u : Bool)
  /-- SWPT (R280). -/
  | swpt (j : BitVec 12)
  /-- WAITGE (R283). -/
  | waitge (a b : RegNum) (t u : Bool)
  /-- ARMCNT (R282). -/
  | armcnt (a b : RegNum) (t u : Bool)
  /-- BAR (R284). -/
  | bar (a b : RegNum) (t u : Bool)
  -- Majors 1 and 2: integer arithmetic and logic (11)
  /-- ADD (R217). -/
  | add (d a b : RegNum) (t u : Bool)
  /-- SUB (R217). -/
  | sub (d a b : RegNum) (t u : Bool)
  /-- AND (R217). -/
  | and (d a b : RegNum) (t u : Bool)
  /-- OR (R217). -/
  | or (d a b : RegNum) (t u : Bool)
  /-- XOR (R217). -/
  | xor (d a b : RegNum) (t u : Bool)
  /-- ANDN (R217). -/
  | andn (d a b : RegNum) (t u : Bool)
  /-- SLL (R217). -/
  | sll (d a b : RegNum) (t u : Bool)
  /-- SRL (R217). -/
  | srl (d a b : RegNum) (t u : Bool)
  /-- SRA (R217). -/
  | sra (d a b : RegNum) (t u : Bool)
  /-- ROTL (R217). -/
  | rotl (d a b : RegNum) (t u : Bool)
  /-- SLT (R217). -/
  | slt (d a b : RegNum) (t u : Bool)
  /-- SLTU (R217). -/
  | sltu (d a b : RegNum) (t u : Bool)
  /-- SEQ (R217). -/
  | seq (d a b : RegNum) (t u : Bool)
  /-- MIN (R217). -/
  | min (d a b : RegNum) (t u : Bool)
  /-- MAX (R217). -/
  | max (d a b : RegNum) (t u : Bool)
  /-- MINU (R217). -/
  | minu (d a b : RegNum) (t u : Bool)
  /-- MAXU (R217). -/
  | maxu (d a b : RegNum) (t u : Bool)
  /-- CLZ (R217). -/
  | clz (d a : RegNum) (t : Bool)
  /-- POPC (R217). -/
  | popc (d a : RegNum) (t : Bool)
  /-- SLLI (R217). -/
  | slli (d a k : RegNum) (t : Bool)
  /-- SRLI (R217). -/
  | srli (d a k : RegNum) (t : Bool)
  /-- SRAI (R217). -/
  | srai (d a k : RegNum) (t : Bool)
  /-- ROTLI (R217). -/
  | rotli (d a k : RegNum) (t : Bool)
  /-- ADDI (R218). -/
  | addi (d a : RegNum) (t : Bool) (i : BitVec 13)
  -- Majors 3 and 4: multiply, divide and constants (11)
  /-- MUL (R219). -/
  | mul (d a b : RegNum) (t u : Bool)
  /-- MULH (R219). -/
  | mulh (d a b : RegNum) (t u : Bool)
  /-- MULHU (R219). -/
  | mulhu (d a b : RegNum) (t u : Bool)
  /-- MULHSU (R219). -/
  | mulhsu (d a b : RegNum) (t u : Bool)
  /-- DIV (R219). -/
  | div (d a b : RegNum) (t u : Bool)
  /-- DIVU (R219). -/
  | divu (d a b : RegNum) (t u : Bool)
  /-- REM (R219). -/
  | rem (d a b : RegNum) (t u : Bool)
  /-- REMU (R219). -/
  | remu (d a b : RegNum) (t u : Bool)
  /-- LI (R220). -/
  | li (d : RegNum) (q : BitVec 2) (i : BitVec 16)
  /-- LIK (R220). -/
  | lik (d : RegNum) (q : BitVec 2) (i : BitVec 16)
  -- Majors 5 to 8: branches, jumps, LOOP and predicate logic (11)
  /-- BEQ (R221). -/
  | beq (a b : RegNum) (t : Bool) (o : BitVec 10)
  /-- BNE (R221). -/
  | bne (a b : RegNum) (t : Bool) (o : BitVec 10)
  /-- BLT (R221). -/
  | blt (a b : RegNum) (t : Bool) (o : BitVec 10)
  /-- BGE (R221). -/
  | bge (a b : RegNum) (t : Bool) (o : BitVec 10)
  /-- BLTU (R221). -/
  | bltu (a b : RegNum) (t : Bool) (o : BitVec 10)
  /-- BGEU (R221). -/
  | bgeu (a b : RegNum) (t : Bool) (o : BitVec 10)
  /-- JMP (R222). -/
  | jmp (o : BitVec 25)
  /-- JAL (R222). -/
  | jal (o : BitVec 25)
  /-- JR (R223). -/
  | jr (a : RegNum) (t : Bool)
  /-- JALR (R223). -/
  | jalr (d a : RegNum) (t : Bool)
  /-- CALL (R223). -/
  | call (d a b : RegNum) (t u : Bool)
  /-- RET (R223). -/
  | ret (a : RegNum) (t : Bool)
  /-- GSET (R223). -/
  | gset (a : RegNum) (t : Bool)
  /-- LOOP (R228). -/
  | loop (l a e : RegNum) (t : Bool)
  /-- PAND (R227). -/
  | pand (d a b : RegNum) (t u : Bool)
  /-- POR (R227). -/
  | por (d a b : RegNum) (t u : Bool)
  /-- PXOR (R227). -/
  | pxor (d a b : RegNum) (t u : Bool)
  /-- PANDN (R227). -/
  | pandn (d a b : RegNum) (t u : Bool)
  /-- PNOT (R227). -/
  | pnot (d a : RegNum) (t : Bool)
  /-- PCNT (R227). -/
  | pcnt (d a : RegNum) (t : Bool)
  -- Majors 9 to 13: loads, stores and atomics (12)
  /-- LD (R236). -/
  | ld (d b : RegNum) (t : Bool) (l : RegNum) (o : BitVec 7)
  /-- ST (R237). -/
  | st (s b : RegNum) (t u : Bool) (o : BitVec 12)
  /-- ALD (R241). -/
  | ald (d a : RegNum) (t : Bool) (s : Scope) (o : Order) (z : Bool)
  /-- AST (R241). -/
  | ast (d a : RegNum) (t : Bool) (s : Scope) (o : Order) (z : Bool)
  /-- ATOM_ADD (R241). -/
  | atomAdd (d a : RegNum) (t : Bool) (s : Scope) (o : Order) (z : Bool)
  /-- ATOM_AND (R241). -/
  | atomAnd (d a : RegNum) (t : Bool) (s : Scope) (o : Order) (z : Bool)
  /-- ATOM_OR (R241). -/
  | atomOr (d a : RegNum) (t : Bool) (s : Scope) (o : Order) (z : Bool)
  /-- ATOM_XOR (R241). -/
  | atomXor (d a : RegNum) (t : Bool) (s : Scope) (o : Order) (z : Bool)
  /-- ATOM_MIN (R241). -/
  | atomMin (d a : RegNum) (t : Bool) (s : Scope) (o : Order) (z : Bool)
  /-- ATOM_MAX (R241). -/
  | atomMax (d a : RegNum) (t : Bool) (s : Scope) (o : Order) (z : Bool)
  /-- ATOM_MINU (R241). -/
  | atomMinu (d a : RegNum) (t : Bool) (s : Scope) (o : Order) (z : Bool)
  /-- ATOM_MAXU (R241). -/
  | atomMaxu (d a : RegNum) (t : Bool) (s : Scope) (o : Order) (z : Bool)
  /-- ATOM_SWAP (R241). -/
  | atomSwap (d a : RegNum) (t : Bool) (s : Scope) (o : Order) (z : Bool)
  /-- ATOM_FADD (R244). -/
  | atomFadd (d a : RegNum) (t : Bool) (s : Scope) (o : Order)
  /-- ATOM_FMIN (R243). -/
  | atomFmin (d a : RegNum) (t : Bool) (s : Scope) (o : Order)
  /-- ATOM_FMAX (R243). -/
  | atomFmax (d a : RegNum) (t : Bool) (s : Scope) (o : Order)
  /-- ACAS (R245). -/
  | acas (d : BitVec 5) (a : RegNum) (t : Bool) (s : Scope) (o : Order) (z : Bool)
  /-- ACAS2 (R245). -/
  | acas2 (d : BitVec 4) (a : RegNum) (t : Bool) (s : Scope) (o : Order)
  /-- AENQ (R246). -/
  | aenq (d a : RegNum) (t : Bool) (s : Scope) (o : Order)
  /-- APCHASE (R247). -/
  | apchase (d a : RegNum) (t : Bool) (s : Scope) (o : Order)
  /-- ARED_ADD (R241). -/
  | aredAdd (d a : RegNum) (t : Bool) (s : Scope) (o : Order) (z : Bool)
  /-- ARED_AND (R241). -/
  | aredAnd (d a : RegNum) (t : Bool) (s : Scope) (o : Order) (z : Bool)
  /-- ARED_OR (R241). -/
  | aredOr (d a : RegNum) (t : Bool) (s : Scope) (o : Order) (z : Bool)
  /-- ARED_XOR (R241). -/
  | aredXor (d a : RegNum) (t : Bool) (s : Scope) (o : Order) (z : Bool)
  /-- ARED_MIN (R241). -/
  | aredMin (d a : RegNum) (t : Bool) (s : Scope) (o : Order) (z : Bool)
  /-- ARED_MAX (R241). -/
  | aredMax (d a : RegNum) (t : Bool) (s : Scope) (o : Order) (z : Bool)
  /-- ARED_MINU (R241). -/
  | aredMinu (d a : RegNum) (t : Bool) (s : Scope) (o : Order) (z : Bool)
  /-- ARED_MAXU (R241). -/
  | aredMaxu (d a : RegNum) (t : Bool) (s : Scope) (o : Order) (z : Bool)
  /-- ARED_FADD (R244). -/
  | aredFadd (d a : RegNum) (t : Bool) (s : Scope) (o : Order)
  /-- ARED_FMIN (R243). -/
  | aredFmin (d a : RegNum) (t : Bool) (s : Scope) (o : Order)
  /-- ARED_FMAX (R243). -/
  | aredFmax (d a : RegNum) (t : Bool) (s : Scope) (o : Order)
  /-- VLD (R238). -/
  | vld (v b : RegNum) (t : Bool) (l : RegNum)
  /-- VST_W (R238). -/
  | vstW (v b : RegNum) (t : Bool) (p : BitVec 4)
  /-- VST_H (R238). -/
  | vstH (v b : RegNum) (t : Bool) (p : BitVec 4)
  /-- VST_B (R238). -/
  | vstB (v b : RegNum) (t : Bool) (p : BitVec 4)
  /-- VGATHER (R239). -/
  | vgather (v b x : RegNum) (t : Bool) (p : BitVec 4)
  /-- VSCATTER (R239). -/
  | vscatter (v b x : RegNum) (t : Bool) (p : BitVec 4)
  -- Majors 14 to 20: vector words (13)
  /-- VADD (R253). -/
  | vadd (d a b : RegNum) (t : Bool) (p : BitVec 4)
  /-- VSUB (R253). -/
  | vsub (d a b : RegNum) (t : Bool) (p : BitVec 4)
  /-- VMUL (R253). -/
  | vmul (d a b : RegNum) (t : Bool) (p : BitVec 4)
  /-- VMIN (R253). -/
  | vmin (d a b : RegNum) (t : Bool) (p : BitVec 4)
  /-- VMAX (R253). -/
  | vmax (d a b : RegNum) (t : Bool) (p : BitVec 4)
  /-- VAND (R253). -/
  | vand (d a b : RegNum) (t : Bool) (p : BitVec 4)
  /-- VOR (R253). -/
  | vor (d a b : RegNum) (t : Bool) (p : BitVec 4)
  /-- VXOR (R253). -/
  | vxor (d a b : RegNum) (t : Bool) (p : BitVec 4)
  /-- VFADD (R256). -/
  | vfadd (d a b : RegNum) (t : Bool) (p : BitVec 4)
  /-- VFSUB (R256). -/
  | vfsub (d a b : RegNum) (t : Bool) (p : BitVec 4)
  /-- VFMUL (R256). -/
  | vfmul (d a b : RegNum) (t : Bool) (p : BitVec 4)
  /-- VFDIV (R256). -/
  | vfdiv (d a b : RegNum) (t : Bool) (p : BitVec 4)
  /-- VFMIN (R257). -/
  | vfmin (d a b : RegNum) (t : Bool) (p : BitVec 4)
  /-- VFMAX (R257). -/
  | vfmax (d a b : RegNum) (t : Bool) (p : BitVec 4)
  /-- VFSQRT (R256). -/
  | vfsqrt (d a : RegNum) (t : Bool) (p : BitVec 4)
  /-- VFABS (R256). -/
  | vfabs (d a : RegNum) (t : Bool) (p : BitVec 4)
  /-- VFMA (R258). -/
  | vfma (d a b : RegNum) (t : Bool) (p : BitVec 4)
  /-- VFMS (R258). -/
  | vfms (d a b : RegNum) (t : Bool) (p : BitVec 4)
  /-- VFNMA (R258). -/
  | vfnma (d a b : RegNum) (t : Bool) (p : BitVec 4)
  /-- VFNMS (R258). -/
  | vfnms (d a b : RegNum) (t : Bool) (p : BitVec 4)
  /-- VMAD (R255). -/
  | vmad (d a b : RegNum) (t : Bool) (p : BitVec 4)
  /-- VDOT4 (R255). -/
  | vdot4 (d a b : RegNum) (t : Bool) (p : BitVec 4)
  /-- VCVT (R259). -/
  | vcvt (d a : RegNum) (r : Rnd) (s : CvtFmt) (z : Bool) (p : BitVec 4) (g : CvtFmt)
  /-- VSHL (R254). -/
  | vshl (d a b : RegNum) (t : Bool) (p : BitVec 4)
  /-- VSHR (R254). -/
  | vshr (d a b : RegNum) (t : Bool) (p : BitVec 4)
  /-- VSHRA (R254). -/
  | vshra (d a b : RegNum) (t : Bool) (p : BitVec 4)
  /-- VPERM (R254). -/
  | vperm (d a b : RegNum) (t : Bool) (p : BitVec 4)
  /-- VBCAST (R254). -/
  | vbcast (d a : RegNum) (h t : Bool) (p : BitVec 4)
  /-- VRED (R263). -/
  | vred (d a : RegNum) (o : RedOp) (t : Bool) (p : BitVec 4)
  /-- VPACK (R261). -/
  | vpack (d a : RegNum) (q : PartSel) (t : Bool)
  /-- VUNPACK (R261). -/
  | vunpack (d a : RegNum) (q : PartSel) (t : Bool)
  /-- VEXP2 (R264). -/
  | vexp2 (d a : RegNum) (t : Bool) (p : BitVec 4)
  /-- VLOG2 (R264). -/
  | vlog2 (d a : RegNum) (t : Bool) (p : BitVec 4)
  /-- VRCP (R264). -/
  | vrcp (d a : RegNum) (t : Bool) (p : BitVec 4)
  /-- VRSQRT (R264). -/
  | vrsqrt (d a : RegNum) (t : Bool) (p : BitVec 4)
  /-- VSINPI (R264). -/
  | vsinpi (d a : RegNum) (t : Bool) (p : BitVec 4)
  /-- VTANH (R264). -/
  | vtanh (d a : RegNum) (t : Bool) (p : BitVec 4)
  /-- VRNG (R267). -/
  | vrng (d a : RegNum) (t : Bool) (p : BitVec 4)
  /-- VQNT (R262). -/
  | vqnt (d a : RegNum) (f : ElemFmt) (t : Bool) (p : BitVec 4)
  /-- VCMPEQ (R265). -/
  | vcmpeq (d : BitVec 4) (a b : RegNum) (t : Bool) (p : BitVec 4)
  /-- VCMPLT (R265). -/
  | vcmplt (d : BitVec 4) (a b : RegNum) (t : Bool) (p : BitVec 4)
  /-- VCMPLE (R265). -/
  | vcmple (d : BitVec 4) (a b : RegNum) (t : Bool) (p : BitVec 4)
  /-- VFCMPEQ (R265). -/
  | vfcmpeq (d : BitVec 4) (a b : RegNum) (t : Bool) (p : BitVec 4)
  /-- VFCMPLT (R265). -/
  | vfcmplt (d : BitVec 4) (a b : RegNum) (t : Bool) (p : BitVec 4)
  /-- VFCMPLE (R265). -/
  | vfcmple (d : BitVec 4) (a b : RegNum) (t : Bool) (p : BitVec 4)
  /-- VSEL (R266). -/
  | vsel (d a b : RegNum) (t : Bool) (p : BitVec 4)
  /-- VMSK (R266). -/
  | vmsk (d : BitVec 4) (a : RegNum) (t : Bool) (p : BitVec 4)
  -- Majors 21 to 23: the array (17)
  /-- MLEASE (R304). -/
  | mlease
  /-- MREL (R304). -/
  | mrel
  /-- MCLR (R307). -/
  | mclr (k : BitVec 2)
  /-- MOFS (R305). -/
  | mofs (d : BitVec 3) (a : RegNum) (t : Bool)
  /-- MSTAT (R306). -/
  | mstat (d : RegNum) (k : MstatSel)
  /-- MMA (R308). -/
  | mma (w a : BitVec 5) (x y : BitVec 3) (t : Bool)
  /-- MMAW (R310). -/
  | mmaw (w a : BitVec 5) (x y : BitVec 3) (t : Bool)
  /-- MDRAIN (R313). -/
  | mdrain (d : BitVec 5) (k : BitVec 2) (r : Rnd) (f : DrainFmt) (t : Bool)
  -- Majors 24 and 25: the copy engine (20)
  /-- CPY (R335). -/
  | cpy (t : RegNum) (q : BitVec 4) (n : RegNum) (u v : Bool)
  /-- CPYH (R336). -/
  | cpyh (t : RegNum) (q : BitVec 4) (n : RegNum) (u v : Bool)
  /-- STAGE (R342). -/
  | stage (a : RegNum) (t : Bool)
  /-- CPYP (R337). -/
  | cpyp (t : RegNum) (q : BitVec 4) (n : RegNum) (u v : Bool)
  /-- CPYE (R338). -/
  | cpye (t : RegNum) (q : BitVec 4) (n : RegNum) (u v : Bool)
  -- Majors 26 and 27: the fabric (23)
  /-- RLD (R369). -/
  | rld (d a b : RegNum) (t u : Bool)
  /-- RST (R369). -/
  | rst (s a b : RegNum) (t u : Bool)
  /-- RAT_ADD (R370). -/
  | ratAdd (d a b : RegNum) (t u : Bool)
  /-- RAT_AND (R370). -/
  | ratAnd (d a b : RegNum) (t u : Bool)
  /-- RAT_OR (R370). -/
  | ratOr (d a b : RegNum) (t u : Bool)
  /-- RAT_XOR (R370). -/
  | ratXor (d a b : RegNum) (t u : Bool)
  /-- RAT_MIN (R370). -/
  | ratMin (d a b : RegNum) (t u : Bool)
  /-- RAT_MAX (R370). -/
  | ratMax (d a b : RegNum) (t u : Bool)
  /-- RAT_SWAP (R370). -/
  | ratSwap (d a b : RegNum) (t u : Bool)
  /-- RAT_CAS (R370). -/
  | ratCas (d : BitVec 5) (a b : RegNum) (t u : Bool)
  /-- RRED_ADD (R371). -/
  | rredAdd (s a b : RegNum) (t u : Bool)
  /-- RRED_AND (R371). -/
  | rredAnd (s a b : RegNum) (t u : Bool)
  /-- RRED_OR (R371). -/
  | rredOr (s a b : RegNum) (t u : Bool)
  /-- RRED_XOR (R371). -/
  | rredXor (s a b : RegNum) (t u : Bool)
  /-- RRED_MIN (R371). -/
  | rredMin (s a b : RegNum) (t u : Bool)
  /-- RRED_MAX (R371). -/
  | rredMax (s a b : RegNum) (t u : Bool)
  /-- RRED_FADD (R371). -/
  | rredFadd (s a b : RegNum) (t u : Bool)
  /-- RRED_FMIN (R371). -/
  | rredFmin (s a b : RegNum) (t u : Bool)
  /-- RRED_FMAX (R371). -/
  | rredFmax (s a b : RegNum) (t u : Bool)
  /-- POST (R377). -/
  | post (a : RegNum) (t : Bool)
  /-- TRIG (R372). -/
  | trig (a b : RegNum) (t u : Bool)
  /-- TICKET (R373). -/
  | ticket (d a b : RegNum) (t u : Bool)
  /-- FLAGADD (R374). -/
  | flagadd (a b : RegNum) (t u : Bool)
  /-- FLAGSET (R374). -/
  | flagset (m a b : RegNum) (t u : Bool)
  /-- BARG (R375). -/
  | barg (a b : RegNum) (t u : Bool)
  -- Events (spec/95_what_each_step_holds.md)
  /-- IDENTIFY (R28). -/
  | identify (r : Request)
  /-- ATTEST (R29). -/
  | attest (r : Request)
  /-- FIRMWARE_LOAD (R31). -/
  | firmwareLoad (r : Request)
  /-- PARTITION_ASSIGN (R32). -/
  | partitionAssign (r : Request)
  /-- PARTITION_RELEASE (R32). -/
  | partitionRelease (r : Request)
  /-- SESSION_OPEN (R30). -/
  | sessionOpen (r : Request)
  /-- UNSUPPORTED_PACKET (R14). -/
  | unsupportedPacket (m : UetMode)
  /-- LTT_LOAD (R69). -/
  | lttLoad (r : Request)
  /-- CONTEXT_RELEASE (R73). -/
  | contextRelease (r : Request)
  /-- LTT_INSTALL (R72). -/
  | lttInstall (ctx : Nat)
  /-- LTT_SHOOTDOWN (R73). -/
  | lttShootdown (r : Request)
  /-- LAUNCH_REQUEST (R41). -/
  | launchRequest (r : Request)
  /-- LAUNCH_STATUS (R41). -/
  | launchStatus (r : Request)
  /-- LAUNCH_CANCEL (R41). -/
  | launchCancel (r : Request)
  /-- LAUNCH_CANCEL_FORCE (R41). -/
  | launchCancelForce (r : Request)
  /-- MEM_READ (R33). -/
  | memRead (r : Request)
  /-- MEM_WRITE (R33). -/
  | memWrite (r : Request)
  /-- SNAPSHOT_READ (R212). -/
  | snapshotRead (r : Request)
  /-- SNAPSHOT_WRITE (R212). -/
  | snapshotWrite (r : Request)
  /-- TELEMETRY_STATUS (R34). -/
  | telemetryStatus (r : Request)
  /-- TELEMETRY_START_SAMPLING (R34). -/
  | telemetryStartSampling (r : Request)
  /-- TELEMETRY_STOP_SAMPLING (R34). -/
  | telemetryStopSampling (r : Request)
  /-- TELEMETRY_DRAIN_SAMPLES (R34). -/
  | telemetryDrainSamples (r : Request)
  /-- BOOT (R16). -/
  | boot (failed : BitVec 8)
  /-- CHECKED_PAIR_TAKEOVER (R15). -/
  | checkedPairTakeover
  /-- STOPE_FAILURE (R21). -/
  | stopeFailure (stope : BitVec 6)
  /-- HBM_CHANNEL_RETIREMENT (R22). -/
  | hbmChannelRetirement (stack : BitVec 3) (chan : BitVec 5)
  /-- DIE_LOSS (R24). -/
  | dieLoss (die : BitVec 3)
  /-- DISPATCH_ADMISSION (R42). -/
  | dispatchAdmission (part : BitVec 4)
  /-- BACKOFF_EXPIRY (R45). -/
  | backoffExpiry (launch : Nat)
  /-- LAUNCH_PREEMPTION (R56). -/
  | launchPreemption (launch : Nat)
  /-- TASK_PREEMPTION (R56). -/
  | taskPreemption (core : CoreId) (ns : Nat)
  /-- PREEMPTION_DEFERRAL_BOUND (R213). -/
  | preemptionDeferralBound (core : CoreId)
  /-- TASK_RESUMPTION (R51). -/
  | taskResumption (core : CoreId)
  /-- REGENERATION_LAUNCH (R54). -/
  | regenerationLaunch (launch : Nat) (page : BitVec 27)
  /-- REFETCH_FILL_COMPLETE (R84). -/
  | refetchFillComplete (ctx : Nat) (page : BitVec 27)
  /-- STEP_CLOSE (R52). -/
  | stepClose (launch : Nat)
  /-- STEP_OPEN (R52). -/
  | stepOpen (launch : Nat)
  /-- LAUNCH_FAULT (R58). -/
  | launchFault (launch : Nat)
  /-- RESULT_WRITE (R195). -/
  | resultWrite (core : CoreId)
  /-- LOAD_DATA_ARRIVAL (R201). -/
  | loadDataArrival (core : CoreId) (word : Nat) (ue : Bool)
  /-- LANDING_WRITE (R185). -/
  | landingWrite (core : CoreId)
  /-- FREEZE_TIMEOUT (R203). -/
  | freezeTimeout (stope : BitVec 6)
  /-- CHECK_WINDOW_CLOSE (R150). -/
  | checkWindowClose (core : CoreId)
  /-- TIMING_REPLAY (R150). -/
  | timingReplay (core : CoreId)
  /-- ATOMIC_ACKNOWLEDGEMENT (R241). -/
  | atomicAcknowledgement (core : CoreId) (word : Nat)
  /-- DEADLINE_RISK_INTERRUPT (R147). -/
  | deadlineRiskInterrupt (core : CoreId)
  /-- GOVERNOR_EVALUATION (R143). -/
  | governorEvaluation (inp : GovernorInput)
  /-- LEVEL_CHANGE_COMPLETE (R140). -/
  | levelChangeComplete
  /-- POWER_GRANT (R141). -/
  | powerGrant (level : BitVec 3)
  /-- ENERGY_SAMPLE (R155). -/
  | energySample (ctx : Nat) (mw : List (Nat × Word))
  /-- TIME_CALIBRATION (R156). -/
  | timeCalibration (die : BitVec 3) (offset : Dword) (rate : Dword)
  /-- LEASE_GRANT (R291). -/
  | leaseGrant (stope : BitVec 6)
  /-- MATRIX_COMMAND_START (R298). -/
  | matrixCommandStart (stope : BitVec 6)
  /-- MATRIX_COMMAND_COMPLETE (R314), with the parity errors met and an element of the bank that cannot be corrected (R300). -/
  | matrixCommandComplete (stope : BitVec 6) (parity : List ParityError) (ue : Option (BitVec 14))
  /-- BANK_RELEASE (R289). -/
  | bankRelease (stope : BitVec 6) (bank : BitVec 2)
  /-- BANK_RESTORE (R290). -/
  | bankRestore (stope : BitVec 6) (bank : BitVec 2)
  /-- COPY_SECTOR (R320). -/
  | copySector (stope : BitVec 6) (chan : BitVec 2) (ue : Bool)
  /-- COPY_COMPLETION (R322). -/
  | copyCompletion (stope : BitVec 6) (chan : BitVec 2)
  /-- SCHEDULE_ENTRY_START (R329). -/
  | scheduleEntryStart (launch : Nat) (entry : Nat)
  /-- OPERATION_PACKET_ARRIVAL (R352). -/
  | operationPacketArrival (pkt : Packet)
  /-- DISPENSER_STORE (R355). -/
  | dispenserStore (part : BitVec 4) (stack : BitVec 3) (disp : BitVec 11) (value : Dword)
  /-- FABRIC_OP_COMPLETION (R368). -/
  | fabricOpCompletion (op : Nat) (reply : Option FabReply)
  /-- END_TO_END_TIMEOUT (R352). -/
  | endToEndTimeout (conn : Nat)
  /-- RACK_ACKNOWLEDGEMENT (R353). -/
  | rackAcknowledgement (conn : Nat)
  /-- POSTED_OP_FIRE (R378). -/
  | postedOpFire (post : Nat)
  /-- SWITCH_BARRIER_RELEASE (R357). -/
  | switchBarrierRelease (group : BitVec 16) (status : BitVec 16)
  /-- FLIT_RECEIVE (R350). -/
  | flitReceive (port : BitVec 6) (flit : Flit) (errs : List (Nat × Nat))
  /-- STRIPE_REQUEST_REPEAT (R385). -/
  | stripeRequestRepeat (port : BitVec 6)
  /-- FEC_WINDOW_CLEAR (R348). -/
  | fecWindowClear
  /-- WAVELENGTH_LOCK_LOSS (R348). -/
  | wavelengthLockLoss (port : BitVec 6) (lambda : BitVec 3)
  /-- RETRAINING_END (R346). -/
  | retrainingEnd (port : BitVec 6) (lambda : BitVec 3) (ok : Bool)
  /-- WAVELENGTH_PARK (R349). -/
  | wavelengthPark (port : BitVec 6)
  /-- WAVELENGTH_WAKE (R349). -/
  | wavelengthWake (port : BitVec 6)
  /-- FILL_RESERVE_REFILL (R84). -/
  | fillReserveRefill (part : BitVec 4) (pages : Nat)
  /-- NAK_REPEAT (R387). -/
  | nakRepeat (port : BitVec 6)
  deriving DecidableEq, Repr

end Sys2Proof
end

