-- ==== Sys2Proof/Machine/Numbers.lean ====
section
/-! DEFINITION. Integers, exact values, rounding and binary floating point (spec/06_numbers.md R121 to R127, R136;
spec/13_core_vector.md R256 to R259). -/

namespace Sys2Proof.Machine

/-! ## Integers (R121) -/

/-- wrap(x, fmt) for an N-bit format: the bits of the value congruent to x modulo 2^N. -/
def wrapInt (n : Nat) (x : Int) : Nat := (x % ((2 ^ n : Nat) : Int)).toNat

/-- sat(x, intN). -/
def satInt (n : Nat) (x : Int) : Int := max (-((2 ^ (n - 1) : Nat) : Int)) (min x (((2 ^ (n - 1) : Nat) : Int) - 1))

/-- sat(x, uintN). -/
def satUint (n : Nat) (x : Int) : Int := max 0 (min x (((2 ^ n : Nat) : Int) - 1))

/-- The value of the low n bits of x read as intN. -/
def signedOf (n x : Nat) : Int :=
  let y := x % 2 ^ n
  if 2 * y < 2 ^ n then (y : Int) else (y : Int) - ((2 ^ n : Nat) : Int)

/-! ## The counter-based generator (R136) -/

def cbgP (r : Nat) : Nat :=
  match r % 8 with
  | 0 => 7 | 1 => 19 | 2 => 11 | 3 => 25 | 4 => 3 | 5 => 14 | 6 => 29 | _ => 9

def cbgQ (r : Nat) : Nat :=
  match r % 8 with
  | 0 => 22 | 1 => 5 | 2 => 17 | 3 => 12 | 4 => 27 | 5 => 8 | 6 => 20 | _ => 31

/-- The four words of the generator's state. -/
structure CbgState where
  x3 : Word
  x2 : Word
  x1 : Word
  x0 : Word
  deriving DecidableEq, Repr

/-- Round r of cbg. -/
def cbgRound (k0 k1 : Word) (r : Nat) (c : CbgState) : CbgState :=
  let x0 := c.x0 + c.x1
  let x1 := c.x1.rotateLeft (cbgP r) ^^^ x0
  let x2 := c.x2 + c.x3
  let x3 := c.x3.rotateLeft (cbgQ r) ^^^ x2
  let rw := BitVec.ofNat 32 r
  if r % 2 = 1 then
    { x3 := x1, x1 := x3, x0 := x0 + k0 + rw, x2 := x2 + (k1 ^^^ (0x9E3779B9#32 * rw)) }
  else { x3 := x1, x1 := x3, x0 := x0, x2 := x2 }

def cbgRounds (k0 k1 : Word) : Nat → CbgState → CbgState
  | 0, c => c
  | n + 1, c => cbgRounds k0 k1 n (cbgRound k0 k1 (10 - n) c)

/-- cbg(key, counter words x3, x2, x1, x0). -/
def cbg (key : Dword) (x3 x2 x1 x0 : Word) : CbgState :=
  cbgRounds (key.setWidth 32) ((key >>> 32).setWidth 32) 10 ⟨x3, x2, x1, x0⟩

/-! ## Exact values

An exact real value is (num + τ) × 2^exp with a sign, where τ = 0, or, where tail holds, τ is some value strictly
between 0 and 1 whose binary expansion does not end. -/

structure Exact where
  neg  : Bool
  num  : Nat
  exp  : Int
  tail : Bool
  deriving DecidableEq, Repr

/-- The exact integer x. -/
def exactInt (x : Int) : Exact := ⟨x < 0, x.natAbs, 0, false⟩

def exactZero (neg : Bool) : Exact := ⟨neg, 0, 0, false⟩

/-- Whether the value is zero. -/
def isZeroExact (x : Exact) : Bool := x.num == 0 && !x.tail

/-- floor(log2 |x|) of a value with num ≠ 0. -/
def topExact (x : Exact) : Int := (x.num.log2 : Int) + x.exp

/-- floor(|x| / 2^p). With a tail, p must lie above exp. -/
def floorAt (x : Exact) (p : Int) : Nat :=
  if p ≤ x.exp then x.num <<< (x.exp - p).toNat else x.num >>> (p - x.exp).toNat

/-- Whether |x| is not a multiple of 2^p. -/
def inexactAt (x : Exact) (p : Int) : Bool :=
  x.tail || (p > x.exp && x.num % 2 ^ (p - x.exp).toNat != 0)

/-- The exponent of the lowest nonzero bit of num. -/
def lowBit (n : Nat) : Nat := (n ^^^ (n - 1)).log2

/-- Whether RSH rounds the magnitude of x up at position p (R124): k is the number of bits below the position,
D those bits (the 64 highest), and the decision compares the k' highest with a draw of cbg. -/
def hashUp (seed : Dword) (x : Exact) (p : Int) : Bool :=
  let k : Nat := if x.tail then 0xFFFFFFFF else (p - (x.exp + lowBit x.num)).toNat
  let m := min k 64
  let d := floorAt x (p - m) % 2 ^ m
  let k' := min k 32
  let d' := d >>> (m - k')
  let h := cbg seed 5 (BitVec.ofNat 32 k) (BitVec.ofNat 32 (d >>> 32)) (BitVec.ofNat 32 d)
  2 ^ k' ≤ d' + h.x0.toNat % 2 ^ k'

/-- Whether the magnitude of x is rounded up at position p (R123). -/
def roundsUp (mode : Mode) (seed : Dword) (x : Exact) (p : Int) : Bool :=
  inexactAt x p &&
  match mode with
  | .rne => floorAt x (p - 1) % 2 == 1 && (inexactAt x (p - 1) || floorAt x p % 2 == 1)
  | .rtz => false
  | .rup => !x.neg
  | .rdn => x.neg
  | .rsh => hashUp seed x p

/-- The magnitude of x in units of 2^p, rounded under the mode. -/
def roundMag (mode : Mode) (seed : Dword) (x : Exact) (p : Int) : Nat :=
  floorAt x p + (if roundsUp mode seed x p then 1 else 0)

/-- round_to(x, integer, mode) (R123). -/
def roundInteger (mode : Mode) (seed : Dword) (x : Exact) : Int :=
  let m := roundMag mode seed x 0
  if x.neg then -(m : Int) else m

/-! ## Arithmetic on exact values -/

def negExact (x : Exact) : Exact := { x with neg := !x.neg }

/-- The value as a signed multiple of 2^p, for a value without tail and p not above its exp. -/
def scaledInt (x : Exact) (p : Int) : Int :=
  let m : Int := ((x.num <<< (x.exp - p).toNat : Nat) : Int)
  if x.neg then -m else m

/-- The sum of two values without tail. A zero sum of opposite signs takes the sign zneg; a sum of two zeros of one
sign keeps it. -/
def addExact (x y : Exact) (zneg : Bool) : Exact :=
  let p := min x.exp y.exp
  let s := scaledInt x p + scaledInt y p
  if s = 0 then exactZero (if x.num = 0 && y.num = 0 && x.neg == y.neg then x.neg else zneg)
  else ⟨s < 0, s.natAbs, p, false⟩

/-- The product of two values without tail. -/
def mulExact (x y : Exact) : Exact := ⟨x.neg != y.neg, x.num * y.num, x.exp + y.exp, false⟩

/-- The quotient of two values without tail, y nonzero: 120 bits beyond the dividend's, then the tail. -/
def divExact (x y : Exact) : Exact :=
  let n := x.num <<< (120 + y.num.log2)
  ⟨x.neg != y.neg, n / y.num, x.exp - y.exp - (120 + y.num.log2 : Nat), n % y.num != 0⟩

/-- The integer square root by bits: the greatest r with r² ≤ n, given that it has at most k bits beyond acc. -/
def isqrtBits (n : Nat) : Nat → Nat → Nat
  | 0, acc => acc
  | k + 1, acc =>
    let c := acc + 2 ^ k
    isqrtBits n k (if c * c ≤ n then c else acc)

def isqrt (n : Nat) : Nat := isqrtBits n (n.log2 / 2 + 1) 0

/-- The square root of a nonnegative value without tail. -/
def sqrtExact (x : Exact) : Exact :=
  let e := x.exp - x.exp % 2
  let n := x.num <<< ((x.exp % 2).toNat + 256)
  let r := isqrt n
  ⟨x.neg, r, e / 2 - 128, r * r != n⟩

/-- Compare |x| and |y| of values without tail. -/
def magLt (x y : Exact) : Bool :=
  let p := min x.exp y.exp
  x.num <<< (x.exp - p).toNat < y.num <<< (y.exp - p).toNat

/-- x < y as real numbers, for values without tail. -/
def ltExact (x y : Exact) : Bool :=
  let p := min x.exp y.exp
  scaledInt x p < scaledInt y p

def eqExact (x y : Exact) : Bool :=
  let p := min x.exp y.exp
  scaledInt x p == scaledInt y p

/-! ## Binary floating-point formats (R122, R126) -/

/-- How the highest exponent field is used. -/
inductive TopCodes where
  /-- Infinity and NaNs, as in IEEE 754 (FP32, BF16, E5M2). -/
  | ieee
  /-- Only S.1111.111 is a NaN (E4M3). -/
  | nanOnly
  /-- Every code is finite (E2M1, E2M3, E3M2). -/
  | finite
  deriving DecidableEq, Repr

/-- A format: exponent bits, fraction bits, bias, and the use of the highest exponent. -/
structure FloatFmt where
  eb   : Nat
  mb   : Nat
  bias : Nat
  top  : TopCodes
  deriving DecidableEq, Repr

def fmtFp32 : FloatFmt := ⟨8, 23, 127, .ieee⟩
def fmtBf16 : FloatFmt := ⟨8, 7, 127, .ieee⟩
def fmtE5m2 : FloatFmt := ⟨5, 2, 15, .ieee⟩
def fmtE4m3 : FloatFmt := ⟨4, 3, 7, .nanOnly⟩
def fmtE2m1 : FloatFmt := ⟨2, 1, 1, .finite⟩
def fmtE2m3 : FloatFmt := ⟨2, 3, 1, .finite⟩
def fmtE3m2 : FloatFmt := ⟨3, 2, 3, .finite⟩

/-- A value read from a format. -/
inductive FVal where
  | nan (signalling : Bool)
  | inf (neg : Bool)
  | fin (x : Exact)
  deriving DecidableEq, Repr

/-- The magnitude code of infinity in an IEEE format. -/
def infCode (f : FloatFmt) : Nat := (2 ^ f.eb - 1) <<< f.mb

/-- The magnitude code of the largest finite value. -/
def maxCode (f : FloatFmt) : Nat :=
  match f.top with
  | .ieee => infCode f - 1
  | .nanOnly => 2 ^ (f.eb + f.mb) - 2
  | .finite => 2 ^ (f.eb + f.mb) - 1

/-- The canonical NaN: the highest fraction bit set in an IEEE format, except E5M2, whose canonical NaN is 0x7F,
like that of E4M3 (R122, R127). -/
def nanCode (f : FloatFmt) : Nat :=
  if f.eb = 8 then infCode f + 2 ^ (f.mb - 1) else 2 ^ (f.eb + f.mb) - 1

/-- The finite value of exponent field e and fraction field m. -/
def finVal (f : FloatFmt) (neg : Bool) (e m : Nat) : Exact :=
  if e = 0 then ⟨neg, m, 1 - (f.bias : Int) - f.mb, false⟩
  else ⟨neg, 2 ^ f.mb + m, (e : Int) - f.bias - f.mb, false⟩

/-- The value of the bits x in the format (R122, R126). -/
def readFloat (f : FloatFmt) (x : Nat) : FVal :=
  let m := x % 2 ^ f.mb
  let e := (x >>> f.mb) % 2 ^ f.eb
  let neg := (x >>> (f.mb + f.eb)) % 2 == 1
  match f.top with
  | .ieee =>
    if e = 2 ^ f.eb - 1 then
      if m = 0 then .inf neg else .nan (m < 2 ^ (f.mb - 1))
    else .fin (finVal f neg e m)
  | .nanOnly => if e = 2 ^ f.eb - 1 ∧ m = 2 ^ f.mb - 1 then .nan false else .fin (finVal f neg e m)
  | .finite => .fin (finVal f neg e m)

/-- The bits of a magnitude code with its sign. -/
def signCode (f : FloatFmt) (neg : Bool) (mag : Nat) : Nat :=
  if neg then mag + 2 ^ (f.eb + f.mb) else mag

/-- What an overflow gives (R123, R127): infinity or the largest finite value. E5M2 goes to infinity in every mode
unless the saturate bit is set; a format without infinities saturates. DEDUCED (log 55). -/
def overflowCode (f : FloatFmt) (mode : Mode) (sat : Bool) (neg : Bool) : Nat :=
  match f.top with
  | .ieee =>
    if f.eb = 8 then
      match mode with
      | .rne | .rsh => infCode f
      | .rtz => maxCode f
      | .rup => if neg then maxCode f else infCode f
      | .rdn => if neg then infCode f else maxCode f
    else if sat then maxCode f else infCode f
  | .nanOnly | .finite => maxCode f

/-- round_to(x, fmt, mode) of an exact value, as bits and flags (R123, R125). Tininess is detected after rounding,
as if the exponent range had no lower end (R122). -/
def roundFloat (f : FloatFmt) (mode : Mode) (seed : Dword) (sat : Bool) (x : Exact) : Nat × Flags :=
  if x.num = 0 ∧ ¬ x.tail then (signCode f x.neg 0, 0)
  else
    let emin : Int := 1 - (f.bias : Int)
    let top := topExact x
    let p := max top emin - f.mb
    let q := roundMag mode seed x p
    let mag := (p + f.mb + f.bias - 1).toNat * 2 ^ f.mb + q
    if maxCode f < mag then (signCode f x.neg (overflowCode f mode sat x.neg), flagOF ||| flagNX)
    else
      let nx := inexactAt x p
      let q0 := roundMag mode seed x (top - f.mb)
      let tiny := top < emin && !(top = emin - 1 && q0 = 2 ^ (f.mb + 1))
      (signCode f x.neg mag, (if nx then flagNX else 0) ||| (if nx && tiny then flagUF else 0))

/-! ## FP32 operations (R122, R256 to R258) -/

def readFp32 (x : Word) : FVal := readFloat fmtFp32 x.toNat

def canonNan : Word := 0x7FC00000#32

/-- An FP32 result and its flags. -/
abbrev FpRes := Word × Flags

def roundFp32 (mode : Mode) (seed : Dword) (x : Exact) : FpRes :=
  let r := roundFloat fmtFp32 mode seed false x
  (BitVec.ofNat 32 r.1, r.2)

def infFp32 (neg : Bool) : Word := if neg then 0xFF800000#32 else 0x7F800000#32

/-- Whether an operand is a NaN, and whether it is a signalling one. -/
def isNan : FVal → Bool
  | .nan _ => true
  | .inf _ | .fin _ => false

def isSnan : FVal → Bool
  | .nan s => s
  | .inf _ | .fin _ => false

/-- The NaN result for NaN operands: canonical, NV where one signals (R122). -/
def nanOf (signalling : Bool) : FpRes := (canonNan, if signalling then flagNV else 0)

/-- An invalid operation's result. -/
def invalidRes : FpRes := (canonNan, flagNV)

/-- The sum of two values. -/
def fpAddVal (mode : Mode) (seed : Dword) (a b : FVal) : FpRes :=
  match a, b with
  | .nan s, .nan t => nanOf (s || t)
  | .nan s, .inf _ => nanOf s
  | .nan s, .fin _ => nanOf s
  | .inf _, .nan t => nanOf t
  | .fin _, .nan t => nanOf t
  | .inf m, .inf n => if m == n then (infFp32 m, 0) else invalidRes
  | .inf m, .fin _ => (infFp32 m, 0)
  | .fin _, .inf n => (infFp32 n, 0)
  | .fin x, .fin y => roundFp32 mode seed (addExact x y (mode == .rdn))

def fpAdd (mode : Mode) (seed : Dword) (a b : Word) : FpRes := fpAddVal mode seed (readFp32 a) (readFp32 b)

/-- Negate a value; a NaN stays as it is. -/
def fpNegVal : FVal → FVal
  | .nan s => .nan s
  | .inf n => .inf (!n)
  | .fin x => .fin (negExact x)

def fpSub (mode : Mode) (seed : Dword) (a b : Word) : FpRes :=
  fpAddVal mode seed (readFp32 a) (fpNegVal (readFp32 b))

def fpMul (mode : Mode) (seed : Dword) (a b : Word) : FpRes :=
  match readFp32 a, readFp32 b with
  | .nan s, .nan t => nanOf (s || t)
  | .nan s, .inf _ => nanOf s
  | .nan s, .fin _ => nanOf s
  | .inf _, .nan t => nanOf t
  | .fin _, .nan t => nanOf t
  | .inf m, .inf n => (infFp32 (m != n), 0)
  | .inf m, .fin y => if y.num = 0 then invalidRes else (infFp32 (m != y.neg), 0)
  | .fin x, .inf n => if x.num = 0 then invalidRes else (infFp32 (x.neg != n), 0)
  | .fin x, .fin y => roundFp32 mode seed (mulExact x y)

/-- a / b; DZ for a finite nonzero a over a zero (R256). -/
def fpDiv (mode : Mode) (seed : Dword) (a b : Word) : FpRes :=
  match readFp32 a, readFp32 b with
  | .nan s, .nan t => nanOf (s || t)
  | .nan s, .inf _ => nanOf s
  | .nan s, .fin _ => nanOf s
  | .inf _, .nan t => nanOf t
  | .fin _, .nan t => nanOf t
  | .inf _, .inf _ => invalidRes
  | .inf m, .fin y => (infFp32 (m != y.neg), 0)
  | .fin x, .inf n => (if x.neg != n then 0x80000000#32 else 0, 0)
  | .fin x, .fin y =>
    if y.num = 0 then
      if x.num = 0 then invalidRes else (infFp32 (x.neg != y.neg), flagDZ)
    else roundFp32 mode seed (divExact x y)

/-- √a; √(−0) = −0, and a negative operand is invalid (R256). -/
def fpSqrt (mode : Mode) (seed : Dword) (a : Word) : FpRes :=
  match readFp32 a with
  | .nan s => nanOf s
  | .inf n => if n then invalidRes else (infFp32 false, 0)
  | .fin x =>
    if x.num = 0 then (a, 0)
    else if x.neg then invalidRes
    else roundFp32 mode seed (sqrtExact x)

/-- |a| (R256). -/
def fpAbs (a : Word) : FpRes :=
  match readFp32 a with
  | .nan s => nanOf s
  | .inf _ | .fin _ => (a &&& 0x7FFFFFFF#32, 0)

/-- ±(a × b) ± d with one rounding (R258): np negates the product, nd the addend. -/
def fpFma (mode : Mode) (seed : Dword) (np nd : Bool) (a b d : Word) : FpRes :=
  let va := readFp32 a
  let vb := readFp32 b
  let vd := if nd then fpNegVal (readFp32 d) else readFp32 d
  let snan := isSnan va || isSnan vb || isSnan vd
  match va, vb with
  | .inf m, .fin y =>
    if y.num = 0 then invalidRes
    else if isNan vd then nanOf snan
    else fpAddVal mode seed (.inf ((m != y.neg) != np)) vd
  | .fin x, .inf n =>
    if x.num = 0 then invalidRes
    else if isNan vd then nanOf snan
    else fpAddVal mode seed (.inf ((x.neg != n) != np)) vd
  | .inf m, .inf n => if isNan vd then nanOf snan else fpAddVal mode seed (.inf ((m != n) != np)) vd
  | .fin x, .fin y =>
    if isNan vd then nanOf snan
    else
      let p := mulExact x y
      fpAddVal mode seed (.fin { p with neg := p.neg != np }) vd
  | .nan _, _ => nanOf snan
  | .inf _, .nan _ => nanOf snan
  | .fin _, .nan _ => nanOf snan

/-- The order of VFMIN, VFMAX and the floating-point atomics, on values that are no NaN: −0 lies below +0
(R243, R257). -/
def fpOrdLt (a b : FVal) : Bool :=
  match a, b with
  | .inf m, .inf n => m && !n
  | .inf m, _ => m
  | _, .inf n => !n
  | .fin x, .fin y => ltExact x y || (x.num = 0 && y.num = 0 && x.neg && !y.neg)
  | .nan _, _ => false
  | _, .nan _ => false

/-- The lesser (or the greater) of two operands; a NaN yields the other operand, two NaNs the canonical NaN, and a
signalling NaN sets NV (R243, R257). -/
def fpMinMax (greater : Bool) (a b : Word) : FpRes :=
  let va := readFp32 a
  let vb := readFp32 b
  let fl : Flags := if isSnan va || isSnan vb then flagNV else 0
  match isNan va, isNan vb with
  | true, true => (canonNan, fl)
  | true, false => (b, fl)
  | false, true => (a, fl)
  | false, false =>
    if greater then (if fpOrdLt va vb then b else a, fl)
    else (if fpOrdLt vb va then b else a, fl)

/-- Numeric equality, −0 = +0 (R265). -/
def fpEqVal (a b : FVal) : Bool :=
  match a, b with
  | .inf m, .inf n => m == n
  | .fin x, .fin y => eqExact x y
  | .inf _, .fin _ => false
  | .fin _, .inf _ => false
  | .nan _, _ => false
  | _, .nan _ => false

def fpLtVal (a b : FVal) : Bool :=
  match a, b with
  | .inf m, .inf n => m && !n
  | .inf m, .fin _ => m
  | .fin _, .inf n => !n
  | .fin x, .fin y => ltExact x y
  | .nan _, _ => false
  | _, .nan _ => false

/-! ## Conversions (R127, R259) -/

/-- A conversion of a float value into an integer format of n bits: the integer's bits and flags (R125, R127).
DEDUCED (log 77). -/
def floatToInt (signed : Bool) (n : Nat) (mode : Mode) (seed : Dword) (sat : Bool) (v : FVal) : Nat × Flags :=
  let clamp := fun (x : Int) => if signed then satInt n x else satUint n x
  match v with
  | .nan _ => (0, flagNV)
  | .inf neg => (wrapInt n (clamp (if neg then -((2 ^ n : Nat) : Int) else ((2 ^ n : Nat) : Int))), flagNV)
  | .fin x =>
    let r := roundInteger mode seed x
    if clamp r = r then (wrapInt n r, if inexactAt x 0 then flagNX else 0)
    else (wrapInt n (if sat then clamp r else r), flagNV ||| flagNX)

/-- A conversion into a float format (R127). -/
def toFloat (f : FloatFmt) (mode : Mode) (seed : Dword) (sat : Bool) (v : FVal) : Nat × Flags :=
  match v with
  | .nan s =>
    match f.top with
    | .ieee | .nanOnly => (nanCode f, if s then flagNV else 0)
    | .finite => (0, flagNV)
  | .inf neg =>
    match f.top with
    | .ieee => (signCode f neg (if sat && f.eb != 8 then maxCode f else infCode f), 0)
    | .nanOnly | .finite => (signCode f neg (maxCode f), flagNV)
  | .fin x => roundFloat f mode seed sat x

/-- The width in bits of a VCVT format. -/
def cvtBits : CvtFmt → Nat
  | .int32 | .uint32 | .fp32 => 32
  | .bf16 | .int16 => 16
  | .int8 | .e4m3 | .e5m2 => 8

/-- One element of VCVT, from and to bits (R259). -/
def convert (src dst : CvtFmt) (mode : Mode) (seed : Dword) (sat : Bool) (x : Nat) : Nat × Flags :=
  let fl : Option FloatFmt := match src with
    | .fp32 => some fmtFp32
    | .bf16 => some fmtBf16
    | .e4m3 => some fmtE4m3
    | .e5m2 => some fmtE5m2
    | .int32 | .uint32 | .int16 | .int8 => none
  let iv : Int := match src with
    | .uint32 => (x % 2 ^ 32 : Nat)
    | _ => signedOf (cvtBits src) x
  let v : FVal := match fl with
    | some f => readFloat f x
    | none => .fin (exactInt iv)
  let toI := fun (signed : Bool) (n : Nat) => match fl with
    | some _ => floatToInt signed n mode seed sat v
    | none => (wrapInt n (if sat then (if signed then satInt n iv else satUint n iv) else iv), (0 : Flags))
  match dst with
  | .int32 => toI true 32
  | .uint32 => toI false 32
  | .int16 => toI true 16
  | .int8 => toI true 8
  | .fp32 => toFloat fmtFp32 mode seed sat v
  | .bf16 => toFloat fmtBf16 mode seed sat v
  | .e4m3 => toFloat fmtE4m3 mode seed sat v
  | .e5m2 => toFloat fmtE5m2 mode seed sat v

end Sys2Proof.Machine
end

