-- ==== Sys2Proof/Machine/Micro.lean ====
section
/-! DEFINITION. Microscaling blocks, plane form, A9 activations, the wide accumulator, the three-term split and the
canonical tree (spec/06_numbers.md R126 to R135; spec/03_memory_translation.md R76 to R79;
spec/13_core_vector.md R262, R263). -/

namespace Sys2Proof.Machine

/-! ## Elements (R126) -/

/-- Width of an element in bits. -/
def elemBits : ElemFmt → Nat
  | .t2 => 2 | .e2m1 => 4 | .e2m3 => 6 | .e3m2 => 6 | .int8 => 8 | .e4m3 => 8 | .e5m2 => 8 | .bf16 => 16

/-- log2 of the plane unit u. -/
def elemUnit : ElemFmt → Int
  | .t2 => 0 | .e2m1 => -1 | .e2m3 => -3 | .e3m2 => -4 | .int8 => -6 | .e4m3 => -9 | .e5m2 => -16 | .bf16 => -133

/-- The number n of stored magnitude planes (R76). -/
def elemPlanes : ElemFmt → Nat
  | .t2 => 1 | .e2m1 => 4 | .e2m3 => 6 | .e3m2 => 9 | .int8 => 8 | .e4m3 => 16 | .e5m2 => 16 | .bf16 => 16

/-- emax of the block scale (R262). -/
def elemEmax : ElemFmt → Int
  | .t2 => 0 | .e2m1 => 2 | .e2m3 => 2 | .e3m2 => 4 | .int8 => 0 | .e4m3 => 8 | .e5m2 => 15 | .bf16 => 127

/-- The floating-point layout of an element, where it has one. -/
def elemFloat : ElemFmt → Option FloatFmt
  | .e2m1 => some fmtE2m1 | .e2m3 => some fmtE2m3 | .e3m2 => some fmtE3m2 | .e4m3 => some fmtE4m3
  | .e5m2 => some fmtE5m2 | .bf16 => some fmtBf16 | .t2 | .int8 => none

/-- The value of an element code (R126). -/
def readElem (f : ElemFmt) (x : Nat) : FVal :=
  match elemFloat f with
  | some ff => readFloat ff x
  | none =>
    match f with
    | .t2 => .fin ⟨x / 2 % 2 == 1, x % 2, 0, false⟩
    | _ =>
      let v := signedOf 8 x
      .fin ⟨v < 0, v.natAbs, -6, false⟩

/-- The sign bit of an element: its highest bit. -/
def elemSign (f : ElemFmt) (x : Nat) : Bool := (x >>> (elemBits f - 1)) % 2 == 1

/-- The largest finite value of an element, in units of u. -/
def elemLargest : ElemFmt → Nat
  | .t2 => 1 | .e2m1 => 12 | .e2m3 => 60 | .e3m2 => 448 | .int8 => 127 | .e4m3 => 448 * 2 ^ 9
  | .e5m2 => 57344 * 2 ^ 16 | .bf16 => 255 * 2 ^ 253

/-- The code of ±(the largest finite). -/
def elemMaxCode (f : ElemFmt) (neg : Bool) : Nat :=
  match elemFloat f with
  | some ff => signCode ff neg (maxCode ff)
  | none =>
    match f with
    | .t2 => if neg then 3 else 1
    | _ => if neg then 129 else 127

/-- The code of an exact value that does not exceed the largest finite one, rounded: T2 under RNE, the INT8 element
on the 2^−6 grid, the others as floats; a zero takes the +0 code (R127, R262). -/
def elemCodeOf (f : ElemFmt) (mode : Mode) (seed : Dword) (x : Exact) : Nat :=
  match elemFloat f with
  | some ff =>
    let c := (roundFloat ff mode seed false x).1
    if c % 2 ^ (ff.eb + ff.mb) = 0 then 0 else c
  | none =>
    match f with
    | .t2 =>
      let m := roundMag .rne seed x 0
      if m = 0 then 0 else if x.neg then 3 else 1
    | _ =>
      let m : Int := roundMag mode seed x (-6)
      wrapInt 8 (if x.neg then -m else m)

/-! ## Lanes of a register (R249) -/

def lane32 (v : Vec) (i : Nat) : Word := v.extractLsb' (32 * i) 32

/-- The n bits at bit position pos of a register, as a number. -/
def bitsAt (v : Vec) (pos n : Nat) : Nat := (v.toNat >>> pos) % 2 ^ n

/-- A register from its 32 lanes, lane 0 first; absent lanes are zero. -/
def ofLanes (xs : List Word) : Vec :=
  BitVec.ofNat 1024 (xs.foldr (fun x acc => x.toNat + acc <<< 32) 0)

/-- The 32 lanes of a register. -/
def toLanes (v : Vec) : List Word := (List.range 32).map (lane32 v)

/-- A register from elements of n bits, element 0 first. -/
def ofElems (n : Nat) (xs : List Nat) : Vec :=
  BitVec.ofNat 1024 (xs.foldr (fun x acc => x % 2 ^ n + acc <<< n) 0)

/-! ## Block quantisation (R262) -/

/-- What quantising one lane gives: the code, whether it is inexact, whether it overflowed. -/
structure QuantLane where
  code : Nat
  inexact : Bool
  overflows : Bool
  deriving DecidableEq, Repr

/-- One finite lane divided by the scale 2^(s − 127). -/
def quantLane (f : ElemFmt) (mode : Mode) (seed : Dword) (s : Nat) (x : Exact) : QuantLane :=
  let y : Exact := { x with exp := x.exp - ((s : Int) - 127) }
  let big : Exact := ⟨false, elemLargest f, elemUnit f, false⟩
  if magLt big y then ⟨elemMaxCode f x.neg, true, true⟩
  else
    let c := elemCodeOf f mode seed y
    match readElem f c with
    | .fin z => ⟨c, !eqExact z y, false⟩
    | .inf _ | .nan _ => ⟨c, true, false⟩

/-- The block scale for the greatest magnitude of the block (R262). -/
def blockScale (f : ElemFmt) (xs : List Exact) : Nat :=
  match (xs.filter (fun x => x.num != 0)).map topExact with
  | [] => 127
  | t :: ts => (max 0 (min 254 (ts.foldl max t - elemEmax f + 127))).toNat

/-- The finite values of lanes, or none where some lane is a NaN or an infinity. -/
def finLanes : List FVal → Option (List Exact)
  | [] => some []
  | .fin x :: r => (finLanes r).map (x :: ·)
  | .inf _ :: _ => none
  | .nan _ :: _ => none

/-- The codes, the scale and the flags of a block of FP32 values. -/
def quantBlock (f : ElemFmt) (mode : Mode) (seed : Dword) (vals : List FVal) : List Nat × Nat × Flags :=
  match finLanes vals with
  | none => (vals.map fun _ => 0, 0xFF, flagNV)
  | some xs =>
    let s := blockScale f xs
    let qs := xs.map (quantLane f mode seed s)
    let fl : Flags :=
      (if qs.any (·.overflows) then flagOF else 0) ||| (if qs.any (·.inexact) then flagNX else 0) |||
      (if (xs.zip qs).any (fun (x, q) => x.num != 0 && q.code == 0) then flagUF else 0)
    (qs.map (·.code), s, fl)

/-- The register that VQNT writes: the codes, then the scale in byte 4w. -/
def quantReg (f : ElemFmt) (codes : List Nat) (s : Nat) : Vec :=
  ofElems (elemBits f) codes ||| BitVec.ofNat 1024 (s <<< (32 * elemBits f))

/-! ## Plane form and side-bank entries (R77, R78, R129) -/

/-- A side-bank entry (R78). -/
structure SideEntry where
  exp   : BitVec 16
  occ   : BitVec 16
  top   : BitVec 4
  fmt   : BitVec 4
  swz   : BitVec 4
  nan   : Bool
  res   : BitVec 19
  deriving DecidableEq, Repr

def sideOf (x : Dword) : SideEntry :=
  { exp := x.extractLsb' 48 16, occ := x.extractLsb' 32 16, top := x.extractLsb' 28 4, fmt := x.extractLsb' 24 4,
    swz := x.extractLsb' 20 4, nan := x.getLsbD 19, res := x.extractLsb' 0 19 }

def sideBits (e : SideEntry) : Dword :=
  e.exp ++ e.occ ++ e.top ++ e.fmt ++ e.swz ++ BitVec.ofBool e.nan ++ e.res

/-- The element format of a 4-bit format code (R76). -/
def elemOfCode (x : Nat) : Option ElemFmt :=
  match x with
  | 0 => some .t2 | 1 => some .e2m1 | 2 => some .e2m3 | 3 => some .e3m2 | 4 => some .int8 | 5 => some .e4m3
  | 6 => some .e5m2 | 7 => some .bf16 | _ => none

def elemNum : ElemFmt → Nat
  | .t2 => 0 | .e2m1 => 1 | .e2m3 => 2 | .e3m2 => 3 | .int8 => 4 | .e4m3 => 5 | .e5m2 => 6 | .bf16 => 7

/-- Whether an entry passes the checks of R78. -/
def sideOk (e : SideEntry) : Bool :=
  match elemOfCode e.fmt.toNat with
  | none => false
  | some f =>
    e.res == 0 && e.occ.toNat < 2 ^ elemPlanes f && e.top.toNat == e.occ.toNat.log2

/-- A block in plane form: the sign word, the magnitude planes from plane 0, and its entry. -/
structure PlaneBlock where
  sign   : Word
  planes : List Word
  entry  : SideEntry
  deriving DecidableEq, Repr

/-- The word whose bit i is the i-th of the bits. -/
def packBits (bs : List Bool) : Word := BitVec.ofNat 32 (bs.foldr (fun b acc => b.toNat + 2 * acc) 0)

/-- The exact integer |x| / u of an element. -/
def elemMag (f : ElemFmt) (x : Exact) : Nat := floorAt x (elemUnit f)

/-- n / 2^sh rounded to nearest, ties to even. -/
def rneShift (n sh : Nat) : Nat := roundMag .rne 0 ⟨false, n, 0, false⟩ sh

/-- planeform(block) (R129) of element codes with scale s, and its flags. -/
def planeForm (f : ElemFmt) (s : Nat) (codes : List Nat) (swz : BitVec 4) : PlaneBlock × Flags :=
  let n := elemPlanes f
  let code := BitVec.ofNat 4 (elemNum f)
  let bad := s = 0xFF || (codes.any fun c => match readElem f c with
    | .fin _ => false
    | .inf _ | .nan _ => true)
  if bad then
    (⟨0, List.replicate n 0, { exp := 0, occ := 0, top := 0, fmt := code, swz := swz, nan := true, res := 0 }⟩, flagNV)
  else
    let mags := codes.map fun c => match readElem f c with
      | .fin x => elemMag f x
      | .inf _ | .nan _ => 0
    let l := (mags.foldl max 0).log2
    let sh := if n = 16 ∧ 15 < l then l - 15 else 0
    let ms := if sh = 0 then mags else mags.map (rneShift · sh)
    let planes := (List.range n).map fun j => packBits (ms.map fun m => (m >>> j) % 2 == 1)
    let occ := (planes.zipIdx.foldl (fun acc (w, j) => if w = 0 then acc else acc + 2 ^ j) 0)
    let exp : Int := (s : Int) - 127 + elemUnit f + sh
    let lost := mags.any fun m => m % 2 ^ sh != 0
    (⟨packBits (codes.map (elemSign f)), planes,
      { exp := BitVec.ofInt 16 exp, occ := BitVec.ofNat 16 occ, top := BitVec.ofNat 4 occ.log2, fmt := code,
        swz := swz, nan := false, res := 0 }⟩, if lost then flagNX else 0)

/-- The magnitude of lane i from the planes that Occ lists: a plane whose Occ bit is 0 reads as zero (R78). -/
def planeMag (occ : Nat) (planes : List Word) (i : Nat) : Nat :=
  planes.zipIdx.foldl (fun acc (w, j) => if w.getLsbD i && occ.testBit j then acc + 2 ^ j else acc) 0

/-! ## The plane window (R130, R131) -/

/-- The effective weight of a magnitude M in a block with highest plane t, budget b and rounding plane rp. -/
def effWeight (t b : Nat) (rp : Bool) (m : Nat) : Nat :=
  if b = 0 ∨ t + 1 ≤ b ∨ 16 < b then m
  else
    let lo := t - b + 1
    if rp then 2 ^ lo * ((m + 2 ^ (lo - 1)) / 2 ^ lo) else 2 ^ lo * (m / 2 ^ lo)

/-- The processed planes from high to low: the window, then the rounding plane. -/
def planeSeq (top t b : Nat) (rp : Bool) : List Nat :=
  let all := b = 0 ∨ t + 1 ≤ b ∨ 16 < b
  let lo := if all then 0 else t - b + 1
  let low := if all then 0 else if rp then lo - 1 else lo
  ((List.range (top + 1 - low)).map (fun k => top - k))

/-- The cost of a sequence of planes at the two-plane rate. -/
def pairCost (cheap : Nat → Bool) : List Nat → Nat
  | [] => 0
  | [a] => if cheap a then 0 else 1
  | a :: b :: r => (if cheap a && cheap b then 0 else 1) + pairCost cheap r

/-- The block time of one activation slice (R131). -/
def blockTime (n occ t b : Nat) (rp skip twoRate : Bool) : Nat :=
  let cheap := fun j => skip && !occ.testBit j
  let seq := planeSeq (if skip then t else n - 1) t b rp
  max 1 (if twoRate then pairCost cheap seq else (seq.filter fun j => !cheap j).length)

/-! ## A9 (R79, R128) -/

/-- An A9 block: 32 lanes and the block exponent. -/
structure A9 where
  lanes : List Int
  exp   : Int
  deriving DecidableEq, Repr

/-- The bytes of an A9 block as a 320-bit number. -/
def a9Bits (a : A9) : Nat :=
  (a.lanes.foldr (fun x acc => wrapInt 9 x + acc <<< 9) 0) + wrapInt 16 a.exp <<< 288

/-- An A9 block read from its 320 bits; none where bytes 38 and 39 are not zero. -/
def readA9 (x : Nat) : Option A9 :=
  if (x >>> 304) % 2 ^ 16 = 0 then
    some ⟨(List.range 32).map (fun i => signedOf 9 (x >>> (9 * i))), signedOf 16 (x >>> 288)⟩
  else none

/-- The exponent field of a BF16 value as the slicing reads it: 0 reads as 1. -/
def bfExp (x : Nat) : Nat := max 1 ((x >>> 7) % 256)

/-- A block of 32 BF16 values as its hi and lo A9 blocks, with flags (R128). The exponent field of a NaN lane counts in
emax; where a lane is infinite, emax is 254. DEDUCED (log 67). -/
def sliceBf16 (xs : List Nat) : A9 × A9 × Flags :=
  let isSpecial := fun (x : Nat) => (x >>> 7) % 256 == 255
  let isInf := fun (x : Nat) => (x >>> 7) % 256 == 255 && x % 128 == 0
  let emax := if xs.any isInf then 254 else (xs.map bfExp).foldl max 1
  let lane := fun (x : Nat) =>
    let sg : Int := if (x >>> 15) % 2 == 1 then -1 else 1
    if isInf x then (sg * 255, sg * 255, flagNV)
    else if isSpecial x then ((0 : Int), (0 : Int), flagNV)
    else
      let m := x % 128 + (if (x >>> 7) % 256 = 0 then 0 else 128)
      let d := emax - bfExp x
      let v : Exact := ⟨false, m, 8 - (d : Int), false⟩
      let q := roundMag .rne 0 v 0
      (sg * ((q / 256 : Nat) : Int), sg * ((q % 256 : Nat) : Int), if inexactAt v 0 then flagNX else (0 : Flags))
  let ls := xs.map lane
  (⟨ls.map (·.1), (emax : Int) - 134⟩, ⟨ls.map (·.2.1), (emax : Int) - 142⟩,
    ls.foldl (fun acc l => acc ||| l.2.2) 0)

/-! ## The wide accumulator (R132) -/

/-- An XA element: S × 2^E, or not a number. -/
structure Xa where
  s   : Dword
  e   : BitVec 16
  nan : Bool
  deriving DecidableEq, Repr

def xaZero : Xa := ⟨0, 0, false⟩

def xaValue (x : Xa) : Exact := ⟨x.s.toInt < 0, x.s.toInt.natAbs, x.e.toInt, false⟩

/-- align(x) of a value without tail, with the NaN bit where the exponent exceeds 32,767. -/
def alignXa (x : Exact) : Xa :=
  if x.num = 0 then xaZero
  else
    let e := max (topExact x - 62) (-32768)
    let m := roundMag .rne 0 x e
    let (m, e) := if m = 2 ^ 63 then (m / 2, e + 1) else (m, e)
    ⟨BitVec.ofInt 64 (if x.neg then -(m : Int) else m), BitVec.ofInt 16 e, 32767 < e⟩

/-- promote: add P × 2^Ep with one rounding. -/
def promoteXa (x : Xa) (nanBlock : Bool) (p : Int) (ep : Int) : Xa :=
  if x.nan || nanBlock then { x with nan := true }
  else alignXa (addExact (xaValue x) ⟨p < 0, p.natAbs, ep, false⟩ false)

/-! ## FP32 by three BF16 terms (R133) -/

/-- The BF16 bits of hi, mid and lo of an FP32 value. -/
def splitFp32 (x : Word) : Nat × Nat × Nat :=
  let hi := x.toNat >>> 16
  match readFp32 x, readFloat fmtBf16 hi with
  | .fin v, .fin h =>
    let fix := fun (c : Nat) => if c % 2 ^ 15 = 0 then 0 else c
    let r1 := addExact v (negExact h) false
    let mid := fix (roundFloat fmtBf16 .rtz 0 false r1).1
    match readFloat fmtBf16 mid with
    | .fin m => (hi, mid, fix (roundFloat fmtBf16 .rtz 0 false (addExact r1 (negExact m) false)).1)
    | .inf _ | .nan _ => (hi, mid, 0)
  | .nan _, _ => (nanCode fmtBf16, 0, 0)
  | .inf _, _ => (hi, 0, 0)
  | .fin _, .inf _ => (hi, 0, 0)
  | .fin _, .nan _ => (hi, 0, 0)

/-- Whether the three terms of an FP32 value differ from it (R133). -/
def splitLoses (x : Word) : Bool :=
  let t := splitFp32 x
  match readFp32 x, readFloat fmtBf16 t.1, readFloat fmtBf16 t.2.1, readFloat fmtBf16 t.2.2 with
  | .fin v, .fin h, .fin m, .fin l =>
    (addExact (addExact (addExact v (negExact h) false) (negExact m) false) (negExact l) false).num != 0
  | _, _, _, _ => false

/-! ## The canonical tree (R135) -/

/-- tree_sum over a list, with fuel for its depth. -/
def treeAux {α : Type} (op : α → α → α) (dflt : α) : Nat → List α → α
  | _, [] => dflt
  | _, [x] => x
  | 0, x :: _ => x
  | k + 1, xs =>
    let n := xs.length
    let m := 2 ^ (n - 1).log2
    op (treeAux op dflt k (xs.take m)) (treeAux op dflt k (xs.drop m))

/-- tree_sum(op, x[0..n)); dflt for no leaf. -/
def treeSum {α : Type} (op : α → α → α) (dflt : α) (xs : List α) : α := treeAux op dflt xs.length xs

/-- The tree with absent leaves: a node with one absent child passes the other on (R263). -/
def treeOpt {α : Type} (op : α → α → α) (xs : List (Option α)) : Option α :=
  treeSum (fun a b => match a, b with
    | some x, some y => some (op x y)
    | some x, none => some x
    | none, y => y) none xs

end Sys2Proof.Machine
end

