-- ==== Sys2Proof/Machine/Map.lean ====
section
/-! DEFINITION. Finite maps from numbers, as lists of pairs with rising keys. A map with a default lists no key whose
value is the default, so that equal maps are equal lists. -/

namespace Sys2Proof.Machine

/-- A map from numbers. -/
abbrev SMap (α : Type) := List (Nat × α)

/-- The value listed at a key. -/
def mfind {α : Type} : SMap α → Nat → Option α
  | [], _ => none
  | (k, v) :: r, n => if n = k then some v else mfind r n

/-- The value at a key, or the default. -/
def mget {α : Type} (d : α) (m : SMap α) (k : Nat) : α := (mfind m k).getD d

/-- List a value at a key, in key order. -/
def minsert {α : Type} : SMap α → Nat → α → SMap α
  | [], n, v => [(n, v)]
  | (k, w) :: r, n, v =>
    if n = k then (k, v) :: r
    else if n < k then (n, v) :: (k, w) :: r
    else (k, w) :: minsert r n v

/-- Remove a key. -/
def merase {α : Type} (m : SMap α) (n : Nat) : SMap α := m.filter fun e => e.1 != n

/-- Set the value at a key of a map with a default. -/
def mset {α : Type} [DecidableEq α] (d : α) (m : SMap α) (k : Nat) (v : α) : SMap α :=
  if v = d then merase m k else minsert m k v

/-- Change the value at a listed key. -/
def mmod {α : Type} (m : SMap α) (k : Nat) (f : α → α) : SMap α :=
  match mfind m k with
  | some v => minsert m k (f v)
  | none => m

/-- Whether every key of the map is above n, and the keys rise. -/
def mabove {α : Type} (n : Nat) : SMap α → Bool
  | [] => true
  | (k, _) :: r => n < k && mabove k r

/-- Whether the keys rise strictly. -/
def msorted {α : Type} : SMap α → Bool
  | [] => true
  | (k, _) :: r => mabove k r

/-- The canonical form of a map with a default: rising keys, and no key listed with the default. -/
def mcanon {α : Type} [DecidableEq α] (d : α) (m : SMap α) : Bool :=
  msorted m && m.all fun e => e.2 != d

/-- The first key of the map, from n on, that is not listed. -/
def mfree {α : Type} : SMap α → Nat → Nat
  | [], n => n
  | (k, _) :: r, n => if k = n then mfree r (n + 1) else if n < k then n else mfree r n

end Sys2Proof.Machine
end

