-- ==== Sys2Proof/Machine/State.lean ====
section
/-! DEFINITION. The state of the device as plain data: the cores, the memory and its race tags, the tables of the
contexts, the launches and their tasks, and the engines; and the state right after reset. -/

namespace Sys2Proof.Machine

/-! ## How a step can stop -/

/-- Why the machine stops with a fault. The spec gives every trap of the MB4 an entry, which is taken; the model
raises none of these on any path that the spec describes. -/
inductive Fault where
  /-- Raised by no meaning: the spec names no event after which the whole device is stuck. Safe. -/
  | stuck
  deriving DecidableEq, Repr

/-- Why the machine refuses a step. DESIGN CHOICE (log 59). -/
inductive Refusal where
  /-- Raised by an arm of exec that has no meaning yet. Safe. -/
  | notModelled (mnemonic : String)
  /-- Raised by step where the turn to come names an instruction word as an event: words reach the machine only
  through the fetch of a core. Safe. -/
  | wordAsEvent
  /-- Raised by step where the turn to come names an ill-formed event. Safe. -/
  | illFormedEvent
  deriving DecidableEq, Repr

/-! ## Cores -/

/-- The four register files (R197). -/
inductive RegFile where
  | g | v | p | o
  deriving DecidableEq, Repr

/-- The kinds of memory operation an atomic performs (R241 to R247). -/
inductive AtomFn where
  | ald | ast | add | and | or | xor | min | max | minu | maxu | swap | fadd | fmin | fmax
  | acas | acas2 | aenq | apchase
  deriving DecidableEq, Repr

/-- Where the data of a result still to come is from. -/
inductive LoadSrc where
  /-- The data stands with the result, or another event brings it. -/
  | none
  /-- A load of len bytes at a place in memory. -/
  | bytes (loc : Nat) (len : Nat)
  /-- A gather: the place of each lane, or none for an inactive lane. -/
  | lanes (places : List (Option Nat))
  /-- The i-th result that an acknowledgement brings (R241). -/
  | result (i : Nat)
  /-- A load of the context's counter window (R157). -/
  | window (off : Nat)
  /-- A load of the agent window of a stack (R354). -/
  | agent (stack : Nat) (off : Nat)
  deriving DecidableEq, Repr

/-- A result on its way to a register: of a fixed-latency word, or a landing (R195, R201, R211). -/
structure Flight where
  /-- The word that issued it, by the device's count of words. -/
  word     : Nat
  file     : RegFile
  /-- Physical number. -/
  num      : Nat
  /-- Schedule cycles to the write; 63 for an untimed result. -/
  remain   : Nat
  /-- Whether it is a fixed-latency result. -/
  fixed    : Bool
  arrived  : Bool
  /-- Whether it holds an entry of the 16-entry landing buffer. -/
  buffered : Bool
  data     : Vec
  flags    : Flags
  src      : LoadSrc
  deriving DecidableEq, Repr

/-- A result that has been written, and what its register held before (R286). -/
structure Written where
  flight : Flight
  old    : Vec
  /-- Whether the register was empty. -/
  empty  : Bool
  deriving DecidableEq, Repr

/-- An entry of a task's acquire log (R104): engine holds where Kind is engine. -/
structure AcqEntry where
  owner  : BitVec 24
  epoch  : BitVec 12
  engine : Bool
  deriving DecidableEq, Repr

/-- A landing or in-flight entry of a snapshot (R211). -/
structure SnapEntry where
  remain  : BitVec 8
  valid   : Bool
  arrived : Bool
  file    : BitVec 2
  number  : BitVec 6
  data    : Vec
  /-- The model's link to the word, and the source of data still to come. -/
  word    : Nat
  src     : LoadSrc
  deriving DecidableEq, Repr

/-- The values that a trap entry latches (R205), in the shape of the snapshot's header and entries (R210, R211). -/
structure Latch where
  pc       : Va
  gpc      : Va
  glink    : Va
  lstart   : Va
  lend     : Va
  lgpc     : Va
  active   : Bool
  lc       : Word
  ec       : BitVec 16
  rrb      : BitVec 8
  lease    : Bool
  inHandler : Bool
  leaseRem : BitVec 7
  freezeNs : Word
  epoch    : BitVec 12
  acq      : List (Bool × AcqEntry)
  landing  : List SnapEntry
  inflight : List SnapEntry
  deriving DecidableEq, Repr

/-- Why a core does not issue (R202). -/
inductive StallKind where
  | freeze | hold
  deriving DecidableEq, Repr

/-- A stall: its kind, the register waited for, where there is one, and the device time at which it began. -/
structure Stall where
  kind  : StallKind
  reg   : Option (RegFile × Nat)
  since : Nat
  deriving DecidableEq, Repr

/-- A trap to be taken at a task's next clause (R108). -/
structure PendingTrap where
  cause : Nat
  info  : Dword
  deriving DecidableEq, Repr

/-- An atomic as it leaves the core (R241): its function, its place, its operands and its ordering. -/
structure AtomReq where
  fn     : AtomFn
  /-- Place of the bytes in memory. -/
  loc    : Nat
  /-- Virtual address, for the functions whose memory holds addresses. -/
  va     : Va
  half   : Bool
  x      : Dword
  y      : Dword
  z      : Dword
  w      : Dword
  scope  : Scope
  order  : Order
  /-- Who issued it: task and race epoch after the atomic. -/
  task   : BitVec 24
  epoch  : BitVec 12
  /-- Place of the other operand of AENQ. -/
  loc2   : Nat
  /-- Of AENQ and APCHASE: the granules that were checked at issue, and the race epoch then. -/
  checked : List Nat := []
  began   : BitVec 12 := 0
  deriving DecidableEq, Repr

/-- A copy command's kind (R332). -/
inductive CopyKind where
  | cpy | cpyh | cpyp | cpye
  deriving DecidableEq, Repr

/-- States of a task (R47). -/
inductive TaskState where
  | ready | running | waiting | regen | stepEnd | exited | faulted | snapshot
  deriving DecidableEq, Repr

/-- What waits in a core's check window to leave it (R150). -/
inductive WindowOp where
  /-- A store: the bytes to write, by place. -/
  | store (bytes : List Host.Cell)
  /-- An 8-byte store to the agent window of a stack. -/
  | agentStore (stack : Nat) (off : Nat) (data : Dword)
  | atomic (a : AtomReq)
  /-- ARMCNT: the counter's place and g(b). -/
  | arm (loc : Nat) (limit : Dword)
  /-- The continuation write of a suspension point: the task's new state, and the bytes of the record and of the loop
  save area (R49, R199). -/
  | continuation (launch task : Nat) (state : TaskState) (bytes : List Host.Cell)
  /-- A copy joins its channel's queue. -/
  | copy (cmd : Nat)
  /-- A fabric operation joins the core's fabric queue. -/
  | fabric (op : Nat)
  /-- LAUNCH: the record as read, and the virtual address it was read from. -/
  | launch (record : List Byte)
  deriving DecidableEq, Repr

/-- An entry of the check window, with the word that made it. -/
structure WindowItem where
  word : Nat
  /-- The device-wide place of its clause in issue order. -/
  seq  : Nat
  op   : WindowOp
  deriving DecidableEq, Repr

/-- The acknowledgement of an atomic that has been performed: its results and its flags (R241). -/
structure AckItem where
  word    : Nat
  results : List Dword
  flags   : Flags
  deriving DecidableEq, Repr

/-- The task a core runs. -/
structure Running where
  launch : Nat
  task   : Nat
  deriving DecidableEq, Repr

/-- Words of a clause that wait for its engine words: each with its place and address; the address after the clause, and
the g registers and marks that the clause reads (R115, R179, R269). -/
structure LateWords where
  words : List (Nat × Va × Instr)
  next  : Va
  g     : SMap Dword
  empty : SMap Bool
  deriving DecidableEq, Repr

/-- A control core (R197 to R204, R270). Registers are held by physical number. -/
structure Core where
  run      : Option Running
  /-- The task has reached a suspension point, and its continuation waits in the check window. -/
  leaving  : Bool
  pc       : Va
  /-- The g, v, p and o files. -/
  g        : SMap Dword
  v        : SMap Vec
  p        : SMap Pred
  o        : SMap Dword
  /-- The registers marked empty, and the word that owns each register, by file and number (R200). -/
  empty    : SMap Bool
  owner    : SMap Nat
  flights  : List Flight
  fflags   : Flags
  frm      : BitVec 3
  seed     : Dword
  tvec     : Va
  tcause   : BitVec 16
  noResume : Bool
  tinfo    : Dword
  riskEn   : Bool
  riskPend : Bool
  /-- A DEADLINE_RISK to be taken at the next clause boundary: the slack in ns (R147). -/
  risk     : Option Dword
  limit    : Word
  gpc      : Va
  glink    : Va
  lc       : Word
  ec       : BitVec 16
  rrb      : BitVec 8
  lstart   : Va
  lend     : Va
  active   : Bool
  lgpc     : Va
  /-- Handler state (R274), whether the handler has not yet completed a clause, and the latched values. -/
  inHandler : Bool
  fresh    : Bool
  latch    : Option Latch
  notice   : List PendingTrap
  window   : List WindowItem
  acks     : List AckItem
  epoch    : BitVec 12
  acq      : List AcqEntry
  /-- The array lease: held, counted words left; an outstanding request, and the words it is granted (R291, R213). -/
  lease    : Bool
  leaseRem : BitVec 7
  leaseReq : Bool
  leaseNext : BitVec 7
  /-- A grant that MLEASE has yet to see, and a request that a resumption placed (R213, R304). -/
  leaseOk  : Bool
  leaseBack : Bool
  /-- Operations in the core's fabric queue, oldest first (R367). -/
  fabricQ  : List Nat
  stall    : Option Stall
  /-- A schedule cycle to pass without issue after a taken transfer (R195). -/
  bubble   : Bool
  /-- Replays of the clause in flight, in a row (R151). -/
  replays  : Nat
  /-- The last conversion of device time that the core read (R156). -/
  lastTime : Dword
  /-- A forced pre-emption that waits: the device time at which a lease no longer defers it (R213). -/
  preempt  : Option Nat
  /-- Device time until which a Foreman launch has taken the core (R56). -/
  takenUntil : Nat
  /-- For how many ns a Foreman launch takes the core once its task has left (R56). -/
  takeFor  : Nat
  /-- Fabric operations that the next clause waits for (R366). -/
  opGate   : List Nat
  /-- The entry that a SWPT which waits reads, fixed in its issue cycle (R280). -/
  swpt     : Option Nat
  /-- The words of its clause that are left to act, where the others have taken effect (R115, R269). -/
  pend     : Option LateWords
  /-- The results written in the schedule cycle that the next clause is to issue in, before it has issued (R286). -/
  written  : List Written
  deriving DecidableEq, Repr

/-! ## Memory -/

/-- A race tag (R102). -/
structure Tag where
  step     : BitVec 12
  launch   : BitVec 4
  interval : BitVec 8
  owner    : BitVec 24
  epoch    : BitVec 12
  state    : BitVec 2
  atom     : Bool
  engine   : Bool
  deriving DecidableEq, Repr

def tagZero : Tag := ⟨0, 0, 0, 0, 0, 0, false, false⟩

/-- A record of an armed counter's contributor log (R105, R112): who counted, at which epoch, whether as an engine,
the scope, the stope it counted from, and the value after it. -/
structure Contrib where
  owner  : BitVec 24
  epoch  : BitVec 12
  engine : Bool
  scope  : Scope
  stope  : Nat
  value  : Dword
  deriving DecidableEq, Repr

/-- The arming entry of a counter (R281). -/
structure Arming where
  part    : BitVec 4
  ctx     : Nat
  limit   : Dword
  overrun : Bool
  log     : List Contrib
  deriving DecidableEq, Repr

/-! ## Contexts and partitions -/

/-- An installed region entry (R63): a whole region, or one whose pages stand in the page store. -/
structure LttRegion where
  paged  : Bool
  target : BitVec 3
  perm   : BitVec 3
  valid  : Bool
  denied : Bool
  info   : BitVec 24
  output : Dword
  deriving DecidableEq, Repr

/-- An installed page entry (R64). -/
structure LttPage where
  state     : BitVec 2
  target    : BitVec 3
  perm      : BitVec 3
  evictable : Bool
  fallback  : Bool
  denied    : Bool
  backing   : BitVec 27
  info      : BitVec 24
  output    : Dword
  /-- The physical granule taken from the fill reserve for a touched page (R84). -/
  phys      : Option Nat
  deriving DecidableEq, Repr

/-- A load of a context's table that waits for the running launches of the context (R72). -/
structure PendingLoad where
  regions : SMap LttRegion
  pages   : SMap LttPage
  regen   : Dword
  reply   : List Byte
  req     : Request
  deriving DecidableEq, Repr

/-- Sampling of a context's energy (R155, R34). `spent` is the part of the period that has passed since the last sample
was due, in ns · MHz. -/
structure Sampling where
  k       : Nat
  ring    : List (List Byte)
  dropped : Nat
  spent   : Nat
  deriving DecidableEq, Repr

/-- A context (R27, R63, R64, R69, R85). -/
structure Context where
  part    : BitVec 4
  ident   : Dword
  owner   : Nat
  regions : SMap LttRegion
  /-- Page entries by VA[47:21]. -/
  pages   : SMap LttPage
  regen   : Dword
  dmask   : Byte
  pending : Option PendingLoad
  /-- Device time of its first LTT_LOAD (R157). -/
  since   : Nat
  sampling : Option Sampling
  /-- The address of its snapshot region, which the Foreman gives it (R56, R209). -/
  snapBase : Nat
  deriving DecidableEq, Repr

/-- A page of a stope's vault that a context's grant has given up, and the place in issue order before which its
accesses may still reach it. -/
structure Ceded where
  stope : Nat
  page  : Nat
  ctx   : Nat
  mark  : Nat
  deriving DecidableEq, Repr

/-- A partition (R18, R20, R32). -/
structure Partition where
  /-- Its logical stopes, in ascending order. -/
  stopes   : List Nat
  /-- Its HBM channels, by 32 · stack + channel. -/
  channels : List Nat
  dmode    : Bool
  deflt    : BitVec 3
  /-- The intermediate granules of 2 MiB that stage 2 maps, to physical granules (R70). -/
  stage2   : SMap Nat
  /-- Shoot-downs so far, and the last sixteen ranges: first granule, granules, generation (R71). -/
  shootGen : Word
  shootLog : List (Nat × Nat × Nat)
  /-- Whether the loader holds further shoot-downs until a descriptor's fill is written (R71). -/
  shootHold : Bool
  /-- Scrubbed physical granules of the fill reserve (R84), and the granules of its channels that are free. -/
  reserve  : List Nat
  free     : List Nat
  /-- Granules that pages have given up, each with the place in issue order before which accesses may still reach it
  (R68, R71). -/
  leaving  : List (Nat × Nat)
  /-- Vault pages that grants have given up, which accesses may still reach (R68, R82). -/
  ceded    : List Ceded
  /-- Flouth wavelength shares, by port (R32). -/
  shares   : SMap Byte
  /-- Device time at its assignment (R34). -/
  since    : Nat
  /-- Launch queue sequence numbers, by level (R41). -/
  seqs     : SMap Nat
  /-- What the assignment named, byte for byte (R32). -/
  assign   : List Byte
  deriving DecidableEq, Repr

/-! ## Launches and tasks -/

/-- The fields of a launch record (R36). -/
structure LaunchRec where
  kernel     : Va
  gloss      : Va
  tasks      : Nat
  gangLog    : Nat
  priority   : Nat
  regen      : Bool
  riskInt    : Bool
  steps      : Nat
  switches   : Nat
  ranges     : Nat
  seed       : Dword
  params     : List Dword
  deadlines  : Va
  switchTab  : Va
  schedule   : Va
  rangeList  : Va
  cont       : Va
  frameBase  : Va
  frameSize  : Nat
  complRec   : Va
  complCtr   : Va
  deriving DecidableEq, Repr

/-- An entry of a range list (R38). -/
structure RangeEntry where
  last  : Nat
  first : Nat
  len   : Nat
  mode  : Nat
  base  : Va
  deriving DecidableEq, Repr

/-- What a waiting task waits for. -/
inductive WaitFor where
  | nothing
  /-- A counter: its place, and the value to reach (R283). -/
  | counter (loc : Nat) (value : Dword)
  /-- A barrier slot and generation (R284). -/
  | slot (s : Nat) (gen : Nat)
  /-- A switch group and generation (R375). -/
  | group (grp : Nat) (gen : Nat)
  /-- A page, by the address touched (R54, R84). -/
  | page (va : Dword)
  deriving DecidableEq, Repr

/-- One accumulator bank (R289): its owner, a launch and a task; the context of its last owner; the drain flags; and
its elements by 128 · row + column. -/
structure Bank where
  owner : Option (Nat × Nat)
  last  : Option Nat
  /-- Once its owner has reached a suspension point: the last word whose commands keep the bank owned (R289). -/
  released : Option Nat
  flags : Flags
  cells : SMap Xa
  deriving DecidableEq, Repr

/-- A snapshot (R209 to R215): the core as it stopped, whose own state the image lays out; the values latched for the
clause in flight; and the banks saved with it, by number (R290). -/
structure Snap where
  core  : Core
  latch : Latch
  banks : SMap Bank
  /-- sr.plevel as it was saved (R209). -/
  plevel : Dword
  /-- Whether the images stand in the snapshot region: no part was skipped (R214). -/
  stored : Bool
  deriving DecidableEq, Repr

/-- A task (R47). -/
structure Task where
  state    : TaskState
  core     : BitVec 16
  place    : BitVec 16
  cause    : BitVec 8
  wait     : WaitFor
  waitAddr : Dword
  waitVal  : Dword
  /-- Whether the next resumption starts from epoch 0 with an empty log (R104). -/
  opening  : Bool
  /-- Entries that a completed barrier adds to the log (R105). -/
  gained   : List AcqEntry
  riskPend : Bool
  risk     : Option Dword
  /-- Arrivals at barrier slots, and at switch groups, so far (R284, R375). -/
  arrivals : SMap Nat
  gArrivals : SMap Nat
  snap     : Option Snap
  /-- The address that SnapPtr holds (R47). -/
  snapPtr  : Dword
  notice   : List PendingTrap
  deriving DecidableEq, Repr

/-- A generation of a barrier slot: its size and the tasks that have arrived (R284). -/
structure Barrier where
  size    : Nat
  arrived : List Nat
  epochs  : SMap (BitVec 12)
  done    : List Nat
  deriving DecidableEq, Repr

/-- Phases of a launch (R41, R52, R58). -/
inductive LaunchState where
  | queued | running | preempting | preempted | complete
  deriving DecidableEq, Repr

/-- Phases of a step (R52, R72): open; replaying the static copies; replayed, and held for a load of the context's
table; admitted, and held for one before step 0 opens. -/
inductive StepPhase where
  | open | replay | held | starting
  deriving DecidableEq, Repr

/-- An engine command's issue (R87, R111): the task, where and when it was issued, and its acquire log then. The task
0xFFFFFF is the copy schedule. DESIGN CHOICE (log 75). -/
structure Issue where
  launch   : Nat
  task     : Nat
  core     : Nat
  word     : Nat
  seq      : Nat
  step     : BitVec 12
  number   : BitVec 4
  interval : BitVec 8
  epoch    : BitVec 12
  log      : List AcqEntry
  deriving DecidableEq, Repr

/-- What stopped a launch (R58): the task, the cause, the exit code, and the task's core values at the stop. -/
structure Stop where
  task  : Option Nat
  cause : Nat
  exit  : BitVec 16
  /-- The core at the stop, and the latched values of the snapshot that R214 writes. -/
  core  : Option Core
  latch : Option Latch
  /-- The status with which the launch is to complete (R40). -/
  status : Nat
  deriving DecidableEq, Repr

/-- The outcome of a launch (R40). -/
structure Completion where
  status : Nat
  steps  : Nat
  time   : Dword
  task   : Option Nat
  cause  : Nat
  exit   : BitVec 16
  deriving DecidableEq, Repr

/-- The state of one entry of a static copy schedule in the current step (R329). -/
inductive EntryState where
  | waiting | released | done
  deriving DecidableEq, Repr

/-- A launch (R35 to R58, R103, R143). -/
structure Launch where
  part     : BitVec 4
  ctx      : Nat
  level    : Nat
  seq      : Nat
  record   : LaunchRec
  enqueued : Nat
  ranges   : List RangeEntry
  dl0      : Nat
  state    : LaunchState
  /-- Launch number (R103). -/
  number   : Option Nat
  failures : Nat
  passUntil : Nat
  /-- A place ahead of the queue, for a launch that returned under R46: later returns stand higher. -/
  returned : Nat
  admitted : Nat
  /-- The gang: its stopes in gang order. -/
  gang     : List Nat
  step     : Nat
  phase    : StepPhase
  cancel   : Bool
  interval : Nat
  /-- The current step's deadline in ns, its work in reference cycles, and the stope cycles so far in
  thousandths (R143, R144). -/
  deadline : Option Nat
  work     : Nat
  spent    : Nat
  declared : Bool
  /-- The cycle, by device time, of the last DEADLINE, and its gang-local core (R143). -/
  declBy   : Option (Nat × Nat)
  risked   : Bool
  stop     : Option Stop
  outcome  : Option Completion
  tasks    : SMap Task
  barriers : SMap Barrier
  gBarriers : SMap Barrier
  /-- Completions of launch-wide barriers are intervals; entries of the copy schedule and their state. -/
  entries  : SMap EntryState
  /-- The launch whose page this launch regenerates, the page, and how many it has had (R54). -/
  parent   : Option Nat
  page     : Nat
  regens   : Nat
  /-- Faulting pages that wait for a regeneration launch, in fault order, with the faulting address (R54). -/
  pageQ    : List (Nat × Va)
  /-- Device time at which the replay of the static copies opened (R329). -/
  replayAt : Nat
  /-- Saved copy queues of a pre-empted launch: the commands of each channel, by 4 · gang stope + channel (R330). -/
  saved    : SMap (List Nat)
  /-- The gang stopes whose copy-queue images stand in the snapshot region (R330). -/
  imaged   : List Nat
  /-- The virtual function that placed it, and requests to answer once it has completed (R41). -/
  sender   : Nat
  waiters  : List Request
  deriving DecidableEq, Repr

/-! ## The array (R287 to R315) -/

/-- What a counted array word does once it has issued. -/
inductive ArrayOp where
  | clear
  /-- A matrix product: the descriptor pairs, the offsets, the gloss word and its address; whether it is MMAW. -/
  | mma (w0 w1 a0 a1 : Dword) (uw ua : BitVec 24) (gloss : Word) (wide : Bool)
  /-- A drain: the descriptor pair, the rounding mode and key, and the format. -/
  | drain (d0 d1 : Dword) (mode : Mode) (seed : Dword) (fmt : DrainFmt)
  deriving DecidableEq, Repr

structure ArrayCmd where
  id      : Nat
  issue   : Issue
  ctx     : Nat
  bank    : Nat
  op      : ArrayOp
  started : Bool
  deriving DecidableEq, Repr

/-- A scoreboard entry (R296): the command, the number of its word, a range of vault bytes, and whether it writes. -/
structure SbEntry where
  cmd   : Nat
  seq   : Nat
  lo    : Nat
  hi    : Nat
  write : Bool
  deriving DecidableEq, Repr

/-- A bank waiting to be restored (R290): its number, its owner and what it held. -/
structure Restore where
  bank   : Nat
  launch : Nat
  task   : Nat
  saved  : Bank
  deriving DecidableEq, Repr

/-- A stope's own state beside its memory (R8, R291, R296, R319, R329). -/
structure Stope where
  /-- The core that holds the lease, and the cores whose requests wait. -/
  holder   : Option Nat
  leaseQ   : List Nat
  banks    : SMap Bank
  arrayQ   : List ArrayCmd
  restores : List Restore
  board    : List SbEntry
  /-- The commands of each copy channel, in queue order. -/
  chans    : SMap (List Nat)
  stage    : Nat
  /-- What replays, a core's clause by its number in the stope or, for 4, a step of the array, and the device time of
  the flagged cycle: every other unit of the stope stands still (R150). -/
  replay   : Option (Nat × Nat)
  /-- Since when the stope stands still until 20 mV has been added to MX and VX (R151). -/
  settling : Option Nat
  /-- Replays since assignment and in this governor period; periods in a row below 8 (R151, R157). -/
  replays  : Nat
  period   : Nat
  /-- Fenced off after a failure (R21). -/
  failed   : Bool
  deriving DecidableEq, Repr

/-! ## The copy engine (R319 to R344) -/

/-- A copy command (R320, R330). -/
structure CopyCmd where
  issue   : Issue
  ctx     : Nat
  stope   : Nat
  chan    : Nat
  kind    : CopyKind
  /-- The four descriptor words. -/
  desc    : List Dword
  /-- The token's physical register; the counter's address, 0 for none, and its place. -/
  token   : Option Nat
  counter : Va
  place   : Option Nat
  /-- Whether it has entered its queue; the next sector; the address of the page it waits for; its flags. -/
  queued  : Bool
  next    : Nat
  paused  : Option Dword
  flags   : Flags
  /-- Bytes of blocks already converted that later sectors write, with their addresses. -/
  carry   : List (Dword × Byte)
  /-- The entry of a static schedule that it runs. -/
  entry   : Option Nat
  deriving DecidableEq, Repr

/-! ## The fabric (R346 to R387) -/

/-- Where a fabric operation goes (R367): a connection; a channel of the package's own HBM; an agent window here; a
window homed here; a counter of this package. -/
inductive FabDest where
  | conn (c : Nat)
  | channel (stack chan : Nat)
  | agent (stack : Nat)
  | window (group : Nat)
  | here
  deriving DecidableEq, Repr

/-- A fabric operation of this package (R363 to R378). -/
structure FabRec where
  issue   : Issue
  part    : Nat
  ctx     : Nat
  op      : FabOp
  /-- The address of its target, and of its completion counter, in the issuer's context. -/
  va      : Dword
  counterVa : Dword
  dest    : FabDest
  /-- The place of the target in memory, where it lies here. -/
  loc     : Option Nat
  /-- The result registers, physical. -/
  result  : Option (RegFile × Nat)
  /-- The place of the completion counter here, and whether the operation is ordered with system scope. -/
  counter : Option Nat
  scope   : Scope
  order   : Order
  /-- Its sequence on the connection, once sent. -/
  seqNo   : Option Nat
  /-- The posted operation whose firing it is. -/
  post    : Option Nat
  /-- The holder counter of a TICKET; the flags that a FLAGSET sets. -/
  holder  : Option Nat
  sets    : List Nat
  deriving DecidableEq, Repr

/-- A bound posted operation (R360, R376). -/
structure Posted where
  issue   : Issue
  part    : Nat
  ctx     : Nat
  /-- The descriptor's eight words, and its address. -/
  desc    : List Dword
  addr    : Va
  trigger : Nat
  gate    : Option Nat
  /-- The place of its completion counter here. -/
  counter : Option Nat
  /-- The value of its trigger counter at the increment that fired it, until it leaves (R360). -/
  due     : Option Dword
  dmode   : Bool
  deriving DecidableEq, Repr

/-- A connection of a context, by its identifier, to a peer package (R351 to R353). -/
structure Conn where
  part     : Nat
  ident    : Dword
  package  : Nat
  /-- Whether nothing can be sent on it. -/
  down     : Bool
  /-- Sending: the next sequence number, the operations not yet acknowledged, oldest first, and expiries in a
  row. -/
  sendSeq  : Nat
  unacked  : List Nat
  expiries : Nat
  /-- Receiving: the sequence expected, and the response cache (R353). -/
  expect   : Nat
  /-- By sequence: the stack of the agent that performed it, and its reply. -/
  cache    : SMap (Nat × FabReply)
  deriving DecidableEq, Repr

/-- A counter here that an engine raises for a task: its place and address, and the word that named it. -/
structure TaskCounter where
  loc   : Nat
  va    : Dword
  ctx   : Nat
  issue : Issue
  deriving DecidableEq, Repr

/-- A ticket of a peer's dispenser, not yet called: the connection, and its holder counter (R373). -/
structure Ticket where
  op      : Nat
  conn    : Nat
  counter : TaskCounter
  deriving DecidableEq, Repr

/-- A ticket not yet called: its number, and its holder counter: one here, or an address at a connection's peer. -/
structure Holder where
  ticket  : Nat
  here    : Option TaskCounter
  conn    : Nat
  counter : Dword
  deriving DecidableEq, Repr

/-- A ticket dispenser (R355). -/
structure Dispenser where
  next    : Dword
  served  : BitVec 56
  width   : Byte
  holders : List Holder
  deriving DecidableEq, Repr

/-- What the fabric engine has sent to a peer or to a switch, in order: an operation with its sequence, a call of a
ticket, a reply or an acknowledgement, an acknowledgement packet, an arrival at a switch group. -/
inductive Sent where
  | operation (conn : Nat) (seq rack : Nat) (op : FabOp)
  | call (conn : Nat) (counter : Dword)
  | reply (conn : Nat) (seq : Nat) (reply : FabReply)
  | rack (conn : Nat) (below : Nat)
  | contribution (group : Nat) (op : FabOp)
  | arrival (group : Nat) (flip : Bool)
  /-- Bytes that a copy writes to a host (R65) or to a peer package. -/
  | bytes (host : Bool) (who : Nat) (addr : Nat) (data : List Byte)
  deriving DecidableEq, Repr

/-- What an agent keeps for a partition (R354). -/
structure Agent where
  duplicates : Nat
  performed  : Nat
  refused    : Nat
  dispensers : SMap Dispenser
  deriving DecidableEq, Repr

/-- A contribution to a reduction window (R358): the lowest rank of its members and their count, more than one where a
switch has merged a node of the tree (R359); the operation, and the record that its counter's raise leaves, where its
issuer is a task of this device (R368). -/
structure Contribution where
  rank  : Nat
  count : Nat
  op    : FabOp
  owner : Option AcqEntry
  deriving DecidableEq, Repr

/-- A window address of a switch group homed here, with the partition of its context: complete generations so far, and
the contributions to later ones. -/
structure Window where
  part  : Nat
  group : Nat
  ident : Dword
  addr  : Dword
  gen   : Nat
  parts : List Contribution
  /-- Of a window whose context is not there yet: by partition, the generations and the contributions that it held when
  the partition was assigned. -/
  marks : SMap (Nat × Nat)
  deriving DecidableEq, Repr

/-- A switch group (R357): the member packages in rank order, and the generation bit of this member. -/
structure Group where
  members : List Nat
  flip    : Bool
  deriving DecidableEq, Repr

/-- States of a wavelength (R346). -/
inductive LaneState where
  | active | parked | retraining | retired
  deriving DecidableEq, Repr

/-- A wavelength of one direction: its state, corrected symbol errors in the window, failed retrainings in a row. -/
structure Lane where
  state  : LaneState
  errors : Nat
  fails  : Nat
  deriving DecidableEq, Repr

/-- A stripe request: remove or restore a wavelength (R385). -/
structure StripeReq where
  restore : Bool
  lambda  : Nat
  deriving DecidableEq, Repr

/-- A flit on the wavelengths: the wavelength and the beat time, from the flit's start, of each of its beats (R347). -/
structure SentFlit where
  flit  : Flit
  slots : List (Nat × Nat)
  deriving DecidableEq, Repr

/-- A packet that waits for a flit: the beats that it takes, whether it travels in a flit of its own, and its header and
data (R384). -/
structure WaitPacket where
  beats : Nat
  alone : Bool
  bits  : BitVec 1792
  deriving DecidableEq, Repr

/-- The data of an accepted flit, beats 1 to 7, and how many of them the packets that have been taken held (R386). -/
structure Received where
  beats : BitVec 1792
  used  : Nat
  deriving DecidableEq, Repr

/-- A Flouth port (R346 to R350, R383 to R387). -/
structure Port where
  rx       : List Lane
  tx       : List Lane
  /-- Receiving: the next flit expected; the first missing, while it is; requests not yet honoured, oldest first; the
  data of accepted flits, oldest first. -/
  expect   : Byte
  missing  : Option Byte
  requests : List StripeReq
  received : List Received
  /-- Sending: the next sequence number; the replay buffer, oldest first; packets that wait; flits sent, oldest first. -/
  seq      : Byte
  buffer   : List (Byte × BitVec 1792)
  waiting  : List WaitPacket
  sent     : List SentFlit
  thr      : Nat
  park     : Nat
  wake     : Nat
  /-- Whether the queue has reached WakeDepth, and the parked wavelengths are to join (R349). -/
  woken    : Bool
  deriving DecidableEq, Repr

/-! ## Power and time (R138 to R157) -/

/-- A sensor (R152, R153): its last sample, samples unchanged in a row while its neighbours change, samples beyond the
threshold in a row, whether it has failed, whether it holds a cap down, and its reading or the substitute. Its number
gives its kind and its die. -/
structure Sensor where
  value   : Int
  same    : Nat
  beyond  : Nat
  failed  : Bool
  holds   : Bool
  reading : Int
  deriving DecidableEq, Repr

/-- The rails: the grant; the compute and FB levels in force; millivolts added
to MX and VX, and a level added, under R151; whether the caps of failed sensors bind; and levels taken by heat. -/
structure Power where
  grant   : BitVec 3
  level   : BitVec 3
  fb      : BitVec 3
  /-- A change under way of the compute rails, and of FB: the lowest and the highest of its levels, and the device time
  at which it began (R140). -/
  moving  : Option (Nat × Nat × Nat)
  fbMoving : Option (Nat × Nat × Nat)
  /-- The device time of the next evaluation of the governor, at the earliest (R143). -/
  nextEval : Nat
  extraMv : Nat
  boost   : Nat
  quiet   : Nat
  /-- Levels that heat has taken from the compute rails and from FB (R154), and the highest replay count of any stope in
  the last period (R34). -/
  hotC    : Nat
  hotF    : Nat
  highest : Nat
  /-- By number; one that is not listed stands as at reset. -/
  sensors : SMap Sensor
  deriving DecidableEq, Repr

/-- The Foreman's calibration of a die's counter, and the time since boot at which it was made (R156). -/
structure DieTime where
  offset : Dword
  rate   : Dword
  since  : Nat
  deriving DecidableEq, Repr

/-! ## The Foreman (R15 to R34) -/

/-- An entry of the telemetry log (R34). -/
structure LogEntry where
  time   : Nat
  kind   : Nat
  part   : Nat
  detail : List Byte
  deriving DecidableEq, Repr

/-- An endpoint (R30): the registered digest, the session key and the address it is bound to. -/
structure Endpoint where
  digest  : List Byte
  key     : Option (List Byte)
  address : BitVec 128
  deriving DecidableEq, Repr

/-- A reply, as it leaves: the header's fields and the body. -/
structure Reply where
  auth     : Dword
  context  : Dword
  seq      : Word
  status   : BitVec 16
  function : Byte
  partition : Byte
  type     : BitVec 16
  body     : List Byte
  deriving DecidableEq, Repr

/-- The module record (R9, R15 to R17): the operator's digest, the record's own digest and its signature, the
certificate, the enabled sites of each half, retired channels by 32 · stack + channel, retired wavelengths by port, and
the Foreman image in flash. -/
structure Module where
  operator : List Byte
  digest   : List Byte
  sign     : List Byte
  cert     : List Byte
  sites    : List Nat
  retired  : List Nat
  lambdas  : SMap Byte
  image    : List Byte
  deriving DecidableEq, Repr

/-- A request whose reply waits for an event, and the device's count of clauses at the request. -/
structure Waiting where
  req   : Request
  mark  : Nat
  deriving DecidableEq, Repr

structure Foreman where
  booted    : Bool
  recovery  : Bool
  /-- Pairs that have stopped (R15). -/
  pairsLost : Nat
  version   : Word
  imageDigest : List Byte
  /-- The endpoints by 8 · partition + function; 96 is the operator. -/
  endpoints : SMap Endpoint
  logs      : List LogEntry
  /-- Log entries already reported, by requester. -/
  reported  : SMap Nat
  unsupported : Nat
  authDrops : Nat
  sampleDrops : Nat
  lateEntries : Nat
  /-- Replies that have left, oldest first. -/
  replies   : List Reply
  /-- Replies that wait for earlier ones of their endpoint, under reliable ordered delivery (R26). -/
  held      : List Reply
  /-- Requests whose replies wait for an event. -/
  waiting   : List Waiting
  /-- The package's number, and the packages of the system. -/
  package   : Nat
  system    : List Nat
  deriving DecidableEq, Repr

/-! ## Accesses that wait for the scoreboards -/

/-- Who increments a counter: a record for its log, where the increment leaves one. -/
structure Mark where
  owner  : BitVec 24
  epoch  : BitVec 12
  engine : Bool
  scope  : Scope
  stope  : Nat
  deriving DecidableEq, Repr

/-- What a late access does to the tags of its granules: nothing; zero, as an arrival; or the check of an engine access
for a task, which reports an address (R101). -/
inductive LateTag where
  | keep | zero
  | engine (c : TaskCounter)
  deriving DecidableEq, Repr

/-- A write, and then a raise of a counter, by the dispatcher, a fired operation, an arrival or a ticket's call; it
waits while a scoreboard holds one of its granules (R297). The records of a trigger counter up to a value may go with
the raise (R378). It is an access of a context from a place in issue order, by which a shoot-down knows it (R71, R73).
-/
structure LateOp where
  cells   : List Host.Cell
  counter : Option (Nat × Dword × Option Mark)
  tag     : LateTag
  source  : Option (Nat × Dword)
  ctx     : Nat
  place   : Nat
  deriving DecidableEq, Repr

/-! ## The device -/

/-- DESIGN CHOICE (log 3). -/
structure Dev where
  cores    : SMap Core
  mem      : List Host.Cell
  tags     : SMap Tag
  arms     : SMap Arming
  stopes   : SMap Stope
  parts    : SMap Partition
  ctxs     : SMap Context
  launches : SMap Launch
  copies   : SMap CopyCmd
  fabric   : SMap FabRec
  posted   : SMap Posted
  conns    : SMap Conn
  /-- By 8 · partition + stack. -/
  agents   : SMap Agent
  windows  : List Window
  /-- What the fabric engine has sent, oldest first. -/
  sent     : List Sent
  groups   : SMap Group
  ports    : SMap Port
  power    : Power
  /-- By die, in the order of R85. -/
  dies     : SMap DieTime
  /-- The site of each logical stope, within its half, and the sites that have failed, by 34 · half + site (R9, R20). -/
  sites    : SMap Nat
  badSites : List Nat
  foreman  : Foreman
  module   : Module
  /-- The dies lost since boot, in the order of R85 (R24). -/
  lost     : Byte
  /-- What waits for the scoreboards, oldest first: writes and raises, and packets that have arrived, with whether their
  data is uncorrectable (R297). -/
  late     : List LateOp
  arrivals : List (Packet × Bool)
  /-- Tickets of peers' dispensers that are to be called (R373). -/
  tickets  : List Ticket
  /-- HBM places that have reported an uncorrectable error, whose channels are to be retired (R22). -/
  erred    : List Nat
  /-- Clauses issued on the device so far, and the next name for a command. -/
  issues   : Nat
  names    : Nat
  /-- Device time in ns (R156), and boots so far. -/
  now      : Nat
  /-- The ns that have passed since boot, whichever die's counter is device time. -/
  clock    : Nat
  boots    : Nat
  deriving DecidableEq, Repr

/-- What reaches the device from outside with no row of the table. DESIGN CHOICE (log 68). -/
inductive Input where
  /-- The access that leaves a core's check window next meets an uncorrectable error on data that it reads (R235). -/
  | windowError (core : CoreId)
  /-- A packet arrives whose operation meets uncorrectable data at the agent (R356). -/
  | failingArrival (pkt : Packet)
  /-- A contribution that a switch has merged for count ranks reaches the home (R359). -/
  | merged (group : BitVec 16) (context : Dword) (rank count : Nat) (op : FabOp)
  /-- The Foreman sets a port's error threshold, ParkDepth and WakeDepth (R348, R349). -/
  | portSettings (port : BitVec 6) (thr park wake : Nat)
  /-- A control flit agrees that the far end of a port parks a wavelength, or wakes the parked ones (R347, R349). -/
  | farParking (port : BitVec 6) (wake : Bool)
  /-- The Foreman of a peer package reports that the peer's connection to this package has gone down (R352, R353). -/
  | peerDown (context : Dword) (package : Nat)
  /-- The Foreman configures a switch group: its member packages in rank order (R357). -/
  | configureGroup (group : BitVec 16) (members : List Nat)
  /-- The packages of the system become known to the Foreman (R351). -/
  | system (packages : List Nat)
  deriving DecidableEq, Repr

/-- What moves next: a core issues, an event of the table happens, or an input arrives. DESIGN CHOICE (log 2). -/
inductive Move where
  | core (k : Nat)
  | event (i : Instr)
  | input (x : Input)
  deriving DecidableEq, Repr

/-- A turn: the device time it takes, in ns, and the move. DESIGN CHOICE (log 2). -/
structure Turn where
  dt   : Nat
  move : Move
  deriving DecidableEq, Repr

/-- How far a clause has come: moved where its S word has set the position itself (R208, R273). -/
inductive Verdict where
  | going | trapped | stalled | moved
  deriving DecidableEq, Repr

/-- The clause in flight: the device as it stood when its words read their sources (R179), the place and the address
of the word at hand, the address after the clause, and what its words have decided. -/
structure Clause where
  base    : Dev
  slot    : Nat
  addr    : Va
  next    : Va
  target  : Option Va
  verdict : Verdict
  deriving DecidableEq, Repr

structure State where
  dev    : Dev
  /-- The turns to come. With none, the machine's own policy picks the next turn. -/
  agenda : List Turn
  /-- The core that moves: 4 · stope + core. -/
  cur    : Nat
  clause : Option Clause
  deriving DecidableEq, Repr

/-! ## Reset -/

/-- A core before its first task. DESIGN CHOICE (log 1). -/
def coreReset : Core :=
  { run := none, leaving := false, pc := 0, g := [], v := [], p := [], o := [], empty := [], owner := [], flights := [],
    fflags := 0, frm := 0, seed := 0, tvec := 0, tcause := 0, noResume := false, tinfo := 0, riskEn := false,
    riskPend := false, risk := none, limit := 1024, gpc := 0, glink := 0, lc := 0, ec := 0, rrb := 0, lstart := 0,
    lend := 0, active := false, lgpc := 0, inHandler := false, fresh := false, latch := none, notice := [],
    window := [], acks := [], epoch := 0, acq := [], lease := false, leaseRem := 0, leaseReq := false,
    leaseNext := 64, leaseOk := false, leaseBack := false, fabricQ := [], stall := none, bubble := false, replays := 0,
    lastTime := 0, preempt := none, takenUntil := 0, takeFor := 0, opGate := [], swpt := none, pend := none, written := [] }

/-- DESIGN CHOICE (log 1). -/
def stopeReset : Stope :=
  { holder := none, leaseQ := [], banks := [], arrayQ := [], restores := [], board := [], chans := [], stage := 0,
    replay := none, settling := none, replays := 0, period := 0, failed := false }

def bankReset : Bank := { owner := none, last := none, released := none, flags := 0, cells := [] }

/-- DESIGN CHOICE (log 1). -/
def powerReset : Power :=
  { grant := 7, level := 0, fb := 0, moving := none, fbMoving := none, nextEval := 0, extraMv := 0, boost := 0,
    quiet := 0, hotC := 0, hotF := 0, highest := 0, sensors := [] }

def dispenserReset : Dispenser := { next := 0, served := 0, width := 1, holders := [] }

def agentReset : Agent := { duplicates := 0, performed := 0, refused := 0, dispensers := [] }

def laneReset : Lane := { state := .active, errors := 0, fails := 0 }

/-- A port with every wavelength active and the default settings (R348, R349). -/
def portReset : Port :=
  { rx := List.replicate 8 laneReset, tx := List.replicate 8 laneReset, expect := 0, missing := none, requests := [],
    received := [], seq := 0, buffer := [], waiting := [], sent := [], thr := 4096, park := 4, wake := 32, woken := false }

/-- DESIGN CHOICE (log 9). -/
def foremanReset : Foreman :=
  { booted := false, recovery := false, pairsLost := 0, version := 0, imageDigest := [], endpoints := [], logs := [],
    reported := [], unsupported := 0, authDrops := 0, sampleDrops := 0, lateEntries := 0, replies := [], held := [],
    waiting := [], package := 0, system := [0] }

/-- A module record that enables sites 0 to 31 of each half. DESIGN CHOICE (log 9). -/
def moduleReset : Module :=
  { operator := [], digest := [], sign := [], cert := [], sites := [2 ^ 32 - 1, 2 ^ 32 - 1], retired := [], lambdas := [],
    image := [] }

def devReset : Dev :=
  { cores := [], mem := [], tags := [], arms := [], stopes := [], parts := [], ctxs := [], launches := [],
    copies := [], fabric := [], posted := [], conns := [], agents := [], windows := [], sent := [], groups := [], ports := [],
    power := powerReset, dies := [], sites := [], badSites := [], foreman := foremanReset, module := moduleReset,
    lost := 0, late := [], arrivals := [], tickets := [], erred := [], issues := 0, names := 0, now := 0, clock := 0, boots := 0 }

/-- The machine right after reset. -/
def State.reset : State := { dev := devReset, agenda := [], cur := 0, clause := none }

end Sys2Proof.Machine
end

