-- ==== Sys2Proof/Machine/Ops.lean ====
section
/-! DEFINITION. The named operations over cores and registers: physical names, reading, ownership and results in
flight (spec/10_core_state.md R195 to R202), taking a trap and returning from it (R205 to R208). -/

namespace Sys2Proof.Machine

/-- What a meaning answers. -/
abbrev Out := Host.Outcome State Fault Refusal

/-! ## Finding things -/

def coreAt (d : Dev) (k : Nat) : Core := mget coreReset d.cores k

def putCore (d : Dev) (k : Nat) (c : Core) : Dev := { d with cores := minsert d.cores k c }

def modCore (d : Dev) (k : Nat) (f : Core → Core) : Dev := putCore d k (f (coreAt d k))

/-- The device as the clause's words read it: as it stood before any word of the clause (R179). -/
def srcDev (s : State) : Dev :=
  match s.clause with
  | some c => c.base
  | none => s.dev

/-- The core that moves, as it stands. -/
def live (s : State) : Core := coreAt s.dev s.cur

/-- The core that moves, as its words read it. -/
def src (s : State) : Core := coreAt (srcDev s) s.cur

def setDev (s : State) (d : Dev) : State := { s with dev := d }

def setLive (s : State) (c : Core) : State := setDev s (putCore s.dev s.cur c)

def modLive (s : State) (f : Core → Core) : State := setLive s (f (live s))

/-- The logical stope of a core. -/
def stopeOf (k : Nat) : Nat := k / 4

/-- The half of a logical stope (R9). -/
def halfOf (stope : Nat) : Nat := if stope < 32 then 0 else 1

def stopeAt (d : Dev) (n : Nat) : Stope := mget stopeReset d.stopes n

def putStope (d : Dev) (n : Nat) (x : Stope) : Dev := { d with stopes := minsert d.stopes n x }

def modStope (d : Dev) (n : Nat) (f : Stope → Stope) : Dev := putStope d n (f (stopeAt d n))

def launchAt (d : Dev) (l : Nat) : Option Launch := mfind d.launches l

def putLaunch (d : Dev) (l : Nat) (x : Launch) : Dev := { d with launches := minsert d.launches l x }

def modLaunch (d : Dev) (l : Nat) (f : Launch → Launch) : Dev := { d with launches := mmod d.launches l f }

def modTask (d : Dev) (l i : Nat) (f : Task → Task) : Dev :=
  modLaunch d l fun x => { x with tasks := mmod x.tasks i f }

/-- The launch of the task a core runs. -/
def launchOf (d : Dev) (k : Nat) : Option Launch :=
  match (coreAt d k).run with
  | some r => launchAt d r.launch
  | none => none

def partAt (d : Dev) (p : Nat) : Option Partition := mfind d.parts p

def ctxAt (d : Dev) (c : Nat) : Option Context := mfind d.ctxs c

/-- Whether a core's task runs in D-mode. -/
def dmodeOf (d : Dev) (k : Nat) : Bool :=
  match launchOf d k with
  | some l => match partAt d l.part.toNat with
    | some p => p.dmode
    | none => false
  | none => false

/-- The packet grid's anchor: the KernelEntry of the launch that the core runs (R174). -/
def anchorOf (d : Dev) (k : Nat) : Va :=
  match launchOf d k with
  | some l => l.record.kernel
  | none => 0

/-- Whether an address is a packet start (R174). -/
def packetStart (anchor a : Va) : Bool := ((a.toNat : Int) - (anchor.toNat : Int)) % 12 == 0

/-- The start of the packet that holds a word (R174). -/
def packetOf (anchor a : Va) : Va := a - BitVec.ofInt 48 (((a.toNat : Int) - (anchor.toNat : Int)) % 12)

/-! ## Physical registers (R198) -/

def physG (rrb : BitVec 8) (n : Nat) : Nat :=
  if 32 ≤ n ∧ n < 56 then 32 + (n - 32 + rrb.toNat) % 24 else n

def physV (rrb : BitVec 8) (n : Nat) : Nat :=
  if 32 ≤ n then 32 + (n - 32 + rrb.toNat) % 32 else n

def physP (rrb : BitVec 8) (n : Nat) : Nat :=
  if 8 ≤ n then 8 + (n - 8 + rrb.toNat) % 8 else n

/-- The physical number of a register named in a word. -/
def phys (c : Core) (f : RegFile) (n : Nat) : Nat :=
  match f with
  | .g => physG c.rrb n
  | .v => physV c.rrb n
  | .p => physP c.rrb n
  | .o => n

def fileCode : RegFile → Nat
  | .g => 0 | .v => 1 | .p => 2 | .o => 3

/-- A register as R203 codes it: the file in [7:6] and the number in [5:0]. -/
def regCode (f : RegFile) (n : Nat) : Nat := fileCode f * 64 + n

/-- Whether a register is g0 or p0, whose writes are discarded and which always read full (R197, R200). -/
def hardwired (f : RegFile) (n : Nat) : Bool :=
  n == 0 && (match f with
    | .g | .p => true
    | .v | .o => false)

/-- The g register of a physical number: g0 reads zero. -/
def physReadG (c : Core) (n : Nat) : Dword := if n = 0 then 0 else mget 0 c.g n

def physReadV (c : Core) (n : Nat) : Vec := mget 0 c.v n

/-- The p register of a physical number: p0 reads all ones. -/
def physReadP (c : Core) (n : Nat) : Pred := if n = 0 then BitVec.allOnes 128 else mget 0 c.p n

def readO (c : Core) (n : Nat) : Dword := mget 0 c.o n

def readG (c : Core) (n : RegNum) : Dword := physReadG c (physG c.rrb n.toNat)

def readV (c : Core) (n : RegNum) : Vec := physReadV c (physV c.rrb n.toNat)

def readP (c : Core) (n : Nat) : Pred := physReadP c (physP c.rrb n)

/-- Store the low bits of the data into a register; g0 and p0 discard it. -/
def writeReg (c : Core) (f : RegFile) (n : Nat) (x : Vec) : Core :=
  if hardwired f n then c
  else match f with
    | .g => { c with g := mset 0 c.g n (x.setWidth 64) }
    | .v => { c with v := mset 0 c.v n x }
    | .p => { c with p := mset 0 c.p n (x.setWidth 128) }
    | .o => { c with o := mset 0 c.o n (x.setWidth 64) }

def isEmpty (c : Core) (f : RegFile) (n : Nat) : Bool := mget false c.empty (regCode f n)

def setEmpty (c : Core) (f : RegFile) (n : Nat) (e : Bool) : Core :=
  if hardwired f n then c else { c with empty := mset false c.empty (regCode f n) e }

def ownerOf (c : Core) (f : RegFile) (n : Nat) : Nat := mget 0 c.owner (regCode f n)

/-- DESIGN CHOICE (log 7). -/
def setOwner (c : Core) (f : RegFile) (n : Nat) (w : Nat) : Core :=
  if hardwired f n then c else { c with owner := mset 0 c.owner (regCode f n) w }

/-! ## Results in flight (R195, R200, R201) -/

/-- The number of the word at hand, by which it owns registers: within a clause, numbers follow address order, so
that the later word is the owner (R179, R200). DESIGN CHOICE (log 7). -/
def wordId (s : State) : Nat :=
  match s.clause with
  | some c => 7 * s.dev.issues + 1 + c.slot
  | none => 7 * s.dev.issues + 1

/-- Take ownership of a register for a word, and mark it empty or full (R200). A later word keeps it. -/
def claimReg (c : Core) (f : RegFile) (n w : Nat) (e : Bool) : Core :=
  if w < ownerOf c f n then c else setOwner (setEmpty c f n e) f n w

/-- Put a result on its way: its word owns the register; a variable-latency word marks it empty, a fixed-latency
word full (R200). DEDUCED (log 8). -/
def launchFlight (c : Core) (f : Flight) : Core :=
  let c := claimReg c f.file f.num f.word (!f.fixed)
  { c with flights := c.flights ++ [f] }

/-- Write a register in the issue cycle, for the next clause to see (R228, R229); a later word of the clause keeps it
(R200). -/
def writeNow (c : Core) (f : RegFile) (n w : Nat) (x : Vec) : Core :=
  if w < ownerOf c f n then c else writeReg (setOwner (setEmpty c f n false) f n w) f n x

/-- Whether a result's word still owns its register (R200). -/
def owns (c : Core) (f : Flight) : Bool := !hardwired f.file f.num && ownerOf c f.file f.num == f.word

/-- Write a result: its flags always count (R251); the register takes it only where its word is the owner, and a
variable-latency result marks it full (R200). -/
def land (c : Core) (f : Flight) : Core :=
  let c := { c with fflags := c.fflags ||| f.flags }
  if owns c f then setEmpty (writeReg c f.file f.num f.data) f.file f.num false else c

/-- Whether a result is due in the cycle at hand. -/
def due (f : Flight) : Bool := f.remain == 0 && (f.fixed || f.arrived)

/-- Write, in issue order, every result of a list that the test selects. -/
def landAll (sel : Flight → Bool) : List Flight → Core → Core
  | [], c => c
  | f :: r, c => landAll sel r (if sel f then land c f else c)

/-- Write the selected results and take them off the list. -/
def writeSel (sel : Flight → Bool) (c : Core) : Core :=
  let c' := landAll sel c.flights c
  { c' with flights := c.flights.filter fun f => !sel f }

/-- A physical register, at the width of a vector. -/
def heldReg (c : Core) (f : RegFile) (n : Nat) : Vec :=
  match f with
  | .g => (physReadG c n).setWidth 1024
  | .v => physReadV c n
  | .p => (physReadP c n).setWidth 1024
  | .o => (readO c n).setWidth 1024

/-- Write the selected results ahead of the clause of their schedule cycle: what their registers held is kept until that
cycle passes (R286). DEDUCED (log 8). -/
def writeAhead (sel : Flight → Bool) (c : Core) : Core :=
  { writeSel sel c with written := c.written ++ (c.flights.filter fun f => sel f && owns c f).map fun f =>
      ⟨f, heldReg c f.file f.num, isEmpty c f.file f.num⟩ }

/-- The schedule cycle at hand does not pass: the results that were written in it are in flight again, and their
registers hold what they held (R202, R286). DEDUCED (log 8). -/
def unwrite (c : Core) : Core :=
  c.written.foldr (fun w c =>
    if owns c w.flight then
      let c := setEmpty (writeReg c w.flight.file w.flight.num w.old) w.flight.file w.flight.num w.empty
      { c with flights := w.flight :: c.flights }
    else c) { c with written := [] }

/-- Write every result that is due (R196). -/
def writeDue (c : Core) : Core := writeSel due c

/-- The count of a landing that was due in its own issue cycle, the landing delay 0: nothing issues until its data is
there (R236). DEDUCED (log 8). -/
def overdue : Nat := 64

/-- The count of a landing at its issue. DEDUCED (log 8). -/
def landingCount (delay : Nat) : Nat := if delay = 0 then overdue else delay

/-- Whether a result is written when its data comes: its landing cycle has come, or it is untimed (R201). -/
def landsAtOnce (remain : Nat) : Bool := remain == 0 || 63 ≤ remain

/-- A timed landing that is due and whose data is absent, which freezes the domain (R202). -/
def lateLanding (c : Core) : Option Flight :=
  c.flights.find? fun f => (f.remain == 0 || f.remain == overdue) && !f.fixed && !f.arrived && owns c f

/-- One schedule cycle passes: every count goes down (R195). DEDUCED (log 8). -/
def tickFlights (c : Core) : Core :=
  { c with flights := c.flights.map fun f => if 63 ≤ f.remain then f else { f with remain := f.remain - 1 }, written := [] }

/-- Issue a fixed-latency result for a register of the core that moves. -/
def issueFixed (s : State) (f : RegFile) (n : Nat) (latency : Nat) (x : Vec) (fl : Flags) : State :=
  setLive s (launchFlight (live s)
    { word := wordId s, file := f, num := n, remain := latency, fixed := true, arrived := true, buffered := false,
      data := x, flags := fl, src := .none })

def issueG (s : State) (d : RegNum) (latency : Nat) (x : Dword) : State :=
  issueFixed s .g (phys (src s) .g d.toNat) latency (x.setWidth 1024) 0

def issueV (s : State) (d : RegNum) (latency : Nat) (x : Vec) (fl : Flags) : State :=
  issueFixed s .v (phys (src s) .v d.toNat) latency x fl

def issueP (s : State) (d : Nat) (latency : Nat) (x : Pred) (fl : Flags) : State :=
  issueFixed s .p (phys (src s) .p d) latency (x.setWidth 1024) fl

/-- A flight whose data comes later; remain is the landing delay, 63 for an untimed one. -/
def pendingFlight (s : State) (f : RegFile) (n delay : Nat) (from' : LoadSrc) : Flight :=
  { word := wordId s, file := f, num := n, remain := delay, fixed := false, arrived := false, buffered := false,
    data := 0, flags := 0, src := from' }

/-! ## The clause -/

/-- The address of the word at hand. -/
def wordAddr (s : State) : Va :=
  match s.clause with
  | some c => c.addr
  | none => (src s).pc

/-- The address of the word after the clause. -/
def clauseEnd (s : State) : Va :=
  match s.clause with
  | some c => c.next
  | none => (src s).pc + 4

/-- Change the device as it stood before the clause, and as it stands now. -/
def onBase (s : State) (f : Dev → Dev) : State :=
  { s with dev := f s.dev, clause := s.clause.map fun c => { c with base := f c.base } }

def setVerdict (s : State) (v : Verdict) : State :=
  match s.clause with
  | some c => { s with clause := some { c with verdict := v } }
  | none => s

/-- Take a transfer: the next clause is at the target (R221 to R223). Outside a clause the pc moves at once. -/
def transferTo (s : State) (t : Va) : State :=
  match s.clause with
  | some c => { s with clause := some { c with target := some t } }
  | none => modLive s fun c => { c with pc := t }

/-! ## Taking a trap (R58, R205 to R207) -/

/-- Causes (R206). -/
def causeIllegalOpcode : Nat := 1
def causeIllegalClause : Nat := 2
def causeEmptyRead : Nat := 3
def causeFreezeTimeout : Nat := 4
def causeAbsent : Nat := 5
def causeAccess : Nat := 6
def causeMisaligned : Nat := 7
def causeRace : Nat := 8
def causeDet : Nat := 9
def causeOverrun : Nat := 10
def causeSwizzle : Nat := 11
def causeFormat : Nat := 12
def causeLease : Nat := 13
def causeDieLost : Nat := 14
def causeRemote : Nat := 15
def causeGloss : Nat := 16
def causeStage2 : Nat := 17
def causeDeadlineRisk : Nat := 32

/-- The causes after which a task cannot resume (R206). -/
def noResumeCause (cause : Nat) : Bool := cause == 5 || cause == 14 || cause == 17

/-- A result as a snapshot entry: Remain counts the cycles up to its write, 1 for the first cycle after the
boundary, 0 for a landing that its own issue cycle still waits for (R211, R286). -/
def entryOf (f : Flight) : SnapEntry :=
  { remain := if f.remain = 63 then 63 else if f.remain = overdue then 0 else BitVec.ofNat 8 (min 62 (f.remain + 1)),
    valid := true,
    arrived := f.arrived, file := BitVec.ofNat 2 (fileCode f.file), number := BitVec.ofNat 6 f.num, data := f.data,
    word := f.word, src := f.src }

def fileOfCode (x : BitVec 2) : RegFile :=
  match x.toNat with
  | 0 => .g | 1 => .v | 2 => .p | _ => .o

/-- The values latched for the handler that runs, where one does (R214). -/
def handlerLatch (c : Core) : Option Latch := if c.inHandler then c.latch else none

/-- The values latched for a resumption at an address. Results that no longer own their register are not kept
(R211). -/
def latchOf (c : Core) (resume : Va) : Latch :=
  { pc := resume, gpc := c.gpc, glink := c.glink, lstart := c.lstart, lend := c.lend, lgpc := c.lgpc,
    active := c.active, lc := c.lc, ec := c.ec, rrb := c.rrb, lease := false, inHandler := false, leaseRem := 0,
    freezeNs := 0, epoch := c.epoch, acq := c.acq.map (true, ·),
    landing := (c.flights.filter fun f => !f.fixed && owns c f).map entryOf,
    inflight := (c.flights.filter fun f => f.fixed && owns c f).map entryOf }

/-- The core after its results in flight are latched: their flags count at once (R251), and their later arrivals go
to the latch. Loads that no longer own their register still land (R90). -/
def dropLatched (c : Core) : Core :=
  { c with fflags := c.flights.foldl (fun acc f => acc ||| f.flags) c.fflags,
           flights := c.flights.filter fun f => !f.fixed && !owns c f }

/-- The system registers of a trap: tcause and tinfo (R205, R207). -/
def setCause (c : Core) (cause : Nat) (info : Dword) : Core :=
  { c with tcause := BitVec.ofNat 16 cause, noResume := noResumeCause cause, tinfo := info }

/-- Stop a launch: its tasks issue no more, and LAUNCH_FAULT then completes it (R58). Only the first stop counts. -/
def stopLaunch (d : Dev) (l : Nat) (st : Stop) : Dev :=
  modLaunch d l fun x => if x.stop.isSome then x else { x with stop := some st }

/-- The request of an MLEASE that has yet to be granted is withdrawn from the arbiter of core k's stope (R304, R315). -/
def withdrawLease (d : Dev) (k : Nat) : Dev :=
  if (coreAt d k).leaseReq && !(coreAt d k).leaseBack then
    modStope d (stopeOf k) fun x => { x with leaseQ := x.leaseQ.filter fun q => q != k % 4 }
  else d

/-- Whether sr.tvec of core k names a handler (R58, R205). -/
def handlerAt (d : Dev) (k : Nat) : Bool :=
  let c := coreAt d k
  c.tvec != 0 && packetStart (anchorOf d k) c.tvec

/-- Whether a trap on core k stops its launch: it has no handler, or the handler's first clause has not completed
(R58). -/
def noHandler (d : Dev) (k : Nat) : Bool := !handlerAt d k || ((coreAt d k).inHandler && (coreAt d k).fresh)

/-- Take a trap on core k at a clause boundary, from a device in which no word of the clause has had effect: the results
in flight and the position are latched, the loop becomes inactive, and the next clause is at sr.tvec. Where sr.tvec
names no packet start or is zero, or where a handler's first clause traps, the launch stops instead (R58, R205). The
image of that launch has the position to resume at. DEDUCED (log 65). -/
def takeTrap (d : Dev) (k : Nat) (cause : Nat) (info : Dword) (resume : Va) : Dev :=
  let c := coreAt d k
  let lasted := match c.stall with
    | some x => if x.kind = .freeze then d.now - x.since else 0
    | none => 0
  let l := { latchOf c resume with freezeNs := BitVec.ofNat 32 lasted }
  let d := withdrawLease d k
  let c1 := { setCause c cause info with
    stall := none, swpt := none, pend := none, written := [], replays := 0, leaseReq := c.leaseReq && c.leaseBack, leaseOk := false }
  if noHandler d k then
    match c.run with
    | some r =>
      let st : Stop := { task := some r.task, cause := cause, exit := 0, core := some (dropLatched c1),
                         latch := if c.inHandler && c.fresh && handlerAt d k then c.latch else some l, status := 8 }
      stopLaunch (putCore d k (dropLatched c1)) r.launch st
    | none => putCore d k c1
  else
    putCore d k { dropLatched c1 with
      latch := some l, active := false, inHandler := true, fresh := true, pc := c.tvec, bubble := false }

/-- A word of the clause traps: no word of the clause has effect (R178, R205). DEDUCED (log 6). -/
def trap (s : State) (cause : Nat) (info : Dword) : Out :=
  .next (setVerdict { s with dev := takeTrap (srcDev s) s.cur cause info (src s).pc } .trapped)

/-- Whether a core holds a freeze whose cause remains: the register that it waits for is empty. -/
def holdsFreeze (c : Core) : Bool :=
  match c.stall with
  | some ⟨.freeze, some (f, n), _⟩ => isEmpty c f n
  | some ⟨.freeze, none, _⟩ => true
  | some ⟨.hold, _, _⟩ => false
  | none => false

/-- When a freeze of a stope began that a core joins: the freeze lasts while any cause of it remains (R202, R203). -/
def freezeStart (d : Dev) (k : Nat) : Nat :=
  ((List.range 4).filterMap fun q =>
    let c := coreAt d (4 * stopeOf k + q)
    if holdsFreeze c then c.stall.map (·.since) else none).foldl min d.now

/-- A word of the clause cannot issue yet: the clause waits whole (R202). A freeze goes on where the core comes to wait
for another register (R203). DEDUCED (log 6). -/
def stallOn (s : State) (kind : StallKind) (reg : Option (RegFile × Nat)) : Out :=
  let d := srcDev s
  let c := coreAt d s.cur
  let since := match c.stall with
    | some x => if x.kind = kind then x.since else if kind = .freeze then freezeStart d s.cur else d.now
    | none => if kind = .freeze then freezeStart d s.cur else d.now
  .next (setVerdict { s with dev := putCore d s.cur { c with stall := some ⟨kind, reg, since⟩ } } .stalled)

/-- An issue hold of the core (R202). -/
def hold (s : State) : Out := stallOn s .hold none

/-- Whether a core's task runs: it has one, which is not leaving, and its launch runs. DEDUCED (log 58). -/
def issuing (d : Dev) (k : Nat) : Bool :=
  let c := coreAt d k
  !c.leaving && (match launchOf d k with
    | some x => x.stop.isNone && (x.state == .running || x.state == .preempting)
    | none => false)

/-- Whether a stope's units stand still for a replay: that of a core's clause, until the core's next turn, or of a step
of the array, for the cycle at hand; or until MX and VX have 20 mV more (R150, R151). DESIGN CHOICE (log 44). -/
def replaying (d : Dev) (stope : Nat) : Bool :=
  (stopeAt d stope).settling.isSome || (match (stopeAt d stope).replay with
    | some (q, t) => if q < 4 then issuing d (4 * stope + q) else d.now ≤ t
    | none => false)

/-- Whether the clause of core k replays (R150). -/
def clauseReplays (d : Dev) (k : Nat) : Bool :=
  issuing d k && (stopeAt d (stopeOf k)).replay.any fun r => r.1 == k % 4

/-- Whether a stope stands still: one of its cores holds a freeze, or a unit replays (R150, R202). -/
def stopeFrozen (d : Dev) (stope : Nat) : Bool :=
  replaying d stope || (List.range 4).any fun q => holdsFreeze (coreAt d (4 * stope + q))

/-- Whether a forced pre-emption of a core is due: one waits, and a lease defers it no longer (R213).
DEDUCED (log 51). -/
def preemptDue (now : Nat) (c : Core) : Bool :=
  match c.preempt with
  | some t => !c.lease || t ≤ now
  | none => false

/-! ## The telemetry log (R34) -/

/-- Add an entry to the telemetry log. -/
def addLog (d : Dev) (kind part : Nat) (detail : List Byte) : Dev :=
  { d with foreman := { d.foreman with logs := d.foreman.logs ++ [⟨d.now, kind, part, detail⟩] } }

/-- The n low bytes of a number. -/
def natBytes : Nat → Nat → List Byte
  | 0, _ => []
  | n + 1, x => BitVec.ofNat 8 x :: natBytes n (x / 256)

/-- A detail of a log entry: its numbers, 8 bytes each. DESIGN CHOICE (log 62). -/
def detail (xs : List Nat) : List Byte := xs.flatMap (natBytes 8)

/-- Log entries of the whole package carry partition 0xFF. -/
def noPart : Nat := 0xFF

/-! ## Return from a trap (R208, R274) -/

/-- A latched entry back on its way: it becomes the owner of its register again, and a landing marks it empty (R208).
Its count restarts so that the cycle after the ERET is the first. -/
def restoreEntry (fixed : Bool) (c : Core) (e : SnapEntry) : Core :=
  let f := fileOfCode e.file
  let n := e.number.toNat
  if e.valid then
    { setOwner (setEmpty c f n (!fixed)) f n e.word with
      flights := c.flights ++ [
        { word := e.word, file := f, num := n,
          remain := if e.remain = 0 ∧ !e.arrived ∧ !fixed then overdue else e.remain.toNat, fixed := fixed,
          arrived := e.arrived || fixed, buffered := e.arrived && !fixed && e.remain != 63, data := e.data,
          flags := 0, src := e.src }] }
  else c

/-- Restore the position and the results that a latch holds. -/
def restoreLatch (c : Core) (l : Latch) : Core :=
  let c := { c with pc := l.pc, gpc := l.gpc, lstart := l.lstart, lend := l.lend, lgpc := l.lgpc,
                    active := l.active, lc := l.lc, ec := l.ec, rrb := l.rrb }
  let c := l.inflight.foldl (restoreEntry true) c
  l.landing.foldl (restoreEntry false) c

/-- ERET on core k: end of handler state, and the latched values back (R208). -/
def returnFromTrap (d : Dev) (k : Nat) : Dev :=
  let c := coreAt d k
  match c.latch with
  | some l => putCore d k { restoreLatch c l with inHandler := false, fresh := false, bubble := false }
  | none => putCore d k { c with inHandler := false, fresh := false }

end Sys2Proof.Machine
end

