-- ==== Sys2Proof/Machine/Operands.lean ====
section
/-! DEFINITION. Operands of the words: source registers with their trap bits (spec/09_encoding.md R179, R182;
spec/10_core_state.md R200), immediates and offsets (R183), and packet targets (R184); and where a clause goes on
(spec/11_core_scalar_control.md R229, R230). -/

namespace Sys2Proof.Machine

/-! ## Sources (R179, R182, R200) -/

/-- A source register: file, physical number, trap bit. -/
structure Source where
  file : RegFile
  num  : Nat
  trap : Bool
  deriving DecidableEq, Repr

def gSrc (s : State) (n : RegNum) (t : Bool) : Source := ⟨.g, phys (src s) .g n.toNat, t⟩
def vSrc (s : State) (n : RegNum) (t : Bool) : Source := ⟨.v, phys (src s) .v n.toNat, t⟩
def pSrc (s : State) (n : Nat) (t : Bool) : Source := ⟨.p, phys (src s) .p n, t⟩
def oSrc (n : BitVec 3) (t : Bool) : Source := ⟨.o, n.toNat, t⟩

/-- Whether a source can be read: g0 and p0 always can (R182). -/
def readable (c : Core) (x : Source) : Bool := hardwired x.file x.num || !isEmpty c x.file x.num

/-- Read sources in order: the first empty one traps EMPTY_READ where its trap bit is set, and freezes the domain
where it is clear (R182, R200, R202). With all of them full, go on. DESIGN CHOICE (log 54). -/
def withSources (s : State) (xs : List Source) (k : Out) : Out :=
  match xs.find? (fun x => !readable (src s) x) with
  | some x =>
    if x.trap then trap s causeEmptyRead (BitVec.ofNat 64 (regCode x.file x.num))
    else stallOn s .freeze (some (x.file, x.num))
  | none => k

/-- Trap where a check fails, else go on. DESIGN CHOICE (log 54). -/
def checked (s : State) (bad : Bool) (cause : Nat) (info : Dword) (k : Out) : Out :=
  if bad then trap s cause info else k

/-! ## Immediates, offsets and targets (R183, R184) -/

/-- An immediate sign-extended to 64 bits. -/
def immOf {n : Nat} (i : BitVec n) : Dword := i.signExtend 64

/-- An offset in units of 8 bytes, sign-extended. -/
def offsetOf {n : Nat} (o : BitVec n) : Dword := (o.signExtend 64) <<< 3

/-- The packet that a branch or jump names: P + 12 × offset, P the packet of the word. -/
def branchTarget (s : State) {n : Nat} (o : BitVec n) : Va :=
  packetOf (anchorOf s.dev s.cur) (wordAddr s) + 12 * (o.signExtend 48)

/-! ## The back edge and the next clause (R229, R230) -/

/-- Whether an address lies in the body of the loop (R230). -/
def inBody (c : Core) (t : Va) : Bool := c.lstart.toNat ≤ t.toNat && t.toNat < c.lend.toNat

/-- One rotation of the register names (R198). -/
def rotated (r : BitVec 8) : BitVec 8 := BitVec.ofNat 8 ((r.toNat + 95) % 96)

def allOnesP : Vec := BitVec.ofNat 1024 (2 ^ 128 - 1)

/-- The back edge of a clause that ends a body (R229): the core after it, and whether it is taken. It is no word: it
owns no register, and a result in flight still lands. -/
def backEdge (c : Core) : Core × Bool :=
  if c.lc ≠ 0 then
    let c := { c with lc := c.lc - 1, rrb := rotated c.rrb, gpc := c.lgpc }
    (writeReg c .p (physP c.rrb 8) allOnesP, true)
  else if 1 < c.ec.toNat then
    let c := { c with ec := c.ec - 1, rrb := rotated c.rrb, gpc := c.lgpc }
    (writeReg c .p (physP c.rrb 8) 0, true)
  else ({ c with ec := 0, active := false }, false)

/-- Where the clause after one is, from where it starts, where the word after it lies, and its transfer; and the loop
after it (R229, R230): a transfer; a back edge, where the clause ends the body; or the word after, past the end of the
body too. -/
def nextPc (c : Core) (start next : Va) (target : Option Va) : Core :=
  match target with
  | some t => { c with pc := t, bubble := true }
  | none =>
    if c.active ∧ next = c.lend then
      let r := backEdge c
      { r.1 with pc := if r.2 then c.lstart else next }
    else { c with pc := next, active := c.active && !(inBody c start && c.lend.toNat < next.toNat) }

/-- The core that moves as the end of its clause leaves it: the back edge comes after the clause's own effects, those of
a suspension or a TRAP among them (R229). DEDUCED (log 65). -/
def afterClause (s : State) : Core :=
  match s.clause with
  | some q => if q.verdict = .moved then live s else nextPc (live s) (coreAt q.base s.cur).pc q.next q.target
  | none => nextPc (live s) (live s).pc (clauseEnd s) none

end Sys2Proof.Machine
end

