-- ==== Sys2Proof/Machine/Control.lean ====
section
/-! DEFINITION. Branches, jumps, calls and counted loops (spec/11_core_scalar_control.md R221 to R228). -/

namespace Sys2Proof.Machine

/-- A branch, JMP, JR or SWPT: a target outside the body makes the loop inactive (R230). -/
def leaveTo (s : State) (t : Va) : State :=
  transferTo (modLive s fun c => if inBody c t then c else { c with active := false }) t

/-- A conditional branch (R221). -/
def branch (s : State) (a b : RegNum) (t : Bool) (o : BitVec 10) (cond : Dword → Dword → Bool) : Out :=
  withSources s [gSrc s a t, gSrc s b t]
    (.next (if cond (readG (src s) a) (readG (src s) b) then leaveTo s (branchTarget s o) else s))

/-- The link value: the address of the word after the clause (R225). -/
def linkValue (s : State) : Dword := (clauseEnd s).setWidth 64

/-- Whether bits [63:48] of a value are not all zero (R60). -/
def highBits (x : Dword) : Bool := x >>> 48 != 0

/-- The checks of a register target: its high bits, then, given that other hold no fault, its packet (R224). -/
def checkTarget (s : State) (x : Dword) (k : Out) : Out :=
  checked s (highBits x) causeAbsent x
    (checked s (!packetStart (anchorOf s.dev s.cur) (x.setWidth 48)) causeMisaligned x k)

/-! ## Branches (R221) -/

def execBeq (a b : RegNum) (t : Bool) (o : BitVec 10) (s : State) : Out := branch s a b t o fun x y => x == y
def execBne (a b : RegNum) (t : Bool) (o : BitVec 10) (s : State) : Out := branch s a b t o fun x y => x != y
def execBlt (a b : RegNum) (t : Bool) (o : BitVec 10) (s : State) : Out := branch s a b t o fun x y => x.slt y
def execBge (a b : RegNum) (t : Bool) (o : BitVec 10) (s : State) : Out := branch s a b t o fun x y => !x.slt y
def execBltu (a b : RegNum) (t : Bool) (o : BitVec 10) (s : State) : Out := branch s a b t o fun x y => x.ult y
def execBgeu (a b : RegNum) (t : Bool) (o : BitVec 10) (s : State) : Out := branch s a b t o fun x y => !x.ult y

/-! ## Jumps (R222, R223) -/

def execJmp (o : BitVec 25) (s : State) : Out := .next (leaveTo s (branchTarget s o))

def execJal (o : BitVec 25) (s : State) : Out :=
  .next (transferTo (issueG s 62 1 (linkValue s)) (branchTarget s o))

def execJr (a : RegNum) (t : Bool) (s : State) : Out :=
  withSources s [gSrc s a t]
    (checkTarget s (readG (src s) a) (.next (leaveTo s ((readG (src s) a).setWidth 48))))

def execJalr (d a : RegNum) (t : Bool) (s : State) : Out :=
  withSources s [gSrc s a t]
    (checkTarget s (readG (src s) a)
      (.next (transferTo (issueG s d 1 (linkValue s)) ((readG (src s) a).setWidth 48))))

/-- CALL saves the gloss position and, with b ≠ 0, moves it. -/
def execCall (d a b : RegNum) (t u : Bool) (s : State) : Out :=
  let x := readG (src s) a
  let y := readG (src s) b
  withSources s [gSrc s a t, gSrc s b u]
    (checked s (highBits x) causeAbsent x
      (checked s (b != 0 && highBits y) causeAbsent y
        (checkTarget s x
          (.next (transferTo
            (modLive (issueG s d 1 (linkValue s)) fun c =>
              { c with glink := c.gpc, gpc := if b = 0 then c.gpc else y.setWidth 48 })
            (x.setWidth 48))))))

def execRet (a : RegNum) (t : Bool) (s : State) : Out :=
  withSources s [gSrc s a t]
    (checkTarget s (readG (src s) a)
      (.next (transferTo (modLive s fun c => { c with gpc := c.glink }) ((readG (src s) a).setWidth 48))))

def execGset (a : RegNum) (t : Bool) (s : State) : Out :=
  let x := readG (src s) a
  withSources s [gSrc s a t]
    (checked s (highBits x) causeAbsent x (.next (modLive s fun c => { c with gpc := x.setWidth 48 })))

/-! ## Counted loops (R228) -/

/-- p8 := all ones, p9 … p15 := all zeros, for a word's number (R228). -/
def setStages (c : Core) (w : Nat) : Core :=
  (List.range 7).foldl (fun c j => writeNow c .p (physP c.rrb (9 + j)) w 0)
    (writeNow c .p (physP c.rrb 8) w allOnesP)

def execLoop (l a e : RegNum) (t : Bool) (s : State) : Out :=
  let n : Word := (readG (src s) a).setWidth 32
  let next := clauseEnd s
  let stop := next + 12 * (l.setWidth 48)
  withSources s [gSrc s a t]
    (checked s (!packetStart (anchorOf s.dev s.cur) next) causeMisaligned (next.setWidth 64)
      (let s := modLive s fun c => { c with lstart := next, lend := stop, lgpc := c.gpc, ec := e.setWidth 16 }
       if n = 0 then
         .next (transferTo (modLive s fun c => { c with lc := 0, active := false }) stop)
       else
         .next (modLive s fun c => setStages { c with lc := n - 1, active := true } (wordId s))))

end Sys2Proof.Machine
end

