-- ==== Sys2Proof/Machine/Memory.lean ====
section
/-! DEFINITION. Memory as one canonical list of bytes by place: every vault location and every byte of HBM has one
place (spec/03_memory_translation.md R66, R80, R82), and wide accesses are little-endian (spec/00_scope.md R2). -/

namespace Sys2Proof.Machine

/-- What an unlisted place reads as: scrubbed memory reads zero (R82). DESIGN CHOICE (log 5). -/
def unlisted : Byte := 0

abbrev Memory := List Host.Cell

/-- The canonical form: places rise strictly, and no entry holds what an unlisted place reads as. -/
def Memory.wf (m : Memory) : Bool := mcanon unlisted m

/-- The place of a byte of a vault (R66). DESIGN CHOICE (log 60). -/
def vaultLoc (stope off : Nat) : Nat := stope * 2 ^ 24 + off

/-- The place of a byte of HBM (R80). DESIGN CHOICE (log 60). -/
def hbmLoc (pa : Nat) : Nat := 2 ^ 40 + pa

/-- The granule of a place (R87). -/
def granuleOf (loc : Nat) : Nat := loc / 32

def readByte (m : Memory) (loc : Nat) : Byte := mget unlisted m loc

def writeByte (m : Memory) (loc : Nat) (x : Byte) : Memory := mset unlisted m loc x

/-- The n bytes from a place on, as a little-endian number. -/
def readN (m : Memory) (loc : Nat) : Nat → Nat
  | 0 => 0
  | n + 1 => (readByte m loc).toNat + 256 * readN m (loc + 1) n

/-- Write the n low bytes of x from a place on. -/
def writeN (m : Memory) (loc : Nat) : Nat → Nat → Memory
  | 0, _ => m
  | n + 1, x => writeN (writeByte m loc (BitVec.ofNat 8 x)) (loc + 1) n (x / 256)

/-- The cells of the n low bytes of x from a place on. -/
def cellsOf (loc : Nat) : Nat → Nat → List Host.Cell
  | 0, _ => []
  | n + 1, x => (loc, BitVec.ofNat 8 x) :: cellsOf (loc + 1) n (x / 256)

/-- Write cells in order. -/
def writeCells (m : Memory) (cs : List Host.Cell) : Memory := cs.foldl (fun m c => writeByte m c.1 c.2) m

/-- The bytes of a list as a little-endian number. -/
def bytesNat : List Byte → Nat
  | [] => 0
  | b :: r => b.toNat + 256 * bytesNat r

/-- Write bytes from a place on. -/
def writeBytes (m : Memory) (loc : Nat) : List Byte → Memory
  | [] => m
  | b :: r => writeBytes (writeByte m loc b) (loc + 1) r

/-- The n bytes from a place on. -/
def readBytes (m : Memory) (loc : Nat) (n : Nat) : List Byte := (List.range n).map fun i => readByte m (loc + i)

/-- Remove every entry of a range: it reads zero again (R82). -/
def scrub (m : Memory) (loc n : Nat) : Memory := m.filter fun c => !(loc ≤ c.1 && c.1 < loc + n)

/-- The granules of a range of bytes, ascending. -/
def granules (loc n : Nat) : List Nat :=
  if n = 0 then [] else (List.range ((loc + n - 1) / 32 - loc / 32 + 1)).map fun i => loc / 32 + i

end Sys2Proof.Machine
end

