-- ==== Sys2Proof/Machine/Race.lean ====
section
/-! DEFINITION. Race tags and the race check (spec/04_consistency.md R102 to R108; spec/05_ordering_by_goal.md
R111). -/

namespace Sys2Proof.Machine

/-- One access as the check sees it (R106). -/
structure Access where
  step     : BitVec 12
  launch   : BitVec 4
  interval : BitVec 8
  owner    : BitVec 24
  epoch    : BitVec 12
  write    : Bool
  atom     : Bool
  engine   : Bool
  deriving DecidableEq, Repr

/-- covers(log, t). -/
def covers (log : List AcqEntry) (t : Tag) : Bool :=
  log.any fun e => e.owner == t.owner &&
    (if e.engine then t.engine && t.epoch == e.epoch else t.epoch.toNat < e.epoch.toNat)

/-- The tag that an access leaves. -/
def tagOf (a : Access) (state : BitVec 2) (atom : Bool) : Tag :=
  { step := a.step, launch := a.launch, interval := a.interval, owner := a.owner, epoch := a.epoch, state := state,
    atom := atom, engine := a.engine }

/-- The check of one granule (R106): none where the access races, else the tag after it. held tells which launch
numbers a running or pre-empted launch of the context holds. -/
def raceStep (held : BitVec 4 → Bool) (log : List AcqEntry) (t : Tag) (a : Access) : Option Tag :=
  let same := t.launch == a.launch && t.step == a.step && t.interval == a.interval
  let shared := t.state != 0 && same && t.state == 2 && a.write && !(a.atom && t.atom)
  let ordered :=
    if t.state = 0 then true
    else if t.launch ≠ a.launch then !held t.launch
    else if t.step ≠ a.step ∨ t.interval ≠ a.interval then true
    else t.owner == a.owner || covers log t
  if shared then none
  else if !ordered && (a.write || t.state == 3) && !(a.atom && t.atom) then none
  else if a.write then some (tagOf a 3 a.atom)
  else if ordered || t.state == 0 then some (tagOf a 1 a.atom)
  else if t.state ≠ 3 then some (tagOf a 2 (t.atom && a.atom))
  else some t

/-- Check granules in order: the first that races, or the tags after all. -/
def raceAll (held : BitVec 4 → Bool) (log : List AcqEntry) (a : Access) :
    List Nat → SMap Tag → Except Nat (SMap Tag)
  | [], tags => .ok tags
  | g :: r, tags =>
    match raceStep held log (mget tagZero tags g) a with
    | none => .error g
    | some t => raceAll held log a r (mset tagZero tags g t)

/-- Check granules in order up to the first that races: that one, where there is one, and the tags of those before it
(R108). -/
def raceUpTo (held : BitVec 4 → Bool) (log : List AcqEntry) (a : Access) : List Nat → SMap Tag → Option Nat × SMap Tag
  | [], tags => (none, tags)
  | g :: r, tags =>
    match raceStep held log (mget tagZero tags g) a with
    | none => (some g, tags)
    | some t => raceUpTo held log a r (mset tagZero tags g t)

/-- The first address of the racing granule that comes first, for a read or write of bytes at places that begins at an
address (R108). -/
def racedAt (held : BitVec 4 → Bool) (log : List AcqEntry) (a : Access) (tags : SMap Tag) (locs : List Nat)
    (va : Dword) : Dword :=
  let i := locs.findIdx fun l => (raceStep held log (mget tagZero tags (granuleOf l)) a).isNone
  (va + BitVec.ofNat 64 i) &&& ~~~31#64

/-- Set the tags of granules without a check (R101). -/
def tagAll (t : Tag) (gs : List Nat) (tags : SMap Tag) : SMap Tag :=
  gs.foldl (fun m g => mset tagZero m g t) tags

/-- The tags after an access of granules that never races (R101): a granule that R106 would stop keeps its tag. -/
def tagPast (held : BitVec 4 → Bool) (log : List AcqEntry) (a : Access) (gs : List Nat) (tags : SMap Tag) : SMap Tag :=
  gs.foldl (fun m g => match raceStep held log (mget tagZero m g) a with
    | some t => mset tagZero m g t
    | none => m) tags

/-- The launch numbers that running or pre-empted launches of a context hold (R103). -/
def heldNumber (d : Dev) (ctx : Nat) (n : BitVec 4) : Bool :=
  d.launches.any fun e => e.2.ctx == ctx && e.2.number == some n.toNat &&
    (e.2.state == .running || e.2.state == .preempting || e.2.state == .preempted)

/-- An access of a task with an epoch (R106). -/
def accessOf (l : Launch) (task : Nat) (epoch : BitVec 12) (write atom engine : Bool) : Access :=
  { step := BitVec.ofNat 12 l.step, launch := BitVec.ofNat 4 (l.number.getD 0), interval := BitVec.ofNat 8 l.interval,
    owner := BitVec.ofNat 24 task, epoch := epoch, write := write, atom := atom, engine := engine }

/-- The epoch advances by one, and stops at 4,095 (R104). -/
def advanceEpoch (e : BitVec 12) : BitVec 12 := if e = 4095#12 then e else e + 1

/-- Add an entry to an acquire log of 16 entries; the oldest is dropped (R105). -/
def addAcq (log : List AcqEntry) (e : AcqEntry) : List AcqEntry :=
  let l := log ++ [e]
  l.drop (l.length - 16)

end Sys2Proof.Machine
end

