-- ==== Sys2Proof/Machine/Translate.lean ====
section
/-! DEFINITION. Translation by the locked translation table (spec/03_memory_translation.md R60 to R67, R85, R86). -/

namespace Sys2Proof.Machine

/-- Where a translated address leads (R65, R66). -/
inductive Place where
  | vault (stope off : Nat)
  | hbm (pa : Nat)
  | remote (package addr : Nat)
  | reduction (group addr : Nat)
  | host (conn addr : Nat)
  | agent (stack off : Nat)
  | sysreg (off : Nat)
  deriving DecidableEq, Repr

/-- The right an access needs (R67). -/
inductive Right where
  | read | write | atomic
  deriving DecidableEq, Repr

/-- Who makes an access (the columns of R67's table; the fetches of code, gloss and records, which reach vaults and
HBM only; TRIG, which reaches counters there and at peers). -/
inductive User where
  | core | coreAtomic | fetch | copy | fabric | fabricReduce | trig
  deriving DecidableEq, Repr

/-- What translation answers: a place, a trap's cause, or a page whose touch suspends (R67). -/
inductive Xlat where
  | place (p : Place)
  | trap (cause : Nat)
  | page (num : Nat)
  deriving DecidableEq, Repr

def hasRight (perm : BitVec 3) : Right → Bool
  | .read => perm.getLsbD 2
  | .write => perm.getLsbD 1
  | .atomic => perm.getLsbD 0

/-- The table of R67: whether a user may reach a target type. -/
def allowed (u : User) (r : Right) (target : Nat) : Bool :=
  match u with
  | .core => target ≤ 2 || target == 6 || (target == 7 && r == .read)
  | .coreAtomic => target ≤ 2
  | .fetch => target ≤ 2
  | .copy => target ≤ 3 || target == 5
  | .fabric => target == 2 || target == 3 || target == 6
  | .fabricReduce => target == 2 || target == 3 || target == 4 || target == 6
  | .trig => target ≤ 3

/-- The place of a target address, or none where no such place exists for the access (R65, R66, R81). -/
def placeOf (d : Dev) (l : Launch) (stope target : Nat) (info : BitVec 24) (addr : Nat) (phys : Option Nat) :
    Option Place :=
  match target with
  | 0 => if addr < 0xD80000 then some (.vault stope addr) else none
  | 1 =>
    let v := info.toNat % 64
    let t : Option Nat := if info.getLsbD 6 then l.gang[v]? else some v
    match t with
    | some t =>
      let mine := match partAt d l.part.toNat with
        | some p => p.stopes.contains t
        | none => false
      if mine && addr < 0xD80000 then some (.vault t addr) else none
    | none => none
  | 2 =>
    match phys with
    | some g => some (.hbm (g * 2 ^ 21 + addr % 2 ^ 21))
    | none =>
      match partAt d l.part.toNat with
      | some p => (mfind p.stage2 (addr / 2 ^ 21)).map fun g => .hbm (g * 2 ^ 21 + addr % 2 ^ 21)
      | none => none
  | 3 => some (.remote (info.toNat % 2 ^ 19) addr)
  | 4 => some (.reduction (info.toNat % 2 ^ 16) addr)
  | 5 => some (.host (info.toNat % 256) addr)
  | 6 => if addr < 0x10000 then some (.agent (info.toNat % 8) addr) else none
  | _ => if addr < 0x1000 then some (.sysreg addr) else none

/-- The last step of R67's checks, once an entry is found: rights and kind, then the place. An HBM address that stage 2
no longer maps has no entry. -/
def finish (d : Dev) (l : Launch) (stope : Nat) (u : User) (r : Right) (target : Nat) (perm : BitVec 3)
    (info : BitVec 24) (addr : Nat) (phys : Option Nat) : Xlat :=
  if !hasRight perm r || !allowed u r target then .trap causeAccess
  else match placeOf d l stope target info addr phys with
    | some p => .place p
    | none => .trap (if target = 2 then causeAbsent else causeAccess)

/-- The target address of a page's base: the Output of an entry of State 2 or 3 is not checked, and only names a 2 MiB
unit (R64). -/
def pageOutput (e : LttPage) : Nat := e.output.toNat / 2 ^ 21 * 2 ^ 21

/-- Translate an address of a launch's context for an access from a stope (R60, R67 steps 1 to 5). A regeneration
launch sees its own page as valid, and its touch of another regenerate page is TRANSLATION_ABSENT (R55, R84). -/
def xlate (d : Dev) (l : Launch) (stope : Nat) (u : User) (r : Right) (va : Dword) : Xlat :=
  if va >>> 48 ≠ 0 then .trap causeAbsent
  else match ctxAt d l.ctx with
    | none => .trap causeAbsent
    | some c =>
      match mfind c.regions (va.toNat / 2 ^ 30) with
      | none => .trap causeAbsent
      | some g =>
        if g.denied then .trap causeStage2
        else if !g.paged then
          if !g.valid then .trap causeAbsent
          else finish d l stope u r g.target.toNat g.perm g.info (g.output.toNat + va.toNat % 2 ^ 30) none
        else match mfind c.pages (va.toNat / 2 ^ 21) with
          | none => .trap causeAbsent
          | some e =>
            if e.denied then .trap causeStage2
            else if e.state = 0 then .trap causeAbsent
            else
              let own := l.parent.isSome && l.page == va.toNat / 2 ^ 21
              if e.state = 1 || own then
                finish d l stope u r e.target.toNat e.perm e.info (pageOutput e + va.toNat % 2 ^ 21) e.phys
              else if !hasRight e.perm r || !allowed u r e.target.toNat then .trap causeAccess
              else if e.state = 2 && l.parent.isSome then .trap causeAbsent
              else .page (va.toNat / 2 ^ 21)

/-- The target type of the entry that an address leads to, whatever its rights and whether its page is there: none where
steps 1 to 3 of R67 fail. -/
def targetOf (d : Dev) (l : Launch) (va : Dword) : Option Nat :=
  if va >>> 48 ≠ 0 then none
  else match (ctxAt d l.ctx).bind fun c => (mfind c.regions (va.toNat / 2 ^ 30)).map (c, ·) with
    | none => none
    | some (c, g) =>
      if g.denied then none
      else if !g.paged then (if g.valid then some g.target.toNat else none)
      else match mfind c.pages (va.toNat / 2 ^ 21) with
        | none => none
        | some e => if e.denied || e.state == 0 then none else some e.target.toNat

/-- Whether a place in memory is a partition's: in a vault of its stopes, or in one of its channels (R18). -/
def placeIn (d : Dev) (part loc : Nat) : Bool :=
  (partAt d part).any fun p =>
    if loc < 2 ^ 40 then p.stopes.contains (loc / 2 ^ 24) else p.channels.contains ((loc - 2 ^ 40) / 2 ^ 31)

/-- Whether an address leads, with the right that an access needs, to the vault of a stope outside the partition (R18,
R65). -/
def outsidePart (d : Dev) (l : Launch) (r : Right) (va : Dword) : Bool :=
  match (ctxAt d l.ctx).bind fun c => mfind c.pages (va.toNat / 2 ^ 21) with
  | some e =>
    e.target == 1 && hasRight e.perm r && !e.info.getLsbD 6 &&
      !((partAt d l.part.toNat).any fun p => p.stopes.contains (e.info.toNat % 64))
  | none => false

/-- Whether an address lies in a regenerate page that a regeneration launch may not touch (R55). -/
def foreignRegen (d : Dev) (l : Launch) (va : Dword) : Bool :=
  l.parent.isSome && l.page != va.toNat / 2 ^ 21 &&
      (match (ctxAt d l.ctx).bind fun c => mfind c.pages (va.toNat / 2 ^ 21) with
    | some e => e.state == 2
    | none => false)

/-- The place in memory of a vault or HBM place. DESIGN CHOICE (log 60). -/
def locOf : Place → Option Nat
  | .vault s o => some (vaultLoc s o)
  | .hbm pa => some (hbmLoc pa)
  | .remote _ _ | .reduction _ _ | .host _ _ | .agent _ _ | .sysreg _ => none

/-! ## Dies touched (R85, R86): CD0, VD0, AD0, ND0, CD1, VD1, AD1, ND1 from bit 0 -/

def dieBit (n : Nat) : Byte := BitVec.ofNat 8 (2 ^ n)

/-- The network die of an HBM stack. -/
def stackDie (stack : Nat) : Nat := if stack < 4 then 3 else 7

/-- The bits that an access from a stope to a place sets. -/
def diesOf (stope : Nat) : Place → Byte
  | .vault t _ => if halfOf t = halfOf stope then 0 else dieBit (4 * halfOf t + 1)
  | .hbm pa => dieBit (stackDie (pa / 2 ^ 36))
  | .agent stack _ => dieBit (stackDie stack)
  | .remote _ _ | .reduction _ _ | .host _ _ => dieBit 3 ||| dieBit 7
  | .sysreg _ => 0

/-- The bits that accesses from a stope to places of memory set. -/
def diesAt (stope : Nat) (locs : List Nat) : Byte :=
  locs.foldl (fun acc l => acc ||| diesOf stope (if l < 2 ^ 40 then .vault (l / 2 ^ 24) (l % 2 ^ 24) else .hbm (l - 2 ^ 40))) 0

/-- The bits of a task that runs on a stope. -/
def homeDies (stope : Nat) : Byte := dieBit (4 * halfOf stope) ||| dieBit (4 * halfOf stope + 1)

/-- The lowest die of a set of bits. -/
def firstDie (x : Byte) : Nat := lowBit x.toNat

/-- Set bits of a context's sr.dmask. -/
def touchDies (d : Dev) (ctx : Nat) (bits : Byte) : Dev :=
  { d with ctxs := mmod d.ctxs ctx fun c => { c with dmask := c.dmask ||| bits } }

/-- Touch dies for a context: the device after it, and the lowest of them that is lost (R86). -/
def touchLost (d : Dev) (ctx : Nat) (bits : Byte) : Dev × Option Nat :=
  (touchDies d ctx bits, if bits &&& d.lost = 0 then none else some (firstDie (bits &&& d.lost)))

end Sys2Proof.Machine
end

