-- ==== Sys2Proof/Machine/Board.lean ====
section
/-! DEFINITION. What the scoreboards hold back (spec/16_array_machine.md R296, R297): words, and the writes of those that
are no core and no engine of the stope. -/

namespace Sys2Proof.Machine

/-- Whether a word's access to a range of a stope's vault waits: an entry of an earlier word overlaps it, and one of
them writes. -/
def boardBlocks (d : Dev) (stope word lo hi : Nat) (write : Bool) : Bool :=
  (stopeAt d stope).board.any fun e => e.seq < word && e.lo ≤ hi && lo ≤ e.hi && (e.write || write)

/-- Whether an access to one byte of memory waits at a scoreboard. -/
def byteBlocks (d : Dev) (word : Nat) (write : Bool) (loc : Nat) : Bool :=
  loc < 2 ^ 40 && boardBlocks d (loc / 2 ^ 24) word (loc % 2 ^ 24 / 32 * 32) (loc % 2 ^ 24 / 32 * 32 + 31) write

/-- Whether an access that is no word's to a byte of memory waits: for every entry there is. DEDUCED (log 79). -/
def placeHeld (d : Dev) (write : Bool) (loc : Nat) : Bool := byteBlocks d (7 * d.issues + 8) write loc

/-- The granules of a late access. -/
def lateGranules (o : LateOp) : List Nat :=
  o.cells.map (fun c => granuleOf c.1) ++ (o.counter.toList.map fun c => granuleOf c.1)

/-- Whether a late access that waits touches one of these granules. -/
def lateOver (d : Dev) (gs : List Nat) : Bool := d.late.any fun o => (lateGranules o).any gs.contains

/-- Whether a scoreboard holds an entry. -/
def boarded (d : Dev) : Bool := d.stopes.any fun e => !e.2.board.isEmpty

/-- Whether a write of these granules waits, for a scoreboard or for a late access before it. DEDUCED (log 79). -/
def lateHeld (d : Dev) (gs : List Nat) : Bool := lateOver d gs || (boarded d && gs.any fun g => placeHeld d true (32 * g))

/-- Whether a read of these places waits. DEDUCED (log 79). -/
def readHeld (d : Dev) (locs : List Nat) : Bool :=
  lateOver d (locs.map granuleOf) || (boarded d && locs.any fun l => placeHeld d false l)

/-- Whether a read of n bytes from a place on, in one vault or in HBM, waits. DEDUCED (log 79). -/
def rangeHeld (d : Dev) (loc n : Nat) : Bool :=
  (loc < 2 ^ 40 && boardBlocks d (loc / 2 ^ 24) (7 * d.issues + 8) (loc % 2 ^ 24) (loc % 2 ^ 24 + n - 1) false) ||
    d.late.any fun o => (lateGranules o).any fun g => loc / 32 ≤ g && g ≤ (loc + n - 1) / 32

/-- Write the cells of a late access. -/
def writeLate (d : Dev) (o : LateOp) : Dev :=
  { d with mem := writeCells d.mem o.cells, tags := if o.tag = .zero then tagAll tagZero (lateGranules o) d.tags else d.tags }

/-- Write cells for a context, once no scoreboard holds them. DEDUCED (log 79). -/
def lateWrite (d : Dev) (ctx : Nat) (cs : List Host.Cell) : Dev :=
  let o : LateOp := ⟨cs, none, .keep, none, ctx, d.issues⟩
  if lateHeld d (lateGranules o) then { d with late := d.late ++ [o] } else writeLate d o

end Sys2Proof.Machine
end

