-- ==== Sys2Proof/Machine/Counters.lean ====
section
/-! DEFINITION. Counters, their arming entries and contributor logs, and what wakes when a counter changes
(spec/14_core_sync_system.md R281 to R283; spec/04_consistency.md R98, R105; spec/05_ordering_by_goal.md R112;
spec/22_fabric_links.md R360). -/

namespace Sys2Proof.Machine

def newName (d : Dev) : Nat × Dev := (d.names, { d with names := d.names + 1 })

/-! ## Values and arming -/

def counterValue (d : Dev) (loc : Nat) : Dword := BitVec.ofNat 64 (readN d.mem loc 8)

def armOf (d : Dev) (loc : Nat) : Option Arming := mfind d.arms loc

def overrunAt (d : Dev) (loc : Nat) : Bool :=
  match armOf d loc with
  | some a => a.overrun
  | none => false

/-- The point of coherence that keeps a counter's arming entry: a vault, or the agent of a stack (R281). -/
def armPool (loc : Nat) : Nat := if loc < 2 ^ 40 then loc / 2 ^ 24 else 1000 + (loc - 2 ^ 40) / 2 ^ 36

def poolSize (pool : Nat) : Nat := if pool < 1000 then 1024 else 4096

/-- Whether a counter of a partition can be armed beside n others still to come: it is armed already, or an entry is
free (R281, R282). DEDUCED (log 14). -/
def armRoom (d : Dev) (part : BitVec 4) (loc n : Nat) : Bool :=
  (armOf d loc).isSome ||
    (d.arms.filter fun e => e.2.part == part && armPool e.1 == armPool loc).length + n < poolSize (armPool loc)

/-- Whether a scope includes a stope, for an increment made from another (R94, R112). -/
def scopeSees (sc : Scope) (fromStope stope : Nat) : Bool :=
  match sc with
  | .stope => fromStope == stope
  | .die => halfOf fromStope == halfOf stope
  | .package | .system => true

/-- The records of a counter's log, as entries for a waiter on a stope, counted at or below v (R105, R112). -/
def acquired (d : Dev) (loc stope : Nat) (v : Dword) : List AcqEntry :=
  match armOf d loc with
  | some a => (a.log.filter fun r => r.value ≤ v && scopeSees r.scope r.stope stope).map fun r =>
      ⟨r.owner, r.epoch, r.engine⟩
  | none => []

/-! ## Waking (R49, R283, R360) -/

/-- Whether a task's wait on a counter is over. -/
def waitMet (d : Dev) (w : WaitFor) : Bool :=
  match w with
  | .counter loc v => v ≤ counterValue d loc || overrunAt d loc
  | .nothing => false
  | .slot _ _ => false
  | .group _ _ => false
  | .page _ => false

/-- The stope from which the dispatcher reaches memory for a launch: its gang's first, or its partition's.
DESIGN CHOICE (log 64). -/
def firstStope (d : Dev) (x : Launch) : Nat :=
  match x.gang with
  | s :: _ => s
  | [] => match partAt d x.part.toNat with
    | some p => p.stopes.getD 0 0
    | none => 0

/-- The place of a task's continuation record, as the dispatcher reaches it (R47). -/
def recordAt (d : Dev) (x : Launch) (i : Nat) (r : Right) : Except Nat Nat :=
  let va : Dword := (x.record.cont.setWidth 64) + BitVec.ofNat 64 (64 * i)
  match xlate d x (firstStope d x) .fetch r va with
  | .place p => match locOf p with
    | some l => .ok l
    | none => .error causeAccess
  | .trap c => .error c
  | .page _ => .error causeAbsent

def stateCode : TaskState → Nat
  | .ready => 0 | .running => 1 | .waiting => 2 | .regen => 3 | .stepEnd => 4 | .exited => 5 | .faulted => 6
  | .snapshot => 7

/-- Write a task's State, and the field in its continuation record (R47). -/
def setState (d : Dev) (l i : Nat) (st : TaskState) : Dev :=
  match launchAt d l with
  | some x =>
    let d := modTask d l i fun t => { t with state := st }
    match recordAt d x i .write with
    | .ok loc => lateWrite d x.ctx [(loc + 32, BitVec.ofNat 8 (stateCode st))]
    | .error _ => d
  | none => d

/-- Whether a core still runs a task: one whose last check window is open among them. -/
def onCore (d : Dev) (l i : Nat) : Bool := d.cores.any fun e => e.2.run == some ⟨l, i⟩

/-- A task is ready, and its record names no wait (R47, R49). -/
def setReady (d : Dev) (l i : Nat) : Dev :=
  let d := setState d l i .ready
  match launchAt d l with
  | some x => match recordAt d x i .write with
    | .ok loc => lateWrite d x.ctx ((List.range 16).map fun i => (loc + 40 + i, 0))
    | .error _ => d
  | none => d

/-- A task's wait is over: it becomes ready, at once or when its last check window has closed (R49). -/
def readyTask (d : Dev) (l i : Nat) : Dev :=
  let d := modTask d l i fun t => { t with wait := .nothing, waitAddr := 0, waitVal := 0 }
  if onCore d l i then d else setReady d l i

/-- The tasks whose wait on a counter is over, as pairs of launch and task. -/
def metWaits (d : Dev) : List (Nat × Nat) :=
  d.launches.flatMap fun e =>
    (e.2.tasks.filter fun t => t.2.state == .waiting && waitMet d t.2.wait).map fun t => (e.1, t.1)

/-- Make every task ready whose counter has reached its value or entered overrun. -/
def wakeCounters (d : Dev) : Dev := (metWaits d).foldl (fun d p => readyTask d p.1 p.2) d

/-- Whether a posted operation's counters have reached its threshold and gate, and neither is in overrun (R360,
R378); a counter that a resize has taken from the partition is not its any more (R18). -/
def postMet (d : Dev) (p : Posted) : Bool :=
  let thr := p.desc.getD 1 0
  let gate := (p.desc.getD 2 0) >>> 48
  thr ≤ counterValue d p.trigger && !overrunAt d p.trigger && placeIn d p.part p.trigger &&
    (match p.gate with
     | some g => gate ≤ counterValue d g && !overrunAt d g && placeIn d p.part g
     | none => true)

/-- Fire every posted operation that is met: it takes the value of its trigger counter. -/
def firePosted (d : Dev) : Dev :=
  { d with posted := d.posted.map fun e =>
      (e.1, if e.2.due.isNone && postMet d e.2 then { e.2 with due := some (counterValue d e.2.trigger) } else e.2) }

/-- What follows a change of memory or of an arming entry: waits and thresholds are evaluated again (R281). -/
def settle (d : Dev) : Dev := firePosted (wakeCounters d)

/-! ## Increments (R281) -/

/-- Append a record to a log of 16. -/
def addContrib (log : List Contrib) (m : Option Mark) (v : Dword) : List Contrib :=
  match m with
  | some m =>
    let l := log ++ [⟨m.owner, m.epoch, m.engine, m.scope, m.stope, v⟩]
    l.drop (l.length - 16)
  | none => log

/-- Raise a counter to v, as an increment: refused in overrun, or above a nonzero limit, which enters overrun. -/
def raiseTo (d : Dev) (loc : Nat) (v : Dword) (exact : Nat) (m : Option Mark) : Dev :=
  match armOf d loc with
  | some a =>
    if a.overrun then settle d
    else if a.limit ≠ 0 ∧ a.limit.toNat < exact then
      settle { d with arms := minsert d.arms loc { a with overrun := true } }
    else
      settle { d with mem := writeN d.mem loc 8 v.toNat,
                      arms := minsert d.arms loc { a with log := addContrib a.log m v } }
  | none => settle { d with mem := writeN d.mem loc 8 v.toNat }

/-- An add of n to a counter. -/
def increment (d : Dev) (loc : Nat) (n : Dword) (m : Option Mark) : Dev :=
  raiseTo d loc (counterValue d loc + n) ((counterValue d loc).toNat + n.toNat) m

/-- FLAGSET's max (R374). -/
def raiseMax (d : Dev) (loc : Nat) (n : Dword) (m : Option Mark) : Dev :=
  let v := if counterValue d loc < n then n else counterValue d loc
  raiseTo d loc v v.toNat m

/-- The record of an engine completion: none at issue epoch 4,095 (R105). -/
def engineMark (i : Issue) (scope : Scope) (stope : Nat) : Option Mark :=
  if i.epoch = 4095 then none else some ⟨BitVec.ofNat 24 i.task, i.epoch, true, scope, stope⟩

/-- ARMCNT: arm a counter at 0 with a limit, or disarm it (R282). -/
def armCounter (d : Dev) (part : BitVec 4) (ctx loc : Nat) (limit : Dword) : Dev :=
  if limit = BitVec.allOnes 64 then settle { d with arms := merase d.arms loc }
  else settle { d with mem := writeN d.mem loc 8 0,
                       arms := minsert d.arms loc ⟨part, ctx, limit, false, []⟩ }

end Sys2Proof.Machine
end

