-- ==== Sys2Proof/Machine/Suspend.lean ====
section
/-! DEFINITION. Continuation records, suspension points and touched pages (spec/02_execution.md R47 to R49;
spec/10_core_state.md R199; spec/03_memory_translation.md R84). -/

namespace Sys2Proof.Machine

/-! ## Places of ranges -/

/-- Translate each byte of a range to its place in memory, with its granule's base address: the first failure is a
cause and the failing address; a page counts as absent. -/
def placeBytes (d : Dev) (x : Launch) (stope : Nat) (u : User) (r : Right) (va : Dword) :
    Nat → Except (Nat × Dword) (List Nat)
  | 0 => .ok []
  | n + 1 =>
    match xlate d x stope u r va with
    | .trap c => .error (c, va)
    | .page _ => .error (causeAbsent, va)
    | .place p =>
      match locOf p with
      | none => .error (causeAccess, va)
      | some l =>
        match placeBytes d x stope u r (va + 1) n with
        | .ok ls => .ok (l :: ls)
        | .error e => .error e

/-- The granules of places, each once, in ascending order. -/
def granulesOf (locs : List Nat) : List Nat :=
  ((locs.foldl (fun (m : SMap Unit) l => minsert m (granuleOf l) ()) []).map (·.1))

/-! ## Gang-local cores (R47, R50) -/

/-- The place of a stope in a gang. -/
def gangIndex (x : Launch) (stope : Nat) : Nat := x.gang.findIdx (· == stope)

/-- The gang-local number of a core. -/
def gangCore (x : Launch) (k : Nat) : Nat := 4 * gangIndex x (stopeOf k) + k % 4

/-- The core of a gang-local number. -/
def coreOfGang (x : Launch) (c : Nat) : Nat := 4 * x.gang.getD (c / 4) 0 + c % 4

/-! ## The records (R47, R199) -/

/-- The 64 bytes of a continuation record. -/
def contBytes (pc gpc : Va) (lc : Word) (ec : BitVec 16) (rrb : BitVec 8) (frame : Dword) (state cause place core : Nat)
    (wa wv snap : Dword) : List Byte :=
  natBytes 8 pc.toNat ++ natBytes 8 gpc.toNat ++ natBytes 4 lc.toNat ++ natBytes 2 ec.toNat ++
  natBytes 1 rrb.toNat ++ natBytes 1 0 ++ natBytes 8 frame.toNat ++ natBytes 1 state ++ natBytes 1 cause ++
  natBytes 2 place ++ natBytes 2 core ++ natBytes 2 0 ++ natBytes 8 wa.toNat ++ natBytes 8 wv.toNat ++
  natBytes 8 snap.toNat

/-- The 32 bytes of a loop save area. -/
def saveBytes (c : Core) : List Byte :=
  natBytes 32 (c.active.toNat + c.lgpc.toNat * 2 ^ 112 + c.lstart.toNat * 2 ^ 160 + c.lend.toNat * 2 ^ 208)

/-- Cells of bytes at places. -/
def cellsAt (locs : List Nat) (bs : List Byte) : List Host.Cell := locs.zip bs

/-! ## Leases end at a suspension point (R48, R291) -/

/-- The lease of core k ends; its request, where one waits, is withdrawn. -/
def dropLease (d : Dev) (k : Nat) : Dev :=
  let d := modCore d k fun c =>
    { c with lease := false, leaseRem := 0, leaseReq := false, leaseNext := 64, leaseOk := false, leaseBack := false }
  modStope d (stopeOf k) fun x =>
    { x with holder := if x.holder = some (k % 4) then none else x.holder,
             leaseQ := x.leaseQ.filter fun q => q != k % 4 }

/-- A task that reaches a suspension point gives up its banks, once its commands up to a word are done (R289). -/
def giveBanks (d : Dev) (stope l i w : Nat) : Dev :=
  if (stopeAt d stope).banks.any fun b => b.2.owner == some (l, i) then
    modStope d stope fun x => { x with banks := x.banks.map fun b =>
      (b.1, if b.2.owner = some (l, i) then { b.2 with released := some w } else b.2) }
  else d

/-- A core whose task has left: a Foreman launch that was to take it has it from now on (R56). -/
def freed (now : Nat) (c : Core) : Core :=
  { coreReset with
    lastTime := c.lastTime, fabricQ := c.fabricQ,
    takenUntil := if c.takeFor = 0 then c.takenUntil else max c.takenUntil (now + c.takeFor) }

/-! ## Suspension (R49, R277) -/

/-- Touch the dies that hold the record and the save area of core k's task: the device, and a die among them that is
lost (R86). -/
def suspendTouch (d : Dev) (k : Nat) : Dev × Option Nat :=
  match (coreAt d k).run, launchOf d k with
  | some r, some x =>
    let places := fun (u : User) (va : Dword) (n : Nat) => match placeBytes d x (stopeOf k) u .write va n with
      | .ok ls => ls
      | .error _ => []
    touchLost d x.ctx (diesAt (stopeOf k)
      (places .fetch (x.record.cont.setWidth 64 + BitVec.ofNat 64 (64 * r.task)) 64 ++
        if x.record.frameSize < 64 then [] else places .core (physReadG (coreAt d k) 60) 32))
  | _, _ => (d, none)

/-- A suspension that traps: the bits that it has set stay set. -/
def suspendTrap (s : State) (e : Nat × Dword) : Out := trap (onBase s fun d => (suspendTouch d s.cur).1) e.1 e.2

/-- Whether a source is a load's (R90). -/
def isLoad : LoadSrc → Bool
  | .none | .result _ => false
  | .bytes _ _ | .lanes _ | .window _ | .agent _ _ => true

/-- A core whose task suspends: its results are discarded, and of the loads only those still to come are awaited, whose
data is then discarded too (R90, R235, R277). DEDUCED (log 8). -/
def discarded (c : Core) : Core :=
  { c with owner := [], written := [], flights := c.flights.filter fun f => isLoad f.src && !f.arrived }

/-- End a task's run on core k: what it leaves is written once the check window has closed. An error is a trap at the
suspending clause. A save area or a record that cannot be written stops the launch (R37, R199). -/
def suspendTask (d : Dev) (k : Nat) (st : TaskState) (cause : Nat) (pc : Va) (wf : WaitFor) (wa wv : Dword) :
    Except (Nat × Dword) Dev :=
  let c := coreAt d k
  match c.run with
  | none => .ok d
  | some r =>
    match launchAt d r.launch with
    | none => .ok d
    | some x =>
      let t := mfind x.tasks r.task
      let place := match t with
        | some t => t.place.toNat
        | none => 0
      let frame := physReadG c 60
      let recVa : Dword := x.record.cont.setWidth 64 + BitVec.ofNat 64 (64 * r.task)
      let halt := fun (task : Option Nat) (e : Nat × Dword) =>
        stopLaunch d r.launch ⟨task, e.1, 0, some c, none, 8⟩
      let save : Except (Nat × Dword) (List Nat) :=
        if x.record.frameSize < 64 then .ok [] else placeBytes d x (stopeOf k) .core .write frame 32
      match placeBytes d x (stopeOf k) .fetch .write recVa 64 with
      | .error e => .ok (halt none e)
      | .ok recLocs =>
        match save with
        | .error e => .ok (halt (some r.task) e)
        | .ok saveLocs =>
          let a := accessOf x r.task c.epoch true false false
          let log := c.acq
          match raceAll (heldNumber d x.ctx) log a (granulesOf saveLocs) d.tags with
          | .error _ => .error (causeRace, racedAt (heldNumber d x.ctx) log a d.tags saveLocs frame)
          | .ok tags =>
            let look := suspendTouch d k
            if let some die := look.2 then .error (causeDieLost, BitVec.ofNat 64 die) else
            let d := look.1
            let tags := tagAll (tagOf a 3 false) (granulesOf recLocs) tags
            let bytes := contBytes pc c.gpc c.lc c.ec c.rrb frame (stateCode st) cause place (gangCore x k) wa wv 0
            let item : WindowItem :=
              ⟨7 * d.issues + 7, d.issues, .continuation r.launch r.task st
                (cellsAt recLocs bytes ++ cellsAt saveLocs (saveBytes c))⟩
            let d := modTask { d with tags := tags } r.launch r.task fun t =>
              { t with cause := BitVec.ofNat 8 cause, wait := wf, waitAddr := wa, waitVal := wv,
                       core := BitVec.ofNat 16 (gangCore x k), risk := if c.risk.isSome then c.risk else t.risk }
            let d := modCore d k fun c =>
              { discarded c with acks := [], opGate := [], leaving := true, stall := none,
                                 window := c.window ++ [item] }
            .ok (giveBanks (dropLease d k) (stopeOf k) r.launch r.task (7 * d.issues + 7))

/-- A word of the clause suspends the task: the other words' effects stand, and the clause that follows is next.
DEDUCED (log 65). -/
def suspendAfter (s : State) (st : TaskState) (cause : Nat) (wf : WaitFor) (wa wv : Dword) : Out :=
  match suspendTask (putCore s.dev s.cur (afterClause s)) s.cur st cause (afterClause s).pc wf wa wv with
  | .ok d => .next { s with dev := d }
  | .error e => suspendTrap s e

/-! ## Pages that are not there (R54, R84) -/

/-- A page of a context, as installed. -/
def pageOf (d : Dev) (ctx n : Nat) : Option LttPage :=
  match ctxAt d ctx with
  | some c => mfind c.pages n
  | none => none

def modPage (d : Dev) (ctx n : Nat) (f : LttPage → LttPage) : Dev :=
  { d with ctxs := mmod d.ctxs ctx fun c => { c with pages := mmod c.pages n f } }

/-- A page takes a scrubbed granule from the fill reserve, where it has none and the reserve holds one (R84). -/
def takeReserve (d : Dev) (part ctx n : Nat) : Dev :=
  match pageOf d ctx n, partAt d part with
  | some e, some p =>
    match e.phys, p.reserve with
    | none, g :: r =>
      let d := modPage d ctx n fun e => { e with phys := some g }
      { d with mem := scrub d.mem (hbmLoc (g * 2 ^ 21)) (2 ^ 21),
               tags := d.tags.filter fun t => !(hbmLoc (g * 2 ^ 21) / 32 ≤ t.1 && t.1 < hbmLoc ((g + 1) * 2 ^ 21) / 32),
               parts := mmod d.parts part fun p => { p with reserve := r } }
    | _, _ => d
  | _, _ => d

/-- A touch of a regenerate or refetch page: it takes a page, and a regenerate page waits for its launch in fault
order (R54). -/
def pageTouched (d : Dev) (l n : Nat) (va : Va) : Dev :=
  match launchAt d l with
  | none => d
  | some x =>
    let d := takeReserve d x.part.toNat x.ctx n
    match pageOf d x.ctx n with
    | some e =>
      let under := d.launches.any fun y => y.2.parent.isSome && y.2.ctx == x.ctx && y.2.page == n && y.2.state != .complete
      let listed := d.launches.any fun y => y.2.ctx == x.ctx && y.2.pageQ.any fun q => q.1 == n
      if e.state = 2 ∧ !under ∧ !listed then modLaunch d l fun x => { x with pageQ := x.pageQ ++ [(n, va)] } else d
    | none => d

/-- A word touches a page that is not there: no word of the clause takes effect, and the task waits at the clause in
State 3 (R49, R84). -/
def touchPage (s : State) (n : Nat) (va : Dword) : Out :=
  let d := srcDev s
  let c := coreAt d s.cur
  match c.run with
  | none => .next s
  | some r =>
    match suspendTask d s.cur .regen 4 c.pc (.page va) 0 0 with
    | .ok d => .next (setVerdict { s with dev := pageTouched d r.launch n (va.setWidth 48) } .trapped)
    | .error e => suspendTrap s e

end Sys2Proof.Machine
end

