-- ==== Sys2Proof/Machine/Queue.lean ====
section
/-! DEFINITION. Launch records and launch queues (spec/02_execution.md R35 to R41). -/

namespace Sys2Proof.Machine

/-- Statuses of a reply (R25) and of a completion record (R40). -/
def statusOk : Nat := 0
def statusRetry : Nat := 1
def statusDenied : Nat := 2
def statusUnavailable : Nat := 3
def statusMalformed : Nat := 4
def statusStopeFailed : Nat := 5
def statusNoResource : Nat := 6
def statusCancelled : Nat := 7
def statusFaulted : Nat := 8

/-! ## The record (R36) -/

/-- A little-endian field of n bytes at an offset of a list of bytes. -/
def fieldAt (bs : List Byte) (off n : Nat) : Nat := bytesNat ((bs.drop off).take n)

/-- Bits hi … lo of a record, counted from its first byte. -/
def bitsOf (bs : List Byte) (hi lo : Nat) : Nat :=
  fieldAt bs (lo / 8) ((hi / 8) + 1 - lo / 8) >>> (lo % 8) % 2 ^ (hi + 1 - lo)

def parseRecord (bs : List Byte) : LaunchRec :=
  let va := fun lo => (BitVec.ofNat 48 (bitsOf bs (lo + 47) lo) : Va)
  { kernel := va 0, gloss := va 64, tasks := bitsOf bs 159 128, gangLog := bitsOf bs 162 160,
    priority := bitsOf bs 171 168, regen := bitsOf bs 176 176 == 1, riskInt := bitsOf bs 177 177 == 1,
    steps := bitsOf bs 207 192, switches := bitsOf bs 223 208, ranges := bitsOf bs 255 224,
    seed := BitVec.ofNat 64 (bitsOf bs 319 256),
    params := (List.range 7).map fun k => BitVec.ofNat 64 (bitsOf bs (64 * k + 383) (64 * k + 320)),
    deadlines := va 768, switchTab := va 832, schedule := va 896, rangeList := va 960, cont := va 1024,
    frameBase := va 1088, frameSize := bitsOf bs 1183 1152, complRec := va 1216, complCtr := va 1280 }

/-- The address fields, by their first bits. -/
def addressFields : List Nat := [0, 64, 768, 832, 896, 960, 1024, 1088, 1216, 1280]

/-- Whether a record breaks a rule of R37 that needs no memory. -/
def recordBad (bs : List Byte) (foreman regen : Bool) : Bool :=
  let r := parseRecord bs
  let reserved := bitsOf bs 2047 1344 != 0 || bitsOf bs 1215 1184 != 0 || bitsOf bs 183 178 != 0 ||
    bitsOf bs 175 172 != 0 || bitsOf bs 167 163 != 0
  let high := addressFields.any fun lo => bitsOf bs (lo + 63) (lo + 48) != 0
  let range := r.tasks = 0 || 16777215 < r.tasks || r.steps = 0 || 4096 < r.switches || 4096 < r.ranges
  let align := r.kernel.toNat % 4 != 0 || r.gloss.toNat % 4 != 0 || r.cont.toNat % 64 != 0 || r.cont == 0 ||
    r.frameBase.toNat % 64 != 0 || r.frameSize % 64 != 0 || r.rangeList.toNat % 16 != 0 ||
    (r.rangeList == 0 && r.ranges != 0) || (r.switchTab == 0 && r.switches != 0) ||
    r.complRec.toNat % 32 != 0 || r.complCtr.toNat % 8 != 0
  bs.length != 256 || reserved || bitsOf bs 191 184 != 1 || r.gangLog == 7 || range || align || high ||
    (r.priority == 15 && !foreman) || (r.regen && !regen)

/-- A range-list entry (R38), or none where it is malformed. -/
def parseRange (bs : List Byte) : Option RangeEntry :=
  let e : RangeEntry := ⟨bitsOf bs 127 112, bitsOf bs 111 96, bitsOf bs 95 64, bitsOf bs 49 48,
    BitVec.ofNat 48 (bitsOf bs 47 0)⟩
  if bitsOf bs 63 50 ≠ 0 ∨ e.last < e.first ∨ e.len = 0 ∨ e.mode = 3 ∨ e.base.toNat % 4096 ≠ 0 then none else some e

/-! ## The queues (R35, R37) -/

def gangSize (r : LaunchRec) : Nat := 2 ^ r.gangLog

/-- A launch as it stands in its queue. -/
def launchOfRecord (part : BitVec 4) (ctx seq sender : Nat) (r : LaunchRec) (now : Nat) : Launch :=
  { part := part, ctx := ctx, level := r.priority, seq := seq, record := r, enqueued := now, ranges := [], dl0 := 0,
    state := .queued, number := none, failures := 0, passUntil := 0, returned := 0, admitted := 0, gang := [],
    step := 0, phase := .open, cancel := false, interval := 0, deadline := none, work := 0, spent := 0,
    declared := false, declBy := none, risked := false, stop := none, outcome := none, tasks := [], barriers := [],
    gBarriers := [], entries := [], parent := none, page := 0, regens := 0, pageQ := [], replayAt := 0,
    saved := [], imaged := [], sender := sender, waiters := [] }

/-- The places of bytes of a context that a queue reads, but for those on a lost die (R86). -/
def queuePlaces (d : Dev) (x : Launch) (va : Dword) (n : Nat) : Option (List Nat) :=
  match placeBytes d x (firstStope d x) .fetch .read va n with
  | .ok locs => if diesAt (firstStope d x) locs &&& d.lost = 0 then some locs else none
  | .error _ => none

/-- Read bytes of a context for a queue. DESIGN CHOICE (log 64). -/
def queueRead (d : Dev) (x : Launch) (va : Dword) (n : Nat) : Option (List Byte) :=
  (queuePlaces d x va n).map fun locs => locs.map (readByte d.mem)

/-- The places of the range list and of the first deadline of a launch. -/
def queueLocs (d : Dev) (x : Launch) : List Nat :=
  let r := x.record
  ((queuePlaces d x (r.rangeList.setWidth 64) (16 * r.ranges)).getD []) ++
    if r.deadlines = 0 then [] else (queuePlaces d x (r.deadlines.setWidth 64) 8).getD []

/-- The dies that hold the range list and the first deadline of a launch (R86). -/
def queueDies (d : Dev) (x : Launch) : Byte := diesAt (firstStope d x) (queueLocs d x)

/-- Read the range list and the first deadline (R37): none where a read fails or an entry is malformed. -/
def queueReads (d : Dev) (x : Launch) : Option (List RangeEntry × Nat) :=
  let r := x.record
  match queueRead d x (r.rangeList.setWidth 64) (16 * r.ranges) with
  | none => none
  | some bs =>
    let es := (List.range r.ranges).map fun i => parseRange ((bs.drop (16 * i)).take 16)
    if es.any Option.isNone then none
    else
      let es := es.filterMap id
      if r.deadlines = 0 then some (es, 0)
      else match queueRead d x (r.deadlines.setWidth 64) 8 with
        | none => none
        | some bs => some (es, bitsOf bs 63 24)

/-- Launches of a partition that wait at a level. DESIGN CHOICE (log 49). -/
def queueLength (d : Dev) (part level : Nat) : Nat :=
  (d.launches.filter fun e => e.2.part.toNat == part && e.2.level == level && e.2.state == .queued).length

/-- Whether the reads that a record asks for wait for a scoreboard (R297). -/
def enqueueHeld (d : Dev) (part : BitVec 4) (ctx sender : Nat) (bs : List Byte) : Bool :=
  readHeld d (queueLocs d (launchOfRecord part ctx 0 sender (parseRecord bs) d.now))

/-- Check a record and queue it (R35, R37): a status, or the launch's name and the device. DESIGN CHOICE (log 69). -/
def enqueueLaunch (d : Dev) (part : BitVec 4) (ctx sender : Nat) (foreman : Bool) (bs : List Byte) :
    Except Nat (Nat × Dev) :=
  if recordBad bs foreman false then .error statusMalformed
  else match partAt d part.toNat with
    | none => .error statusNoResource
    | some p =>
      let r := parseRecord bs
      let x := launchOfRecord part ctx (mget 0 p.seqs r.priority) sender r d.now
      match queueReads d x with
      | none => .error statusMalformed
      | some (es, dl) =>
        if p.stopes.length < gangSize r ∨ 64 ≤ queueLength d part.toNat r.priority then .error statusNoResource
        else
          let n := newName (touchDies d ctx (queueDies d x))
          let d := { n.2 with parts := mmod n.2.parts part.toNat fun p =>
            { p with seqs := minsert p.seqs r.priority (mget 0 p.seqs r.priority + 1) } }
          .ok (n.1, putLaunch d n.1 { x with ranges := es, dl0 := dl })

/-- The handle of a launch (R41). -/
def handleOf (x : Launch) : Dword := BitVec.ofNat 64 (x.part.toNat * 2 ^ 56 + x.level * 2 ^ 52 + x.seq % 2 ^ 52)

/-- The launch of a handle. DESIGN CHOICE (log 57). -/
def launchByHandle (d : Dev) (h : Dword) : Option (Nat × Launch) :=
  (d.launches.find? fun e => e.2.parent.isNone && handleOf e.2 == h)

end Sys2Proof.Machine
end

