-- ==== Sys2Proof/Machine/Image.lean ====
section
/-! DEFINITION. The snapshot image, version 1 (spec/10_core_state.md R209 to R215), as bytes of a core's state, and the
writes that change it (spec/14_core_sync_system.md R275). -/

namespace Sys2Proof.Machine

def imageSize : Nat := 40960

/-! ## System registers (R270, R271) -/

/-- sr.plevel (R148). -/
def plevelOf (d : Dev) (c : Core) : Dword :=
  BitVec.ofNat 64 (c.riskPend.toNat * 2 ^ 17 + c.riskEn.toNat * 2 ^ 16 + d.power.fb.toNat * 64 +
    d.power.level.toNat * 8 + d.power.grant.toNat)

/-- sr.plevel as a task of a D-mode partition sees it (R149). -/
def plevelSeen (d : Dev) (k : Nat) (c : Core) : Dword :=
  if dmodeOf d k then BitVec.ofNat 64 (c.riskEn.toNat * 2 ^ 16) else plevelOf d c

def tcauseOf (c : Core) : Dword := BitVec.ofNat 64 (c.noResume.toNat * 2 ^ 16 + c.tcause.toNat)

def lendOf (c : Core) : Dword := BitVec.ofNat 64 (c.active.toNat * 2 ^ 63 + c.lend.toNat)

/-- Set a rotation base: values of 96 and above leave it (R198). -/
def setRrb (c : Core) (x : Dword) : Core := if x.toNat % 256 < 96 then { c with rrb := x.setWidth 8 } else c

/-- Write sr.plevel: RiskEn, and RiskPend by a zero (R148). -/
def setPlevel (c : Core) (x : Dword) : Core :=
  { c with riskEn := x.getLsbD 16, riskPend := c.riskPend && x.getLsbD 17 }

/-! ## Fields of 64 bits of a byte string -/

/-- The 8 bytes at an offset of a big number. -/
def wordAt (x : Nat) (i : Nat) : Dword := BitVec.ofNat 64 (x >>> (64 * i))

/-- A number with its i-th 64-bit word replaced. -/
def setWord (x : Nat) (i : Nat) (w : Dword) : Nat := x - (wordAt x i).toNat * 2 ^ (64 * i) + w.toNat * 2 ^ (64 * i)

/-! ## Header, log and entries (R209 to R211) -/

def bitIf (b : Bool) (n : Nat) : Nat := if b then 2 ^ n else 0

/-- The header of latched values. -/
def headerOf (l : Latch) : Nat :=
  1 + l.epoch.toNat * 2 ^ 84 + l.freezeNs.toNat * 2 ^ 96 + l.leaseRem.toNat * 2 ^ 158 + bitIf l.inHandler 165 +
    bitIf l.lease 166 + bitIf l.active 167 + l.rrb.toNat * 2 ^ 168 + l.ec.toNat * 2 ^ 176 + l.lc.toNat * 2 ^ 192 +
    l.pc.toNat * 2 ^ 224 + l.gpc.toNat * 2 ^ 272 + l.glink.toNat * 2 ^ 320 + l.lgpc.toNat * 2 ^ 368 +
    l.lstart.toNat * 2 ^ 416 + l.lend.toNat * 2 ^ 464

def bitField (x lo n : Nat) : Nat := x >>> lo % 2 ^ n

/-- Latched values from a header: Version and reserved bits are left. -/
def ofHeader (l : Latch) (x : Nat) : Latch :=
  { l with epoch := BitVec.ofNat 12 (x >>> 84), freezeNs := BitVec.ofNat 32 (x >>> 96),
           leaseRem := BitVec.ofNat 7 (x >>> 158), inHandler := x.testBit 165, lease := x.testBit 166,
           active := x.testBit 167, rrb := BitVec.ofNat 8 (x >>> 168), ec := BitVec.ofNat 16 (x >>> 176),
           lc := BitVec.ofNat 32 (x >>> 192), pc := BitVec.ofNat 48 (x >>> 224), gpc := BitVec.ofNat 48 (x >>> 272),
           glink := BitVec.ofNat 48 (x >>> 320), lgpc := BitVec.ofNat 48 (x >>> 368),
           lstart := BitVec.ofNat 48 (x >>> 416), lend := BitVec.ofNat 48 (x >>> 464) }

def acqBits (q : Bool × AcqEntry) : Dword :=
  let e := q.2
  BitVec.ofNat 64 (e.owner.toNat * 2 ^ 40 + e.epoch.toNat * 2 ^ 28 + bitIf e.engine 27 + bitIf q.1 26)

/-- An entry of a latched acquire log, with its Valid bit, from its bits. -/
def ofAcqBits (x : Dword) : Bool × AcqEntry :=
  (x.getLsbD 26, ⟨BitVec.ofNat 24 (x.toNat >>> 40), BitVec.ofNat 12 (x.toNat >>> 28), x.getLsbD 27⟩)

/-- The acquire log that latched entries hold: those that are Valid. -/
def logOf (l : Latch) : List AcqEntry := (l.acq.filter (·.1)).map (·.2)

/-- A landing or in-flight entry: 128 bytes of data, then the tag. DEDUCED (log 8). -/
def entryBits (e : SnapEntry) : Nat :=
  e.data.toNat + 2 ^ 1024 * (e.number.toNat * 2 ^ 22 + e.file.toNat * 2 ^ 28 + bitIf e.arrived 30 + bitIf e.valid 31 +
    e.remain.toNat * 2 ^ 32)

/-- An entry with the bits of an image; its links to the word stay. -/
def ofEntryBits (e : SnapEntry) (x : Nat) : SnapEntry :=
  let t := x >>> 1024
  { e with data := BitVec.ofNat 1024 x, number := BitVec.ofNat 6 (t >>> 22), file := BitVec.ofNat 2 (t >>> 28),
           arrived := t.testBit 30, valid := t.testBit 31, remain := BitVec.ofNat 8 (t >>> 32) }

def emptyEntry : SnapEntry :=
  { remain := 0, valid := false, arrived := false, file := 0, number := 0, data := 0, word := 0,
    src := .none }

def numbersIn : RegFile → Nat
  | .g => 64 | .v => 64 | .p => 16 | .o => 8

/-- Whether an entry breaks R275: Valid with a Remain above 63, or with a number its file lacks. -/
def entryBad (e : SnapEntry) : Bool :=
  e.valid && (63 < e.remain.toNat || numbersIn (fileOfCode e.file) ≤ e.number.toNat)

/-- The latched values, or zero where none were latched since resumption. -/
def latchZero : Latch :=
  { pc := 0, gpc := 0, glink := 0, lstart := 0, lend := 0, lgpc := 0, active := false, lc := 0, ec := 0, rrb := 0,
    lease := false, inHandler := false, leaseRem := 0, freezeNs := 0, epoch := 0, acq := [], landing := [],
    inflight := [] }

/-! ## Where an offset leads (R209) -/

/-- A place of the image. -/
inductive Field where
  | header (i : Nat)
  | g (n : Nat)
  | full (i : Nat)
  | p (n i : Nat)
  | o (n : Nat)
  | sys (i : Nat)
  | v (n i : Nat)
  | acq (i : Nat)
  | landing (n i : Nat)
  | inflight (n i : Nat)
  | nothing
  deriving DecidableEq, Repr

def fieldOf (off : Nat) : Field :=
  if off < 0x40 then .header (off / 8)
  else if off < 0x240 then .g ((off - 0x40) / 8)
  else if off < 0x260 then .full ((off - 0x240) / 8)
  else if off < 0x280 then .nothing
  else if off < 0x380 then .p ((off - 0x280) / 16) ((off - 0x280) % 16 / 8)
  else if off < 0x3C0 then .o ((off - 0x380) / 8)
  else if off < 0x400 then .sys ((off - 0x3C0) / 8)
  else if off < 0x2400 then .v ((off - 0x400) / 128) ((off - 0x400) % 128 / 8)
  else if off < 0x2480 then .acq ((off - 0x2400) / 8)
  else if off < 0x2D80 then .landing ((off - 0x2480) / 144) ((off - 0x2480) % 144 / 8)
  else if off < 0x5180 then .inflight ((off - 0x2D80) / 144) ((off - 0x2D80) % 144 / 8)
  else if off < 0x9080 then .landing (16 + (off - 0x5180) / 144) ((off - 0x5180) % 144 / 8)
  else .nothing

/-- The full bits of registers n … of a file. -/
def fullBits (c : Core) (f : RegFile) (n : Nat) : Nat :=
  (List.range n).foldr (fun i acc => (if hardwired f i || !isEmpty c f i then 1 else 0) + 2 * acc) 0

def setFullBits (c : Core) (f : RegFile) (n x : Nat) : Core :=
  (List.range n).foldl (fun c i => setEmpty c f i (!x.testBit i)) c

/-- The order of the system registers in an image (R209); sr.plevel stands beside the core. -/
def sysAt (pl : Dword) (c : Core) (i : Nat) : Dword :=
  match i with
  | 0 => c.fflags.setWidth 64
  | 1 => c.frm.setWidth 64
  | 2 => c.seed
  | 3 => pl
  | 4 => c.tvec.setWidth 64
  | 5 => tcauseOf c
  | 6 => c.tinfo
  | _ => c.limit.setWidth 64

def setSysAt (c : Core) (i : Nat) (x : Dword) : Core :=
  match i with
  | 0 => { c with fflags := x.setWidth 5 }
  | 1 => if x.toNat % 8 ≤ 4 then { c with frm := x.setWidth 3 } else c
  | 2 => { c with seed := x }
  | 3 => setPlevel c x
  | 4 => { c with tvec := x.setWidth 48 }
  | 7 => { c with limit := x.setWidth 32 }
  | _ => c

/-- Eight bytes of the image of a core and latched values (R209), with a value of sr.plevel. -/
def imageWord (pl : Dword) (c : Core) (l : Latch) (off : Nat) : Dword :=
  match fieldOf off with
  | .header i => wordAt (headerOf l) i
  | .g n => physReadG c n
  | .full i =>
    match i with
    | 0 => BitVec.ofNat 64 (fullBits c .g 64)
    | 1 => BitVec.ofNat 64 (fullBits c .v 64)
    | 2 => BitVec.ofNat 64 (fullBits c .p 16 + 2 ^ 16 * fullBits c .o 8)
    | _ => 0
  | .p n i => wordAt (physReadP c n).toNat i
  | .o n => readO c n
  | .sys i => sysAt pl c i
  | .v n i => wordAt (physReadV c n).toNat i
  | .acq i => match l.acq[i]? with
    | some e => acqBits e
    | none => 0
  | .landing n i => wordAt (entryBits (l.landing.getD n emptyEntry)) i
  | .inflight n i => wordAt (entryBits (l.inflight.getD n emptyEntry)) i
  | .nothing => 0

/-- Replace the n-th of a list, padding it. -/
def setNth {α : Type} (dflt : α) (xs : List α) (n : Nat) (x : α) : List α :=
  (xs ++ List.replicate (n + 1 - xs.length) dflt).set n x

/-- Write eight bytes of an image into a core's own state. -/
def writeCoreField (c : Core) (f : Field) (x : Dword) : Core :=
  match f with
  | .g n => writeReg c .g n (x.setWidth 1024)
  | .full i =>
    match i with
    | 0 => setFullBits c .g 64 x.toNat
    | 1 => setFullBits c .v 64 x.toNat
    | 2 => setFullBits (setFullBits c .p 16 x.toNat) .o 8 (x.toNat >>> 16)
    | _ => c
  | .p n i => writeReg c .p n (BitVec.ofNat 1024 (setWord (physReadP c n).toNat i x))
  | .o n => writeReg c .o n (x.setWidth 1024)
  | .sys i => setSysAt c i x
  | .v n i => writeReg c .v n (BitVec.ofNat 1024 (setWord (physReadV c n).toNat i x))
  | .header _ | .acq _ | .landing _ _ | .inflight _ _ | .nothing => c

/-- Write eight bytes of an image into latched values: none where an entry would break R275. -/
def writeLatchField (l : Latch) (f : Field) (x : Dword) : Option Latch :=
  match f with
  | .header i => some (ofHeader l (setWord (headerOf l) i x))
  | .acq i =>
    some { l with acq := setNth (ofAcqBits 0) l.acq i (ofAcqBits x) }
  | .landing n i =>
    let e := l.landing.getD n emptyEntry
    let e := ofEntryBits e (setWord (entryBits e) i x)
    if entryBad e then none else some { l with landing := setNth emptyEntry l.landing n e }
  | .inflight n i =>
    let e := l.inflight.getD n emptyEntry
    let e := ofEntryBits e (setWord (entryBits e) i x)
    if entryBad e then none else some { l with inflight := setNth emptyEntry l.inflight n e }
  | .g _ | .full _ | .p _ _ | .o _ | .sys _ | .v _ _ | .nothing => some l

/-- The bytes of a whole image. -/
def imageBytes (pl : Dword) (c : Core) (l : Latch) : List Byte :=
  (List.range (imageSize / 8)).flatMap fun i => natBytes 8 (imageWord pl c l (8 * i)).toNat

/-- The latch image: the latched values alone (R215). -/
def latchBytes (l : Latch) : List Byte :=
  (List.range (imageSize / 8)).flatMap fun i =>
    match fieldOf (8 * i) with
    | .header j => natBytes 8 (wordAt (headerOf l) j).toNat
    | .acq j => natBytes 8 (match l.acq[j]? with
      | some e => (acqBits e).toNat
      | none => 0)
    | .landing n j => natBytes 8 (wordAt (entryBits (l.landing.getD n emptyEntry)) j).toNat
    | .inflight n j => natBytes 8 (wordAt (entryBits (l.inflight.getD n emptyEntry)) j).toNat
    | .g _ | .full _ | .p _ _ | .o _ | .sys _ | .v _ _ | .nothing => natBytes 8 0

end Sys2Proof.Machine
end

