-- ==== Sys2Proof/Machine/Access.lean ====
section
/-! DEFINITION. What every A word does at issue (spec/12_core_memory_atomics.md R233), and the entries it leaves in the
check window. -/

namespace Sys2Proof.Machine

/-- The rights and addresses of an access under check. -/
structure Reach where
  user  : User
  right : Right
  va    : Dword
  /-- Alignment in bytes. -/
  align : Nat
  /-- Whether only vaults and HBM are allowed, and whether the side bank is shut out (R233). -/
  memOnly  : Bool
  dataOnly : Bool

/-- Whether a place is outside what a word allows beyond R67. -/
def offTarget (q : Reach) : Place → Bool
  | .vault _ o => q.dataOnly && 0xC00000 ≤ o
  | .hbm _ => false
  | .remote _ _ | .reduction _ _ | .host _ _ | .agent _ _ | .sysreg _ => q.memOnly

/-- The launch of the core that moves goes on with its device; with no launch nothing issues. -/
def withLaunch (s : State) (k : Launch → Out) : Out :=
  match launchOf s.dev s.cur with
  | some x => k x
  | none => hold s

/-- Steps 1 to 3 of R233 for one address. DESIGN CHOICE (log 54). -/
def withPlace (s : State) (q : Reach) (k : Place → Out) : Out :=
  withLaunch s fun x =>
    if q.va >>> 48 ≠ 0 then trap s causeAbsent q.va
    else match xlate s.dev x (stopeOf s.cur) q.user q.right q.va with
      | .trap c => trap s c q.va
      | .page n => touchPage s n q.va
      | .place p =>
        if offTarget q p then trap s causeAccess q.va
        else if q.va.toNat % q.align ≠ 0 then trap s causeMisaligned q.va
        else k p

/-- Bits of sr.dmask that an access sets, and the trap where one of the dies is lost (R86). -/
def withDies (s : State) (bits : Byte) (k : State → Out) : Out :=
  withLaunch s fun x =>
    if bits &&& s.dev.lost ≠ 0 then
      trap { s with dev := touchDies s.dev x.ctx bits,
                    clause := s.clause.map fun c => { c with base := touchDies c.base x.ctx bits } } causeDieLost
        (BitVec.ofNat 64 (firstDie (bits &&& s.dev.lost)))
    else k { s with dev := touchDies s.dev x.ctx bits }

/-- Step 5 of R233: granules with the addresses of their first bytes, in ascending order (R106, R108), under the epoch
and the log that the words before this one in its clause have left (R104). -/
def withRace (s : State) (gs : List (Nat × Dword)) (write atom : Bool) (k : State → Out) : Out :=
  withLaunch s fun x =>
    match (live s).run with
    | none => hold s
    | some r =>
      let c := live s
      match raceAll (heldNumber s.dev x.ctx) c.acq (accessOf x r.task c.epoch write atom false) (gs.map (·.1))
          s.dev.tags with
      | .error g =>
        trap s causeRace (match gs.find? fun e => e.1 == g with
          | some e => e.2
          | none => 0)
      | .ok tags => k { s with dev := { s.dev with tags := tags } }

/-- The granules of n bytes at a place, with their addresses. -/
def granulesAt (p : Place) (va : Dword) (n : Nat) : List (Nat × Dword) :=
  match locOf p with
  | some l => (granules l n).map fun g => (g, (va &&& ~~~31#64) + BitVec.ofNat 64 (32 * (g - l / 32)))
  | none => []

/-- Put an entry into the check window of the core that moves (R150). -/
def enqueue (s : State) (op : WindowOp) : State :=
  modLive s fun c => { c with window := c.window ++ [⟨wordId s, s.dev.issues, op⟩] }

/-- Whether a word is ruled out in D-mode: DET_VIOLATION with its address (R109). -/
def inDmode (s : State) (ruled : Bool) (k : Out) : Out :=
  if ruled && dmodeOf s.dev s.cur then trap s causeDet ((wordAddr s).setWidth 64) else k

/-- Advance the race epoch of the core that moves (R104). -/
def advance (s : State) : State := modLive s fun c => { c with epoch := advanceEpoch c.epoch }

/-- Whether stores and atomics of earlier clauses have yet to be performed, or acknowledged (R276). -/
def storesLeft (c : Core) : Bool := !c.window.isEmpty || !c.acks.isEmpty

/-- Whether a load's data waits in the vault port for an entry of the landing buffer (R201). -/
def waitsPort (f : Flight) : Bool := isLoad f.src && f.arrived && !f.buffered && !landsAtOnce f.remain

/-- Whether a load of the core, of a word before another, has yet to land; data that waits in the vault port has not
reached the core, and loads latched at a trap entry are among them (R90, R201, R205). -/
def loadsBefore (c : Core) (word : Nat) : Bool :=
  (c.flights.any fun f => isLoad f.src && f.word < word && (!f.arrived || (waitsPort f && owns c f))) ||
    (match c.latch with
     | some l => c.inHandler && l.landing.any fun e => e.valid && isLoad e.src && !e.arrived && e.word < word
     | none => false)

end Sys2Proof.Machine
end

