-- ==== Sys2Proof/WellFormed.lean ====
section
/-! DEFINITION. When an instruction is well formed: the limits of spec/09_encoding.md that the types of its fields do
not carry (R182, R183, R186, R187, R189, R228, R259, R334), and the message types of requests (R26). -/

namespace Sys2Proof

/-- A 6-bit field that names a predicate register takes 0 to 15 (R182). -/
def isPred (x : RegNum) : Bool := x.toNat < 16

/-- ALD takes relaxed, acquire or sc ordering (R187). -/
def aldOrder : Order → Bool
  | .relaxed | .acquire | .sc => true
  | .release | .acqRel => false

/-- AST takes relaxed, release or sc ordering (R187). -/
def astOrder : Order → Bool
  | .relaxed | .release | .sc => true
  | .acquire | .acqRel => false

/-- The targets of VCVT for which the saturate bit has a meaning: the integers and E5M2 (R259). -/
def satAllowed : CvtFmt → Bool
  | .int32 | .uint32 | .int16 | .int8 | .e5m2 => true
  | .fp32 | .bf16 | .e4m3 => false

/-- The message types of R26. -/
def listedTypes : List (BitVec 16) :=
  [0x0001, 0x0002, 0x0003, 0x0010, 0x0011, 0x0012, 0x0020, 0x0021, 0x0030, 0x0031, 0x0032, 0x0040, 0x0041, 0x0050,
   0x0051, 0x0060]

/-- A request event carries a request of its own type, or one of a type that R26 does not list, which the Foreman
answers MALFORMED (R25). -/
def typeFits (t : BitVec 16) (r : Request) : Bool :=
  r.type == t || !listedTypes.contains r.type

/-- The limits on an instruction's fields that its type does not carry. -/
def wellFormed (i : Instr) : Bool :=
  match i with

  | .nop => true
  | .trap _ _ _ => true
  | .eret => true
  | .rdsr _ _ => true
  | .wrsr _ _ _ => true
  | .snaprd _ _ _ => true
  | .snapwr _ _ _ _ => true
  | .fenceS => true
  | .fenceD => true
  | .fenceY => true
  | .suspend => true
  | .endstep => true
  | .exit _ _ => true
  | .launch _ _ _ => true
  | .deadline _ _ _ _ => true
  | .swpt _ => true
  | .waitge _ _ _ _ => true
  | .armcnt _ _ _ _ => true
  | .bar _ _ _ _ => true
  | .add _ _ _ _ _ => true
  | .sub _ _ _ _ _ => true
  | .and _ _ _ _ _ => true
  | .or _ _ _ _ _ => true
  | .xor _ _ _ _ _ => true
  | .andn _ _ _ _ _ => true
  | .sll _ _ _ _ _ => true
  | .srl _ _ _ _ _ => true
  | .sra _ _ _ _ _ => true
  | .rotl _ _ _ _ _ => true
  | .slt _ _ _ _ _ => true
  | .sltu _ _ _ _ _ => true
  | .seq _ _ _ _ _ => true
  | .min _ _ _ _ _ => true
  | .max _ _ _ _ _ => true
  | .minu _ _ _ _ _ => true
  | .maxu _ _ _ _ _ => true
  | .clz _ _ _ => true
  | .popc _ _ _ => true
  | .slli _ _ _ _ => true
  | .srli _ _ _ _ => true
  | .srai _ _ _ _ => true
  | .rotli _ _ _ _ => true
  | .addi _ _ _ _ => true
  | .mul _ _ _ _ _ => true
  | .mulh _ _ _ _ _ => true
  | .mulhu _ _ _ _ _ => true
  | .mulhsu _ _ _ _ _ => true
  | .div _ _ _ _ _ => true
  | .divu _ _ _ _ _ => true
  | .rem _ _ _ _ _ => true
  | .remu _ _ _ _ _ => true
  | .li _ _ _ => true
  | .lik _ _ _ => true
  | .beq _ _ _ _ => true
  | .bne _ _ _ _ => true
  | .blt _ _ _ _ => true
  | .bge _ _ _ _ => true
  | .bltu _ _ _ _ => true
  | .bgeu _ _ _ _ => true
  | .jmp _ => true
  | .jal _ => true
  | .jr _ _ => true
  | .jalr _ _ _ => true
  | .call _ _ _ _ _ => true
  | .ret _ _ => true
  | .gset _ _ => true
  | .loop l _ _ _ => l != 0#6
  | .pand d a b _ _ => isPred d && isPred a && isPred b
  | .por d a b _ _ => isPred d && isPred a && isPred b
  | .pxor d a b _ _ => isPred d && isPred a && isPred b
  | .pandn d a b _ _ => isPred d && isPred a && isPred b
  | .pnot d a _ => isPred d && isPred a
  | .pcnt _ a _ => isPred a
  | .ld _ _ _ _ _ => true
  | .st _ _ _ _ _ => true
  | .ald _ _ _ _ o _ => aldOrder o
  | .ast _ _ _ _ o _ => astOrder o
  | .atomAdd _ _ _ _ _ _ => true
  | .atomAnd _ _ _ _ _ _ => true
  | .atomOr _ _ _ _ _ _ => true
  | .atomXor _ _ _ _ _ _ => true
  | .atomMin _ _ _ _ _ _ => true
  | .atomMax _ _ _ _ _ _ => true
  | .atomMinu _ _ _ _ _ _ => true
  | .atomMaxu _ _ _ _ _ _ => true
  | .atomSwap _ _ _ _ _ _ => true
  | .atomFadd _ _ _ _ _ => true
  | .atomFmin _ _ _ _ _ => true
  | .atomFmax _ _ _ _ _ => true
  | .acas _ _ _ _ _ _ => true
  | .acas2 _ _ _ _ _ => true
  | .aenq _ _ _ _ _ => true
  | .apchase _ _ _ _ _ => true
  | .aredAdd _ _ _ _ _ _ => true
  | .aredAnd _ _ _ _ _ _ => true
  | .aredOr _ _ _ _ _ _ => true
  | .aredXor _ _ _ _ _ _ => true
  | .aredMin _ _ _ _ _ _ => true
  | .aredMax _ _ _ _ _ _ => true
  | .aredMinu _ _ _ _ _ _ => true
  | .aredMaxu _ _ _ _ _ _ => true
  | .aredFadd _ _ _ _ _ => true
  | .aredFmin _ _ _ _ _ => true
  | .aredFmax _ _ _ _ _ => true
  | .vld _ _ _ _ => true
  | .vstW _ _ _ _ => true
  | .vstH _ _ _ _ => true
  | .vstB _ _ _ _ => true
  | .vgather _ _ _ _ _ => true
  | .vscatter _ _ _ _ _ => true
  | .vadd _ _ _ _ _ => true
  | .vsub _ _ _ _ _ => true
  | .vmul _ _ _ _ _ => true
  | .vmin _ _ _ _ _ => true
  | .vmax _ _ _ _ _ => true
  | .vand _ _ _ _ _ => true
  | .vor _ _ _ _ _ => true
  | .vxor _ _ _ _ _ => true
  | .vfadd _ _ _ _ _ => true
  | .vfsub _ _ _ _ _ => true
  | .vfmul _ _ _ _ _ => true
  | .vfdiv _ _ _ _ _ => true
  | .vfmin _ _ _ _ _ => true
  | .vfmax _ _ _ _ _ => true
  | .vfsqrt _ _ _ _ => true
  | .vfabs _ _ _ _ => true
  | .vfma _ _ _ _ _ => true
  | .vfms _ _ _ _ _ => true
  | .vfnma _ _ _ _ _ => true
  | .vfnms _ _ _ _ _ => true
  | .vmad _ _ _ _ _ => true
  | .vdot4 _ _ _ _ _ => true
  | .vcvt _ _ _ s z _ g => s != g && (satAllowed g || !z)
  | .vshl _ _ _ _ _ => true
  | .vshr _ _ _ _ _ => true
  | .vshra _ _ _ _ _ => true
  | .vperm _ _ _ _ _ => true
  | .vbcast _ _ _ _ _ => true
  | .vred _ _ _ _ _ => true
  | .vpack _ _ _ _ => true
  | .vunpack _ _ _ _ => true
  | .vexp2 _ _ _ _ => true
  | .vlog2 _ _ _ _ => true
  | .vrcp _ _ _ _ => true
  | .vrsqrt _ _ _ _ => true
  | .vsinpi _ _ _ _ => true
  | .vtanh _ _ _ _ => true
  | .vrng _ _ _ _ => true
  | .vqnt _ _ f _ _ => f != .bf16
  | .vcmpeq _ _ _ _ _ => true
  | .vcmplt _ _ _ _ _ => true
  | .vcmple _ _ _ _ _ => true
  | .vfcmpeq _ _ _ _ _ => true
  | .vfcmplt _ _ _ _ _ => true
  | .vfcmple _ _ _ _ _ => true
  | .vsel _ _ _ _ _ => true
  | .vmsk _ _ _ _ => true
  | .mlease => true
  | .mrel => true
  | .mclr _ => true
  | .mofs _ _ _ => true
  | .mstat _ _ => true
  | .mma _ _ _ _ _ => true
  | .mmaw _ _ _ _ _ => true
  | .mdrain _ _ _ _ _ => true
  | .cpy _ q _ _ _ => q != 0#4
  | .cpyh _ q _ _ _ => q != 0#4
  | .stage _ _ => true
  | .cpyp _ q _ _ _ => q != 0#4
  | .cpye _ q _ _ _ => q != 0#4
  | .rld _ _ _ _ _ => true
  | .rst _ _ _ _ _ => true
  | .ratAdd _ _ _ _ _ => true
  | .ratAnd _ _ _ _ _ => true
  | .ratOr _ _ _ _ _ => true
  | .ratXor _ _ _ _ _ => true
  | .ratMin _ _ _ _ _ => true
  | .ratMax _ _ _ _ _ => true
  | .ratSwap _ _ _ _ _ => true
  | .ratCas _ _ _ _ _ => true
  | .rredAdd _ _ _ _ _ => true
  | .rredAnd _ _ _ _ _ => true
  | .rredOr _ _ _ _ _ => true
  | .rredXor _ _ _ _ _ => true
  | .rredMin _ _ _ _ _ => true
  | .rredMax _ _ _ _ _ => true
  | .rredFadd _ _ _ _ _ => true
  | .rredFmin _ _ _ _ _ => true
  | .rredFmax _ _ _ _ _ => true
  | .post _ _ => true
  | .trig _ _ _ _ => true
  | .ticket _ _ _ _ _ => true
  | .flagadd _ _ _ _ => true
  | .flagset _ _ _ _ _ => true
  | .barg _ _ _ _ => true
  | .identify r => typeFits 0x0001 r
  | .attest r => typeFits 0x0002 r
  | .firmwareLoad r => typeFits 0x0003 r
  | .partitionAssign r => typeFits 0x0010 r
  | .partitionRelease r => typeFits 0x0011 r
  | .sessionOpen r => typeFits 0x0012 r
  | .unsupportedPacket _ => true
  | .lttLoad r => typeFits 0x0020 r
  | .contextRelease r => typeFits 0x0020 r
  | .lttInstall _ => true
  | .lttShootdown r => typeFits 0x0021 r
  | .launchRequest r => typeFits 0x0030 r
  | .launchStatus r => typeFits 0x0031 r
  | .launchCancel r => typeFits 0x0032 r
  | .launchCancelForce r => typeFits 0x0032 r
  | .memRead r => typeFits 0x0040 r
  | .memWrite r => typeFits 0x0041 r
  | .snapshotRead r => typeFits 0x0050 r
  | .snapshotWrite r => typeFits 0x0051 r
  | .telemetryStatus r => typeFits 0x0060 r
  | .telemetryStartSampling r => typeFits 0x0060 r
  | .telemetryStopSampling r => typeFits 0x0060 r
  | .telemetryDrainSamples r => typeFits 0x0060 r
  | .boot _ => true
  | .checkedPairTakeover => true
  | .stopeFailure _ => true
  | .hbmChannelRetirement _ _ => true
  | .dieLoss _ => true
  | .dispatchAdmission _ => true
  | .backoffExpiry _ => true
  | .launchPreemption _ => true
  | .taskPreemption _ _ => true
  | .preemptionDeferralBound _ => true
  | .taskResumption _ => true
  | .regenerationLaunch _ _ => true
  | .refetchFillComplete _ _ => true
  | .stepClose _ => true
  | .stepOpen _ => true
  | .launchFault _ => true
  | .resultWrite _ => true
  | .loadDataArrival _ _ _ => true
  | .landingWrite _ => true
  | .freezeTimeout _ => true
  | .checkWindowClose _ => true
  | .timingReplay _ => true
  | .atomicAcknowledgement _ _ => true
  | .deadlineRiskInterrupt _ => true
  | .governorEvaluation _ => true
  | .levelChangeComplete => true
  | .powerGrant _ => true
  | .energySample _ _ => true
  | .timeCalibration _ _ _ => true
  | .leaseGrant _ => true
  | .matrixCommandStart _ => true
  | .matrixCommandComplete _ _ _ => true
  | .bankRelease _ _ => true
  | .bankRestore _ _ => true
  | .copySector _ _ _ => true
  | .copyCompletion _ _ => true
  | .scheduleEntryStart _ _ => true
  | .operationPacketArrival _ => true
  | .dispenserStore _ _ _ _ => true
  | .fabricOpCompletion _ _ => true
  | .endToEndTimeout _ => true
  | .rackAcknowledgement _ => true
  | .postedOpFire _ => true
  | .switchBarrierRelease _ _ => true
  | .flitReceive _ _ _ => true
  | .stripeRequestRepeat _ => true
  | .fecWindowClear => true
  | .wavelengthLockLoss _ _ => true
  | .retrainingEnd _ _ _ => true
  | .wavelengthPark _ => true
  | .wavelengthWake _ => true
  | .fillReserveRefill _ _ => true
  | .nakRepeat _ => true

end Sys2Proof
end

