-- ==== Sys2Proof/Decode.lean ====
section
/-! DEFINITION. Decoding an instruction word (spec/09_encoding.md R173 to R191), total and rejecting by name, and
encoding a well-formed instruction from the same formats (R181). -/

namespace Sys2Proof

/-- Why a word is illegal (R191). Every one of these traps ILLEGAL_OPCODE at issue (R178). -/
inductive DecodeError where
  /-- Major 29, 30 or 31. -/
  | reservedMajor
  /-- A function code, condition or op that R188 leaves unassigned. -/
  | unassigned
  /-- A reserved field that is not zero. -/
  | reservedField
  /-- A subfield value that R182, R183, R186, R187, R189 or R270 calls illegal. -/
  | illegalSubfield
  deriving DecidableEq, Repr

/-! ## Subfield codes (R186, R189, R270, R306) -/

def scopeOf (x : BitVec 2) : Scope :=
  match x.toNat with
  | 0 => .stope | 1 => .die | 2 => .package | _ => .system

def scopeCode : Scope → BitVec 2
  | .stope => 0 | .die => 1 | .package => 2 | .system => 3

def orderOf (x : BitVec 3) : Option Order :=
  match x.toNat with
  | 0 => some .relaxed | 1 => some .acquire | 2 => some .release | 3 => some .acqRel | 4 => some .sc | _ => none

def orderCode : Order → BitVec 3
  | .relaxed => 0 | .acquire => 1 | .release => 2 | .acqRel => 3 | .sc => 4

/-- The rounding modes of R123, by their 3-bit code. -/
def modeOf (x : BitVec 3) : Option Mode :=
  match x.toNat with
  | 0 => some .rne | 1 => some .rtz | 2 => some .rup | 3 => some .rdn | 4 => some .rsh | _ => none

def modeCode : Mode → BitVec 3
  | .rne => 0 | .rtz => 1 | .rup => 2 | .rdn => 3 | .rsh => 4

/-- Codes 0 to 4 name a mode, 7 the dynamic mode of sr.frm; 5 and 6 are illegal (R123, R186). -/
def rndOf (x : BitVec 3) : Option Rnd :=
  if x = 7#3 then some .dyn else (modeOf x).map .fixed

def rndCode : Rnd → BitVec 3
  | .fixed m => modeCode m | .dyn => 7

def cvtOf (x : BitVec 3) : CvtFmt :=
  match x.toNat with
  | 0 => .int32 | 1 => .uint32 | 2 => .fp32 | 3 => .bf16 | 4 => .int16 | 5 => .int8 | 6 => .e4m3 | _ => .e5m2

def cvtCode : CvtFmt → BitVec 3
  | .int32 => 0 | .uint32 => 1 | .fp32 => 2 | .bf16 => 3 | .int16 => 4 | .int8 => 5 | .e4m3 => 6 | .e5m2 => 7

def drainOf (x : BitVec 3) : Option DrainFmt :=
  match x.toNat with
  | 0 => some .fp32 | 1 => some .bf16 | 2 => some .int32 | _ => none

def drainCode : DrainFmt → BitVec 3
  | .fp32 => 0 | .bf16 => 1 | .int32 => 2

def redOf (x : BitVec 6) : Option RedOp :=
  match x.toNat with
  | 0 => some .add | 1 => some .min | 2 => some .max | 3 => some .fadd | 4 => some .fmin | 5 => some .fmax
  | _ => none

def redCode : RedOp → BitVec 6
  | .add => 0 | .min => 1 | .max => 2 | .fadd => 3 | .fmin => 4 | .fmax => 5

/-- Element formats of R126 by their 4-bit code; 8 to 15 name none. -/
def elemOf (x : BitVec 4) : Option ElemFmt :=
  match x.toNat with
  | 0 => some .t2 | 1 => some .e2m1 | 2 => some .e2m3 | 3 => some .e3m2 | 4 => some .int8 | 5 => some .e4m3
  | 6 => some .e5m2 | 7 => some .bf16 | _ => none

def elemCode : ElemFmt → BitVec 4
  | .t2 => 0 | .e2m1 => 1 | .e2m3 => 2 | .e3m2 => 3 | .int8 => 4 | .e4m3 => 5 | .e5m2 => 6 | .bf16 => 7

/-- Selectors of MSTAT: 0 to 3 a bank, 8 to 15 an offset register, 16 the lease (R306). -/
def mstatOf (x : BitVec 6) : Option MstatSel :=
  if x.toNat < 4 then some (.bank (x.setWidth 2))
  else if x.toNat < 8 then none
  else if x.toNat < 16 then some (.offset (x.setWidth 3))
  else if x = 16#6 then some .lease
  else none

def mstatCode : MstatSel → BitVec 6
  | .bank k => 0#4 ++ k | .offset k => 1#3 ++ k | .lease => 16

/-- Bits [13:11] of VPACK and VUNPACK: W, then q (R261). With W = 0, bit [12] is reserved. -/
def partOf (x : BitVec 3) : Option PartSel :=
  if x.getLsbD 2 then some (.byte (x.setWidth 2))
  else if x.getLsbD 1 then none
  else some (.half (x.getLsbD 0))

def partCode : PartSel → BitVec 3
  | .half q => 0#2 ++ BitVec.ofBool q | .byte q => 1#1 ++ q

def sysRegOf (x : BitVec 6) : Option SysReg :=
  match x.toNat with
  | 0 => some .fflags | 1 => some .frm | 2 => some .seed | 3 => some .tvec | 4 => some .tcause | 5 => some .tinfo
  | 6 => some .plevel | 7 => some .freezelimit | 8 => some .dmask | 9 => some .snapver | 10 => some .gpc
  | 11 => some .glink | 12 => some .lc | 13 => some .ec | 14 => some .rrb | 15 => some .lstart | 16 => some .lend
  | 17 => some .lgpc | 18 => some .prio | 19 => some .deadline | 20 => some .cbase | _ => none

def sysRegCode : SysReg → BitVec 6
  | .fflags => 0 | .frm => 1 | .seed => 2 | .tvec => 3 | .tcause => 4 | .tinfo => 5 | .plevel => 6
  | .freezelimit => 7 | .dmask => 8 | .snapver => 9 | .gpc => 10 | .glink => 11 | .lc => 12 | .ec => 13
  | .rrb => 14 | .lstart => 15 | .lend => 16 | .lgpc => 17 | .prio => 18 | .deadline => 19 | .cbase => 20

/-! ## Decoding -/

/-- Bits [25:20], the d field of most formats (R181). -/
abbrev fD (w : Word) : RegNum := w.extractLsb' 20 6

/-- Bits [19:14], the a field of most formats (R181). -/
abbrev fA (w : Word) : RegNum := w.extractLsb' 14 6

/-- Bits [13:8], the b field of most formats (R181). -/
abbrev fB (w : Word) : RegNum := w.extractLsb' 8 6

/-- Go on only where the condition holds. -/
def need {α : Type} (ok : Bool) (e : DecodeError) (x : Except DecodeError α) : Except DecodeError α :=
  if ok then x else .error e

/-- Go on with the value of a subfield, or refuse it. -/
def field {α β : Type} (x : Option α) (k : α → Except DecodeError β) : Except DecodeError β :=
  match x with
  | some v => k v
  | none => .error .illegalSubfield


/-- Major 0, format R (R188). -/
def decodeSystem (w : Word) : Except DecodeError Instr :=
  match (w.extractLsb' 0 6).toNat with
  | 0 => need (w.extractLsb' 6 20 == 0#20) .reservedField <| .ok (.nop)
  | 1 => need (!w.getLsbD 6 && fD w == 0#6) .reservedField <| .ok (.trap (fA w) (fB w) (w.getLsbD 7))
  | 2 => need (w.extractLsb' 6 20 == 0#20) .reservedField <| .ok (.eret)
  | 3 => need (w.extractLsb' 6 2 == 0#2 && fA w == 0#6) .reservedField <| field (sysRegOf (fB w)) fun s => .ok
    (.rdsr (fD w) s)
  | 4 => need (!w.getLsbD 6 && fD w == 0#6) .reservedField <| field (sysRegOf (fB w)) fun s => .ok (.wrsr (fA
    w) s (w.getLsbD 7))
  | 5 => need (!w.getLsbD 6 && fB w == 0#6) .reservedField <| .ok (.snaprd (fD w) (fA w) (w.getLsbD 7))
  | 6 => need (fD w == 0#6) .reservedField <| .ok (.snapwr (fA w) (fB w) (w.getLsbD 7) (w.getLsbD 6))
  | 7 => need (w.extractLsb' 6 20 == 0#20) .reservedField <| .ok (.fenceS)
  | 8 => need (w.extractLsb' 6 20 == 0#20) .reservedField <| .ok (.fenceD)
  | 9 => need (w.extractLsb' 6 20 == 0#20) .reservedField <| .ok (.fenceY)
  | 10 => need (w.extractLsb' 6 20 == 0#20) .reservedField <| .ok (.suspend)
  | 11 => need (w.extractLsb' 6 20 == 0#20) .reservedField <| .ok (.endstep)
  | 12 => need (!w.getLsbD 6 && fB w == 0#6 && fD w == 0#6) .reservedField <| .ok (.exit (fA w) (w.getLsbD 7))
  | 13 => need (!w.getLsbD 6 && fB w == 0#6) .reservedField <| .ok (.launch (fD w) (fA w) (w.getLsbD 7))
  | 14 => need (fD w == 0#6) .reservedField <| .ok (.deadline (fA w) (fB w) (w.getLsbD 7) (w.getLsbD 6))
  | 15 => need (w.extractLsb' 6 2 == 0#2 && fD w == 0#6) .reservedField <| .ok (.swpt (w.extractLsb' 8 12))
  | _ => .error .unassigned

/-- Major 1, format R (R188). -/
def decodeAlu (w : Word) : Except DecodeError Instr :=
  match (w.extractLsb' 0 6).toNat with
  | 0 => .ok (.add (fD w) (fA w) (fB w) (w.getLsbD 7) (w.getLsbD 6))
  | 1 => .ok (.sub (fD w) (fA w) (fB w) (w.getLsbD 7) (w.getLsbD 6))
  | 2 => .ok (.and (fD w) (fA w) (fB w) (w.getLsbD 7) (w.getLsbD 6))
  | 3 => .ok (.or (fD w) (fA w) (fB w) (w.getLsbD 7) (w.getLsbD 6))
  | 4 => .ok (.xor (fD w) (fA w) (fB w) (w.getLsbD 7) (w.getLsbD 6))
  | 5 => .ok (.andn (fD w) (fA w) (fB w) (w.getLsbD 7) (w.getLsbD 6))
  | 6 => .ok (.sll (fD w) (fA w) (fB w) (w.getLsbD 7) (w.getLsbD 6))
  | 7 => .ok (.srl (fD w) (fA w) (fB w) (w.getLsbD 7) (w.getLsbD 6))
  | 8 => .ok (.sra (fD w) (fA w) (fB w) (w.getLsbD 7) (w.getLsbD 6))
  | 9 => .ok (.rotl (fD w) (fA w) (fB w) (w.getLsbD 7) (w.getLsbD 6))
  | 10 => .ok (.slt (fD w) (fA w) (fB w) (w.getLsbD 7) (w.getLsbD 6))
  | 11 => .ok (.sltu (fD w) (fA w) (fB w) (w.getLsbD 7) (w.getLsbD 6))
  | 12 => .ok (.seq (fD w) (fA w) (fB w) (w.getLsbD 7) (w.getLsbD 6))
  | 13 => .ok (.min (fD w) (fA w) (fB w) (w.getLsbD 7) (w.getLsbD 6))
  | 14 => .ok (.max (fD w) (fA w) (fB w) (w.getLsbD 7) (w.getLsbD 6))
  | 15 => .ok (.minu (fD w) (fA w) (fB w) (w.getLsbD 7) (w.getLsbD 6))
  | 16 => .ok (.maxu (fD w) (fA w) (fB w) (w.getLsbD 7) (w.getLsbD 6))
  | 17 => need (!w.getLsbD 6 && fB w == 0#6) .reservedField <| .ok (.clz (fD w) (fA w) (w.getLsbD 7))
  | 18 => need (!w.getLsbD 6 && fB w == 0#6) .reservedField <| .ok (.popc (fD w) (fA w) (w.getLsbD 7))
  | 20 => need (!w.getLsbD 6) .reservedField <| .ok (.slli (fD w) (fA w) (fB w) (w.getLsbD 7))
  | 21 => need (!w.getLsbD 6) .reservedField <| .ok (.srli (fD w) (fA w) (fB w) (w.getLsbD 7))
  | 22 => need (!w.getLsbD 6) .reservedField <| .ok (.srai (fD w) (fA w) (fB w) (w.getLsbD 7))
  | 23 => need (!w.getLsbD 6) .reservedField <| .ok (.rotli (fD w) (fA w) (fB w) (w.getLsbD 7))
  | _ => .error .unassigned

/-- Major 2, format I (R188). -/
def decodeAddi (w : Word) : Except DecodeError Instr :=
  .ok (.addi (fD w) (fA w) (w.getLsbD 13) (w.extractLsb' 0 13))

/-- Major 3, format R (R188). -/
def decodeMulDiv (w : Word) : Except DecodeError Instr :=
  match (w.extractLsb' 0 6).toNat with
  | 0 => .ok (.mul (fD w) (fA w) (fB w) (w.getLsbD 7) (w.getLsbD 6))
  | 1 => .ok (.mulh (fD w) (fA w) (fB w) (w.getLsbD 7) (w.getLsbD 6))
  | 2 => .ok (.mulhu (fD w) (fA w) (fB w) (w.getLsbD 7) (w.getLsbD 6))
  | 3 => .ok (.mulhsu (fD w) (fA w) (fB w) (w.getLsbD 7) (w.getLsbD 6))
  | 4 => .ok (.div (fD w) (fA w) (fB w) (w.getLsbD 7) (w.getLsbD 6))
  | 5 => .ok (.divu (fD w) (fA w) (fB w) (w.getLsbD 7) (w.getLsbD 6))
  | 6 => .ok (.rem (fD w) (fA w) (fB w) (w.getLsbD 7) (w.getLsbD 6))
  | 7 => .ok (.remu (fD w) (fA w) (fB w) (w.getLsbD 7) (w.getLsbD 6))
  | _ => .error .unassigned

/-- Major 4, format W (R188). -/
def decodeImm (w : Word) : Except DecodeError Instr :=
  match (w.extractLsb' 16 2).toNat with
  | 0 => .ok (.li (fD w) (w.extractLsb' 18 2) (w.extractLsb' 0 16))
  | 1 => .ok (.lik (fD w) (w.extractLsb' 18 2) (w.extractLsb' 0 16))
  | _ => .error .unassigned

/-- Major 5, format B (R188). -/
def decodeBranch (w : Word) : Except DecodeError Instr :=
  match (w.extractLsb' 10 3).toNat with
  | 0 => .ok (.beq (fD w) (fA w) (w.getLsbD 13) (w.extractLsb' 0 10))
  | 1 => .ok (.bne (fD w) (fA w) (w.getLsbD 13) (w.extractLsb' 0 10))
  | 2 => .ok (.blt (fD w) (fA w) (w.getLsbD 13) (w.extractLsb' 0 10))
  | 3 => .ok (.bge (fD w) (fA w) (w.getLsbD 13) (w.extractLsb' 0 10))
  | 4 => .ok (.bltu (fD w) (fA w) (w.getLsbD 13) (w.extractLsb' 0 10))
  | 5 => .ok (.bgeu (fD w) (fA w) (w.getLsbD 13) (w.extractLsb' 0 10))
  | _ => .error .unassigned

/-- Major 6, format J (R188). -/
def decodeJump (w : Word) : Except DecodeError Instr :=
  if w.getLsbD 25 then .ok (.jal (w.extractLsb' 0 25)) else .ok (.jmp (w.extractLsb' 0 25))

/-- Major 7, format R (R188). -/
def decodeJumpReg (w : Word) : Except DecodeError Instr :=
  match (w.extractLsb' 0 6).toNat with
  | 0 => need (!w.getLsbD 6 && fB w == 0#6 && fD w == 0#6) .reservedField <| .ok (.jr (fA w) (w.getLsbD 7))
  | 1 => need (!w.getLsbD 6 && fB w == 0#6) .reservedField <| .ok (.jalr (fD w) (fA w) (w.getLsbD 7))
  | 2 => .ok (.call (fD w) (fA w) (fB w) (w.getLsbD 7) (w.getLsbD 6))
  | 3 => need (!w.getLsbD 6 && fB w == 0#6 && fD w == 0#6) .reservedField <| .ok (.ret (fA w) (w.getLsbD 7))
  | 4 => need (!w.getLsbD 6 && fB w == 0#6 && fD w == 0#6) .reservedField <| .ok (.gset (fA w) (w.getLsbD 7))
  | _ => .error .unassigned

/-- Major 8, format R (R188). -/
def decodeLoopPred (w : Word) : Except DecodeError Instr :=
  match (w.extractLsb' 0 6).toNat with
  | 0 => need (!w.getLsbD 6) .reservedField <| need (fD w != 0#6) .illegalSubfield <| .ok (.loop (fD w) (fA w)
    (fB w) (w.getLsbD 7))
  | 8 => need (w.extractLsb' 24 2 == 0#2 && w.extractLsb' 18 2 == 0#2 && w.extractLsb' 12 2 == 0#2)
    .illegalSubfield <| .ok (.pand (fD w) (fA w) (fB w) (w.getLsbD 7) (w.getLsbD 6))
  | 9 => need (w.extractLsb' 24 2 == 0#2 && w.extractLsb' 18 2 == 0#2 && w.extractLsb' 12 2 == 0#2)
    .illegalSubfield <| .ok (.por (fD w) (fA w) (fB w) (w.getLsbD 7) (w.getLsbD 6))
  | 10 => need (w.extractLsb' 24 2 == 0#2 && w.extractLsb' 18 2 == 0#2 && w.extractLsb' 12 2 == 0#2)
    .illegalSubfield <| .ok (.pxor (fD w) (fA w) (fB w) (w.getLsbD 7) (w.getLsbD 6))
  | 11 => need (w.extractLsb' 24 2 == 0#2 && w.extractLsb' 18 2 == 0#2 && w.extractLsb' 12 2 == 0#2)
    .illegalSubfield <| .ok (.pandn (fD w) (fA w) (fB w) (w.getLsbD 7) (w.getLsbD 6))
  | 12 => need (!w.getLsbD 6 && fB w == 0#6) .reservedField <| need (w.extractLsb' 24 2 == 0#2 && w.extractLsb'
    18 2 == 0#2) .illegalSubfield <| .ok (.pnot (fD w) (fA w) (w.getLsbD 7))
  | 13 => need (!w.getLsbD 6 && fB w == 0#6) .reservedField <| need (w.extractLsb' 18 2 == 0#2)
    .illegalSubfield <| .ok (.pcnt (fD w) (fA w) (w.getLsbD 7))
  | _ => .error .unassigned

/-- Major 9, format L (R188). -/
def decodeLoad (w : Word) : Except DecodeError Instr :=
  .ok (.ld (fD w) (fA w) (w.getLsbD 13) (w.extractLsb' 7 6) (w.extractLsb' 0 7))

/-- Major 10, format S (R188). -/
def decodeStore (w : Word) : Except DecodeError Instr :=
  .ok (.st (fD w) (fA w) (w.getLsbD 13) (w.getLsbD 12) (w.extractLsb' 0 12))

/-- Major 11, format A (R188). -/
def decodeAtomic (w : Word) : Except DecodeError Instr :=
  match (w.extractLsb' 0 6).toNat with
  | 0 => need (!w.getLsbD 6) .reservedField <| field (orderOf (w.extractLsb' 8 3)) fun o => need (aldOrder o)
    .illegalSubfield <| .ok (.ald (fD w) (fA w) (w.getLsbD 13) (scopeOf (w.extractLsb' 11 2)) o (w.getLsbD 7))
  | 1 => need (!w.getLsbD 6) .reservedField <| field (orderOf (w.extractLsb' 8 3)) fun o => need (astOrder o)
    .illegalSubfield <| .ok (.ast (fD w) (fA w) (w.getLsbD 13) (scopeOf (w.extractLsb' 11 2)) o (w.getLsbD 7))
  | 2 => need (!w.getLsbD 6) .reservedField <| field (orderOf (w.extractLsb' 8 3)) fun o => .ok (.atomAdd (fD
    w) (fA w) (w.getLsbD 13) (scopeOf (w.extractLsb' 11 2)) o (w.getLsbD 7))
  | 3 => need (!w.getLsbD 6) .reservedField <| field (orderOf (w.extractLsb' 8 3)) fun o => .ok (.atomAnd (fD
    w) (fA w) (w.getLsbD 13) (scopeOf (w.extractLsb' 11 2)) o (w.getLsbD 7))
  | 4 => need (!w.getLsbD 6) .reservedField <| field (orderOf (w.extractLsb' 8 3)) fun o => .ok (.atomOr (fD w)
    (fA w) (w.getLsbD 13) (scopeOf (w.extractLsb' 11 2)) o (w.getLsbD 7))
  | 5 => need (!w.getLsbD 6) .reservedField <| field (orderOf (w.extractLsb' 8 3)) fun o => .ok (.atomXor (fD
    w) (fA w) (w.getLsbD 13) (scopeOf (w.extractLsb' 11 2)) o (w.getLsbD 7))
  | 6 => need (!w.getLsbD 6) .reservedField <| field (orderOf (w.extractLsb' 8 3)) fun o => .ok (.atomMin (fD
    w) (fA w) (w.getLsbD 13) (scopeOf (w.extractLsb' 11 2)) o (w.getLsbD 7))
  | 7 => need (!w.getLsbD 6) .reservedField <| field (orderOf (w.extractLsb' 8 3)) fun o => .ok (.atomMax (fD
    w) (fA w) (w.getLsbD 13) (scopeOf (w.extractLsb' 11 2)) o (w.getLsbD 7))
  | 8 => need (!w.getLsbD 6) .reservedField <| field (orderOf (w.extractLsb' 8 3)) fun o => .ok (.atomMinu (fD
    w) (fA w) (w.getLsbD 13) (scopeOf (w.extractLsb' 11 2)) o (w.getLsbD 7))
  | 9 => need (!w.getLsbD 6) .reservedField <| field (orderOf (w.extractLsb' 8 3)) fun o => .ok (.atomMaxu (fD
    w) (fA w) (w.getLsbD 13) (scopeOf (w.extractLsb' 11 2)) o (w.getLsbD 7))
  | 10 => need (!w.getLsbD 6) .reservedField <| field (orderOf (w.extractLsb' 8 3)) fun o => .ok (.atomSwap (fD
    w) (fA w) (w.getLsbD 13) (scopeOf (w.extractLsb' 11 2)) o (w.getLsbD 7))
  | 11 => need (!w.getLsbD 6) .reservedField <| need (w.getLsbD 7) .illegalSubfield <| field (orderOf
    (w.extractLsb' 8 3)) fun o => .ok (.atomFadd (fD w) (fA w) (w.getLsbD 13) (scopeOf (w.extractLsb' 11 2)) o)
  | 12 => need (!w.getLsbD 6) .reservedField <| need (w.getLsbD 7) .illegalSubfield <| field (orderOf
    (w.extractLsb' 8 3)) fun o => .ok (.atomFmin (fD w) (fA w) (w.getLsbD 13) (scopeOf (w.extractLsb' 11 2)) o)
  | 13 => need (!w.getLsbD 6) .reservedField <| need (w.getLsbD 7) .illegalSubfield <| field (orderOf
    (w.extractLsb' 8 3)) fun o => .ok (.atomFmax (fD w) (fA w) (w.getLsbD 13) (scopeOf (w.extractLsb' 11 2)) o)
  | 16 => need (!w.getLsbD 6) .reservedField <| need (!w.getLsbD 20) .illegalSubfield <| field (orderOf
    (w.extractLsb' 8 3)) fun o => .ok (.acas (w.extractLsb' 21 5) (fA w) (w.getLsbD 13) (scopeOf (w.extractLsb'
    11 2)) o (w.getLsbD 7))
  | 17 => need (!w.getLsbD 6) .reservedField <| need (!w.getLsbD 7 && w.extractLsb' 20 2 == 0#2)
    .illegalSubfield <| field (orderOf (w.extractLsb' 8 3)) fun o => .ok (.acas2 (w.extractLsb' 22 4) (fA w)
    (w.getLsbD 13) (scopeOf (w.extractLsb' 11 2)) o)
  | 18 => need (!w.getLsbD 6) .reservedField <| need (!w.getLsbD 7) .illegalSubfield <| field (orderOf
    (w.extractLsb' 8 3)) fun o => .ok (.aenq (fD w) (fA w) (w.getLsbD 13) (scopeOf (w.extractLsb' 11 2)) o)
  | 19 => need (!w.getLsbD 6) .reservedField <| need (!w.getLsbD 7) .illegalSubfield <| field (orderOf
    (w.extractLsb' 8 3)) fun o => .ok (.apchase (fD w) (fA w) (w.getLsbD 13) (scopeOf (w.extractLsb' 11 2)) o)
  | 32 => need (!w.getLsbD 6) .reservedField <| field (orderOf (w.extractLsb' 8 3)) fun o => .ok (.aredAdd (fD
    w) (fA w) (w.getLsbD 13) (scopeOf (w.extractLsb' 11 2)) o (w.getLsbD 7))
  | 33 => need (!w.getLsbD 6) .reservedField <| field (orderOf (w.extractLsb' 8 3)) fun o => .ok (.aredAnd (fD
    w) (fA w) (w.getLsbD 13) (scopeOf (w.extractLsb' 11 2)) o (w.getLsbD 7))
  | 34 => need (!w.getLsbD 6) .reservedField <| field (orderOf (w.extractLsb' 8 3)) fun o => .ok (.aredOr (fD
    w) (fA w) (w.getLsbD 13) (scopeOf (w.extractLsb' 11 2)) o (w.getLsbD 7))
  | 35 => need (!w.getLsbD 6) .reservedField <| field (orderOf (w.extractLsb' 8 3)) fun o => .ok (.aredXor (fD
    w) (fA w) (w.getLsbD 13) (scopeOf (w.extractLsb' 11 2)) o (w.getLsbD 7))
  | 36 => need (!w.getLsbD 6) .reservedField <| field (orderOf (w.extractLsb' 8 3)) fun o => .ok (.aredMin (fD
    w) (fA w) (w.getLsbD 13) (scopeOf (w.extractLsb' 11 2)) o (w.getLsbD 7))
  | 37 => need (!w.getLsbD 6) .reservedField <| field (orderOf (w.extractLsb' 8 3)) fun o => .ok (.aredMax (fD
    w) (fA w) (w.getLsbD 13) (scopeOf (w.extractLsb' 11 2)) o (w.getLsbD 7))
  | 38 => need (!w.getLsbD 6) .reservedField <| field (orderOf (w.extractLsb' 8 3)) fun o => .ok (.aredMinu (fD
    w) (fA w) (w.getLsbD 13) (scopeOf (w.extractLsb' 11 2)) o (w.getLsbD 7))
  | 39 => need (!w.getLsbD 6) .reservedField <| field (orderOf (w.extractLsb' 8 3)) fun o => .ok (.aredMaxu (fD
    w) (fA w) (w.getLsbD 13) (scopeOf (w.extractLsb' 11 2)) o (w.getLsbD 7))
  | 40 => need (!w.getLsbD 6) .reservedField <| need (w.getLsbD 7) .illegalSubfield <| field (orderOf
    (w.extractLsb' 8 3)) fun o => .ok (.aredFadd (fD w) (fA w) (w.getLsbD 13) (scopeOf (w.extractLsb' 11 2)) o)
  | 41 => need (!w.getLsbD 6) .reservedField <| need (w.getLsbD 7) .illegalSubfield <| field (orderOf
    (w.extractLsb' 8 3)) fun o => .ok (.aredFmin (fD w) (fA w) (w.getLsbD 13) (scopeOf (w.extractLsb' 11 2)) o)
  | 42 => need (!w.getLsbD 6) .reservedField <| need (w.getLsbD 7) .illegalSubfield <| field (orderOf
    (w.extractLsb' 8 3)) fun o => .ok (.aredFmax (fD w) (fA w) (w.getLsbD 13) (scopeOf (w.extractLsb' 11 2)) o)
  | _ => .error .unassigned

/-- Major 12, format VM (R188). -/
def decodeVecMem (w : Word) : Except DecodeError Instr :=
  match (w.extractLsb' 0 3).toNat with
  | 0 => need (w.extractLsb' 3 4 == 0#4) .reservedField <| .ok (.vld (fD w) (fA w) (w.getLsbD 13)
    (w.extractLsb' 7 6))
  | 1 => need (w.extractLsb' 7 6 == 0#6) .reservedField <| .ok (.vstW (fD w) (fA w) (w.getLsbD 13)
    (w.extractLsb' 3 4))
  | 2 => need (w.extractLsb' 7 6 == 0#6) .reservedField <| .ok (.vstH (fD w) (fA w) (w.getLsbD 13)
    (w.extractLsb' 3 4))
  | 3 => need (w.extractLsb' 7 6 == 0#6) .reservedField <| .ok (.vstB (fD w) (fA w) (w.getLsbD 13)
    (w.extractLsb' 3 4))
  | _ => .error .unassigned

/-- Major 13, format G (R188). -/
def decodeGather (w : Word) : Except DecodeError Instr :=
  match (w.extractLsb' 0 3).toNat with
  | 0 => .ok (.vgather (fD w) (fA w) (fB w) (w.getLsbD 7) (w.extractLsb' 3 4))
  | 1 => .ok (.vscatter (fD w) (fA w) (fB w) (w.getLsbD 7) (w.extractLsb' 3 4))
  | _ => .error .unassigned

/-- Major 14, format V (R188). -/
def decodeVecInt (w : Word) : Except DecodeError Instr :=
  match (w.extractLsb' 0 3).toNat with
  | 0 => .ok (.vadd (fD w) (fA w) (fB w) (w.getLsbD 7) (w.extractLsb' 3 4))
  | 1 => .ok (.vsub (fD w) (fA w) (fB w) (w.getLsbD 7) (w.extractLsb' 3 4))
  | 2 => .ok (.vmul (fD w) (fA w) (fB w) (w.getLsbD 7) (w.extractLsb' 3 4))
  | 3 => .ok (.vmin (fD w) (fA w) (fB w) (w.getLsbD 7) (w.extractLsb' 3 4))
  | 4 => .ok (.vmax (fD w) (fA w) (fB w) (w.getLsbD 7) (w.extractLsb' 3 4))
  | 5 => .ok (.vand (fD w) (fA w) (fB w) (w.getLsbD 7) (w.extractLsb' 3 4))
  | 6 => .ok (.vor (fD w) (fA w) (fB w) (w.getLsbD 7) (w.extractLsb' 3 4))
  | 7 => .ok (.vxor (fD w) (fA w) (fB w) (w.getLsbD 7) (w.extractLsb' 3 4))
  | _ => .error .unassigned

/-- Major 15, format V (R188). -/
def decodeVecFp (w : Word) : Except DecodeError Instr :=
  match (w.extractLsb' 0 3).toNat with
  | 0 => .ok (.vfadd (fD w) (fA w) (fB w) (w.getLsbD 7) (w.extractLsb' 3 4))
  | 1 => .ok (.vfsub (fD w) (fA w) (fB w) (w.getLsbD 7) (w.extractLsb' 3 4))
  | 2 => .ok (.vfmul (fD w) (fA w) (fB w) (w.getLsbD 7) (w.extractLsb' 3 4))
  | 3 => .ok (.vfdiv (fD w) (fA w) (fB w) (w.getLsbD 7) (w.extractLsb' 3 4))
  | 4 => .ok (.vfmin (fD w) (fA w) (fB w) (w.getLsbD 7) (w.extractLsb' 3 4))
  | 5 => .ok (.vfmax (fD w) (fA w) (fB w) (w.getLsbD 7) (w.extractLsb' 3 4))
  | 6 => need (fB w == 0#6) .reservedField <| .ok (.vfsqrt (fD w) (fA w) (w.getLsbD 7) (w.extractLsb' 3 4))
  | 7 => need (fB w == 0#6) .reservedField <| .ok (.vfabs (fD w) (fA w) (w.getLsbD 7) (w.extractLsb' 3 4))
  | _ => .error .unassigned

/-- Major 16, format V (R188). -/
def decodeVecFma (w : Word) : Except DecodeError Instr :=
  match (w.extractLsb' 0 3).toNat with
  | 0 => .ok (.vfma (fD w) (fA w) (fB w) (w.getLsbD 7) (w.extractLsb' 3 4))
  | 1 => .ok (.vfms (fD w) (fA w) (fB w) (w.getLsbD 7) (w.extractLsb' 3 4))
  | 2 => .ok (.vfnma (fD w) (fA w) (fB w) (w.getLsbD 7) (w.extractLsb' 3 4))
  | 3 => .ok (.vfnms (fD w) (fA w) (fB w) (w.getLsbD 7) (w.extractLsb' 3 4))
  | 4 => .ok (.vmad (fD w) (fA w) (fB w) (w.getLsbD 7) (w.extractLsb' 3 4))
  | 5 => .ok (.vdot4 (fD w) (fA w) (fB w) (w.getLsbD 7) (w.extractLsb' 3 4))
  | _ => .error .unassigned

/-- Major 17, format VC (R188). -/
def decodeConvert (w : Word) : Except DecodeError Instr :=
  field (rndOf (w.extractLsb' 11 3)) fun r => need (cvtOf (w.extractLsb' 8 3) != cvtOf (w.extractLsb' 0 3))
    .illegalSubfield <| need (satAllowed (cvtOf (w.extractLsb' 0 3)) || !w.getLsbD 7) .reservedField <| .ok
    (.vcvt (fD w) (fA w) r (cvtOf (w.extractLsb' 8 3)) (w.getLsbD 7) (w.extractLsb' 3 4) (cvtOf (w.extractLsb'
    0 3)))

/-- Major 18, format V (R188). -/
def decodeVecMove (w : Word) : Except DecodeError Instr :=
  match (w.extractLsb' 0 3).toNat with
  | 0 => .ok (.vshl (fD w) (fA w) (fB w) (w.getLsbD 7) (w.extractLsb' 3 4))
  | 1 => .ok (.vshr (fD w) (fA w) (fB w) (w.getLsbD 7) (w.extractLsb' 3 4))
  | 2 => .ok (.vshra (fD w) (fA w) (fB w) (w.getLsbD 7) (w.extractLsb' 3 4))
  | 3 => .ok (.vperm (fD w) (fA w) (fB w) (w.getLsbD 7) (w.extractLsb' 3 4))
  | 4 => need (w.extractLsb' 9 5 == 0#5) .reservedField <| .ok (.vbcast (fD w) (fA w) (w.getLsbD 8) (w.getLsbD
    7) (w.extractLsb' 3 4))
  | 5 => field (redOf (fB w)) fun o => .ok (.vred (fD w) (fA w) o (w.getLsbD 7) (w.extractLsb' 3 4))
  | 6 => need (w.extractLsb' 3 4 == 0#4 && w.extractLsb' 8 3 == 0#3) .reservedField <| field (partOf
    (w.extractLsb' 11 3)) fun q => .ok (.vpack (fD w) (fA w) q (w.getLsbD 7))
  | 7 => need (w.extractLsb' 3 4 == 0#4 && w.extractLsb' 8 3 == 0#3) .reservedField <| field (partOf
    (w.extractLsb' 11 3)) fun q => .ok (.vunpack (fD w) (fA w) q (w.getLsbD 7))
  | _ => .error .unassigned

/-- Major 19, format V (R188). -/
def decodeSpecial (w : Word) : Except DecodeError Instr :=
  match (w.extractLsb' 0 3).toNat with
  | 0 => need (fB w == 0#6) .reservedField <| .ok (.vexp2 (fD w) (fA w) (w.getLsbD 7) (w.extractLsb' 3 4))
  | 1 => need (fB w == 0#6) .reservedField <| .ok (.vlog2 (fD w) (fA w) (w.getLsbD 7) (w.extractLsb' 3 4))
  | 2 => need (fB w == 0#6) .reservedField <| .ok (.vrcp (fD w) (fA w) (w.getLsbD 7) (w.extractLsb' 3 4))
  | 3 => need (fB w == 0#6) .reservedField <| .ok (.vrsqrt (fD w) (fA w) (w.getLsbD 7) (w.extractLsb' 3 4))
  | 4 => need (fB w == 0#6) .reservedField <| .ok (.vsinpi (fD w) (fA w) (w.getLsbD 7) (w.extractLsb' 3 4))
  | 5 => need (fB w == 0#6) .reservedField <| .ok (.vtanh (fD w) (fA w) (w.getLsbD 7) (w.extractLsb' 3 4))
  | 6 => need (fB w == 0#6) .reservedField <| .ok (.vrng (fD w) (fA w) (w.getLsbD 7) (w.extractLsb' 3 4))
  | 7 => need (w.extractLsb' 8 2 == 0#2) .reservedField <| field (elemOf (w.extractLsb' 10 4)) fun f => need (f
    != .bf16) .illegalSubfield <| .ok (.vqnt (fD w) (fA w) f (w.getLsbD 7) (w.extractLsb' 3 4))
  | _ => .error .unassigned

/-- Major 20, format V (R188). -/
def decodeVecCmp (w : Word) : Except DecodeError Instr :=
  match (w.extractLsb' 0 3).toNat with
  | 0 => need (w.extractLsb' 24 2 == 0#2) .illegalSubfield <| .ok (.vcmpeq (w.extractLsb' 20 4) (fA w) (fB w)
    (w.getLsbD 7) (w.extractLsb' 3 4))
  | 1 => need (w.extractLsb' 24 2 == 0#2) .illegalSubfield <| .ok (.vcmplt (w.extractLsb' 20 4) (fA w) (fB w)
    (w.getLsbD 7) (w.extractLsb' 3 4))
  | 2 => need (w.extractLsb' 24 2 == 0#2) .illegalSubfield <| .ok (.vcmple (w.extractLsb' 20 4) (fA w) (fB w)
    (w.getLsbD 7) (w.extractLsb' 3 4))
  | 3 => need (w.extractLsb' 24 2 == 0#2) .illegalSubfield <| .ok (.vfcmpeq (w.extractLsb' 20 4) (fA w) (fB w)
    (w.getLsbD 7) (w.extractLsb' 3 4))
  | 4 => need (w.extractLsb' 24 2 == 0#2) .illegalSubfield <| .ok (.vfcmplt (w.extractLsb' 20 4) (fA w) (fB w)
    (w.getLsbD 7) (w.extractLsb' 3 4))
  | 5 => need (w.extractLsb' 24 2 == 0#2) .illegalSubfield <| .ok (.vfcmple (w.extractLsb' 20 4) (fA w) (fB w)
    (w.getLsbD 7) (w.extractLsb' 3 4))
  | 6 => .ok (.vsel (fD w) (fA w) (fB w) (w.getLsbD 7) (w.extractLsb' 3 4))
  | 7 => need (fB w == 0#6) .reservedField <| need (w.extractLsb' 24 2 == 0#2) .illegalSubfield <| .ok (.vmsk
    (w.extractLsb' 20 4) (fA w) (w.getLsbD 7) (w.extractLsb' 3 4))
  | _ => .error .unassigned

/-- Major 21, format R (R188). -/
def decodeArray (w : Word) : Except DecodeError Instr :=
  match (w.extractLsb' 0 6).toNat with
  | 0 => need (w.extractLsb' 6 20 == 0#20) .reservedField <| .ok (.mlease)
  | 1 => need (w.extractLsb' 6 20 == 0#20) .reservedField <| .ok (.mrel)
  | 2 => need (w.extractLsb' 6 2 == 0#2 && w.extractLsb' 14 12 == 0#12) .reservedField <| need (w.extractLsb'
    10 4 == 0#4) .illegalSubfield <| .ok (.mclr (w.extractLsb' 8 2))
  | 3 => need (!w.getLsbD 6 && fB w == 0#6) .reservedField <| need (w.extractLsb' 23 3 == 0#3) .illegalSubfield
    <| .ok (.mofs (w.extractLsb' 20 3) (fA w) (w.getLsbD 7))
  | 4 => need (w.extractLsb' 6 2 == 0#2 && fA w == 0#6) .reservedField <| field (mstatOf (fB w)) fun k => .ok
    (.mstat (fD w) k)
  | _ => .error .unassigned

/-- Major 22, format M (R188). -/
def decodeMatrix (w : Word) : Except DecodeError Instr :=
  match (w.extractLsb' 0 6).toNat with
  | 0 => need (!w.getLsbD 6) .reservedField <| need (!w.getLsbD 14 && !w.getLsbD 20) .illegalSubfield <| .ok
    (.mma (w.extractLsb' 21 5) (w.extractLsb' 15 5) (w.extractLsb' 11 3) (w.extractLsb' 8 3) (w.getLsbD 7))
  | 1 => need (!w.getLsbD 6) .reservedField <| need (!w.getLsbD 14 && !w.getLsbD 20) .illegalSubfield <| .ok
    (.mmaw (w.extractLsb' 21 5) (w.extractLsb' 15 5) (w.extractLsb' 11 3) (w.extractLsb' 8 3) (w.getLsbD 7))
  | _ => .error .unassigned

/-- Major 23, format MD (R188). -/
def decodeDrain (w : Word) : Except DecodeError Instr :=
  match (w.extractLsb' 0 6).toNat with
  | 0 => need (!w.getLsbD 6 && w.extractLsb' 16 4 == 0#4) .reservedField <| need (!w.getLsbD 20)
    .illegalSubfield <| field (rndOf (w.extractLsb' 11 3)) fun r => field (drainOf (w.extractLsb' 8 3)) fun f
    => .ok (.mdrain (w.extractLsb' 21 5) (w.extractLsb' 14 2) r f (w.getLsbD 7))
  | _ => .error .unassigned

/-- Major 24, format R (R188). -/
def decodeCopy (w : Word) : Except DecodeError Instr :=
  match (w.extractLsb' 0 6).toNat with
  | 0 => need (w.extractLsb' 14 2 == 0#2 && w.extractLsb' 16 4 != 0#4) .illegalSubfield <| .ok (.cpy (fD w)
    (w.extractLsb' 16 4) (fB w) (w.getLsbD 7) (w.getLsbD 6))
  | 1 => need (w.extractLsb' 14 2 == 0#2 && w.extractLsb' 16 4 != 0#4) .illegalSubfield <| .ok (.cpyh (fD w)
    (w.extractLsb' 16 4) (fB w) (w.getLsbD 7) (w.getLsbD 6))
  | 2 => need (!w.getLsbD 6 && fB w == 0#6 && fD w == 0#6) .reservedField <| .ok (.stage (fA w) (w.getLsbD 7))
  | _ => .error .unassigned

/-- Major 25, format R (R188). -/
def decodeCopyPage (w : Word) : Except DecodeError Instr :=
  match (w.extractLsb' 0 6).toNat with
  | 0 => need (w.extractLsb' 14 2 == 0#2 && w.extractLsb' 16 4 != 0#4) .illegalSubfield <| .ok (.cpyp (fD w)
    (w.extractLsb' 16 4) (fB w) (w.getLsbD 7) (w.getLsbD 6))
  | 1 => need (w.extractLsb' 14 2 == 0#2 && w.extractLsb' 16 4 != 0#4) .illegalSubfield <| .ok (.cpye (fD w)
    (w.extractLsb' 16 4) (fB w) (w.getLsbD 7) (w.getLsbD 6))
  | _ => .error .unassigned

/-- Major 26, format R (R188). -/
def decodeRemote (w : Word) : Except DecodeError Instr :=
  match (w.extractLsb' 0 6).toNat with
  | 0 => .ok (.rld (fD w) (fA w) (fB w) (w.getLsbD 7) (w.getLsbD 6))
  | 1 => .ok (.rst (fD w) (fA w) (fB w) (w.getLsbD 7) (w.getLsbD 6))
  | 8 => .ok (.ratAdd (fD w) (fA w) (fB w) (w.getLsbD 7) (w.getLsbD 6))
  | 9 => .ok (.ratAnd (fD w) (fA w) (fB w) (w.getLsbD 7) (w.getLsbD 6))
  | 10 => .ok (.ratOr (fD w) (fA w) (fB w) (w.getLsbD 7) (w.getLsbD 6))
  | 11 => .ok (.ratXor (fD w) (fA w) (fB w) (w.getLsbD 7) (w.getLsbD 6))
  | 12 => .ok (.ratMin (fD w) (fA w) (fB w) (w.getLsbD 7) (w.getLsbD 6))
  | 13 => .ok (.ratMax (fD w) (fA w) (fB w) (w.getLsbD 7) (w.getLsbD 6))
  | 14 => .ok (.ratSwap (fD w) (fA w) (fB w) (w.getLsbD 7) (w.getLsbD 6))
  | 15 => need (!w.getLsbD 20) .illegalSubfield <| .ok (.ratCas (w.extractLsb' 21 5) (fA w) (fB w) (w.getLsbD
    7) (w.getLsbD 6))
  | 16 => .ok (.rredAdd (fD w) (fA w) (fB w) (w.getLsbD 7) (w.getLsbD 6))
  | 17 => .ok (.rredAnd (fD w) (fA w) (fB w) (w.getLsbD 7) (w.getLsbD 6))
  | 18 => .ok (.rredOr (fD w) (fA w) (fB w) (w.getLsbD 7) (w.getLsbD 6))
  | 19 => .ok (.rredXor (fD w) (fA w) (fB w) (w.getLsbD 7) (w.getLsbD 6))
  | 20 => .ok (.rredMin (fD w) (fA w) (fB w) (w.getLsbD 7) (w.getLsbD 6))
  | 21 => .ok (.rredMax (fD w) (fA w) (fB w) (w.getLsbD 7) (w.getLsbD 6))
  | 22 => .ok (.rredFadd (fD w) (fA w) (fB w) (w.getLsbD 7) (w.getLsbD 6))
  | 23 => .ok (.rredFmin (fD w) (fA w) (fB w) (w.getLsbD 7) (w.getLsbD 6))
  | 24 => .ok (.rredFmax (fD w) (fA w) (fB w) (w.getLsbD 7) (w.getLsbD 6))
  | _ => .error .unassigned

/-- Major 27, format R (R188). -/
def decodeFabric (w : Word) : Except DecodeError Instr :=
  match (w.extractLsb' 0 6).toNat with
  | 0 => need (!w.getLsbD 6 && fB w == 0#6 && fD w == 0#6) .reservedField <| .ok (.post (fA w) (w.getLsbD 7))
  | 1 => need (fD w == 0#6) .reservedField <| .ok (.trig (fA w) (fB w) (w.getLsbD 7) (w.getLsbD 6))
  | 2 => .ok (.ticket (fD w) (fA w) (fB w) (w.getLsbD 7) (w.getLsbD 6))
  | 3 => need (fD w == 0#6) .reservedField <| .ok (.flagadd (fA w) (fB w) (w.getLsbD 7) (w.getLsbD 6))
  | 4 => .ok (.flagset (fD w) (fA w) (fB w) (w.getLsbD 7) (w.getLsbD 6))
  | 5 => need (fD w == 0#6) .reservedField <| .ok (.barg (fA w) (fB w) (w.getLsbD 7) (w.getLsbD 6))
  | _ => .error .unassigned

/-- Major 28, format R (R188). -/
def decodeWait (w : Word) : Except DecodeError Instr :=
  match (w.extractLsb' 0 6).toNat with
  | 0 => need (fD w == 0#6) .reservedField <| .ok (.waitge (fA w) (fB w) (w.getLsbD 7) (w.getLsbD 6))
  | 1 => need (fD w == 0#6) .reservedField <| .ok (.armcnt (fA w) (fB w) (w.getLsbD 7) (w.getLsbD 6))
  | 2 => need (fD w == 0#6) .reservedField <| .ok (.bar (fA w) (fB w) (w.getLsbD 7) (w.getLsbD 6))
  | _ => .error .unassigned

/-- The opcode map (R188): the major of bits [30:26] selects. Majors 29 to 31 are reserved (R191). -/
def decodeOp (w : Word) : Except DecodeError Instr :=
  match (w.extractLsb' 26 5).toNat with
  | 0 => decodeSystem w
  | 1 => decodeAlu w
  | 2 => decodeAddi w
  | 3 => decodeMulDiv w
  | 4 => decodeImm w
  | 5 => decodeBranch w
  | 6 => decodeJump w
  | 7 => decodeJumpReg w
  | 8 => decodeLoopPred w
  | 9 => decodeLoad w
  | 10 => decodeStore w
  | 11 => decodeAtomic w
  | 12 => decodeVecMem w
  | 13 => decodeGather w
  | 14 => decodeVecInt w
  | 15 => decodeVecFp w
  | 16 => decodeVecFma w
  | 17 => decodeConvert w
  | 18 => decodeVecMove w
  | 19 => decodeSpecial w
  | 20 => decodeVecCmp w
  | 21 => decodeArray w
  | 22 => decodeMatrix w
  | 23 => decodeDrain w
  | 24 => decodeCopy w
  | 25 => decodeCopyPage w
  | 26 => decodeRemote w
  | 27 => decodeFabric w
  | 28 => decodeWait w
  | _ => .error .reservedMajor

/-- Decode a word into its chain bit and its instruction (R173, R188, R191). -/
def decode (w : Word) : Except DecodeError (Bool × Instr) :=
  match decodeOp w with
  | .ok i => .ok (w.getLsbD 31, i)
  | .error e => .error e

/-- The instruction the decoder reads from an instruction of the opcode table whose bits are w. Every word of the
MB4 has 32 bits (R173); an event has no encoding. -/
def decodeTableWord (nbits w : Nat) : Option Instr :=
  if nbits = 0 then none
  else match decode (BitVec.ofNat 32 w) with
    | .ok (_, i) => some i
    | .error _ => none

/-! ## Formats (R181) -/

def fmtR (c : Bool) (maj : BitVec 5) (d a b : BitVec 6) (t u : Bool) (f : BitVec 6) : Word :=
  BitVec.ofBool c ++ maj ++ d ++ a ++ b ++ BitVec.ofBool t ++ BitVec.ofBool u ++ f

def fmtI (c : Bool) (maj : BitVec 5) (d a : BitVec 6) (t : Bool) (i : BitVec 13) : Word :=
  BitVec.ofBool c ++ maj ++ d ++ a ++ BitVec.ofBool t ++ i

def fmtW (c : Bool) (maj : BitVec 5) (d : BitVec 6) (q op : BitVec 2) (i : BitVec 16) : Word :=
  BitVec.ofBool c ++ maj ++ d ++ q ++ op ++ i

def fmtB (c : Bool) (maj : BitVec 5) (a b : BitVec 6) (t : Bool) (cond : BitVec 3) (o : BitVec 10) : Word :=
  BitVec.ofBool c ++ maj ++ a ++ b ++ BitVec.ofBool t ++ cond ++ o

def fmtJ (c : Bool) (maj : BitVec 5) (link : Bool) (o : BitVec 25) : Word :=
  BitVec.ofBool c ++ maj ++ BitVec.ofBool link ++ o

def fmtL (c : Bool) (maj : BitVec 5) (d b : BitVec 6) (t : Bool) (l : BitVec 6) (o : BitVec 7) : Word :=
  BitVec.ofBool c ++ maj ++ d ++ b ++ BitVec.ofBool t ++ l ++ o

def fmtS (c : Bool) (maj : BitVec 5) (s b : BitVec 6) (t u : Bool) (o : BitVec 12) : Word :=
  BitVec.ofBool c ++ maj ++ s ++ b ++ BitVec.ofBool t ++ BitVec.ofBool u ++ o

def fmtA (c : Bool) (maj : BitVec 5) (d a : BitVec 6) (t : Bool) (s : BitVec 2) (o : BitVec 3) (z r : Bool)
    (f : BitVec 6) : Word :=
  BitVec.ofBool c ++ maj ++ d ++ a ++ BitVec.ofBool t ++ s ++ o ++ BitVec.ofBool z ++ BitVec.ofBool r ++ f

def fmtVM (c : Bool) (maj : BitVec 5) (v b : BitVec 6) (t : Bool) (l : BitVec 6) (p : BitVec 4) (f : BitVec 3) :
    Word :=
  BitVec.ofBool c ++ maj ++ v ++ b ++ BitVec.ofBool t ++ l ++ p ++ f

/-- Formats V and G have the same layout. -/
def fmtV (c : Bool) (maj : BitVec 5) (d a b : BitVec 6) (t : Bool) (p : BitVec 4) (f : BitVec 3) : Word :=
  BitVec.ofBool c ++ maj ++ d ++ a ++ b ++ BitVec.ofBool t ++ p ++ f

def fmtVC (c : Bool) (maj : BitVec 5) (d a : BitVec 6) (r s : BitVec 3) (z : Bool) (p : BitVec 4) (g : BitVec 3) :
    Word :=
  BitVec.ofBool c ++ maj ++ d ++ a ++ r ++ s ++ BitVec.ofBool z ++ p ++ g

def fmtM (c : Bool) (maj : BitVec 5) (w a : BitVec 6) (x y : BitVec 3) (t r : Bool) (f : BitVec 6) : Word :=
  BitVec.ofBool c ++ maj ++ w ++ a ++ x ++ y ++ BitVec.ofBool t ++ BitVec.ofBool r ++ f

def fmtMD (c : Bool) (maj : BitVec 5) (d : BitVec 6) (rsv : BitVec 4) (k : BitVec 2) (m fmt : BitVec 3)
    (t r : Bool) (f : BitVec 6) : Word :=
  BitVec.ofBool c ++ maj ++ d ++ rsv ++ k ++ m ++ fmt ++ BitVec.ofBool t ++ BitVec.ofBool r ++ f


/-- The words of an instruction, with its chain bit c: one word for a word instruction, none for an event
(R173, R181). -/
def encode (c : Bool) (i : Instr) : List Word :=
  match i with
  | .nop => [fmtR c 0#5 0#6 0#6 0#6 false false 0#6]
  | .trap a k t => [fmtR c 0#5 0#6 a k t false 1#6]
  | .eret => [fmtR c 0#5 0#6 0#6 0#6 false false 2#6]
  | .rdsr d s => [fmtR c 0#5 d 0#6 (sysRegCode s) false false 3#6]
  | .wrsr a s t => [fmtR c 0#5 0#6 a (sysRegCode s) t false 4#6]
  | .snaprd d a t => [fmtR c 0#5 d a 0#6 t false 5#6]
  | .snapwr a b t u => [fmtR c 0#5 0#6 a b t u 6#6]
  | .fenceS => [fmtR c 0#5 0#6 0#6 0#6 false false 7#6]
  | .fenceD => [fmtR c 0#5 0#6 0#6 0#6 false false 8#6]
  | .fenceY => [fmtR c 0#5 0#6 0#6 0#6 false false 9#6]
  | .suspend => [fmtR c 0#5 0#6 0#6 0#6 false false 10#6]
  | .endstep => [fmtR c 0#5 0#6 0#6 0#6 false false 11#6]
  | .exit a t => [fmtR c 0#5 0#6 a 0#6 t false 12#6]
  | .launch d a t => [fmtR c 0#5 d a 0#6 t false 13#6]
  | .deadline a b t u => [fmtR c 0#5 0#6 a b t u 14#6]
  | .swpt j => [fmtR c 0#5 0#6 (j.extractLsb' 6 6) (j.extractLsb' 0 6) false false 15#6]
  | .waitge a b t u => [fmtR c 28#5 0#6 a b t u 0#6]
  | .armcnt a b t u => [fmtR c 28#5 0#6 a b t u 1#6]
  | .bar a b t u => [fmtR c 28#5 0#6 a b t u 2#6]
  | .add d a b t u => [fmtR c 1#5 d a b t u 0#6]
  | .sub d a b t u => [fmtR c 1#5 d a b t u 1#6]
  | .and d a b t u => [fmtR c 1#5 d a b t u 2#6]
  | .or d a b t u => [fmtR c 1#5 d a b t u 3#6]
  | .xor d a b t u => [fmtR c 1#5 d a b t u 4#6]
  | .andn d a b t u => [fmtR c 1#5 d a b t u 5#6]
  | .sll d a b t u => [fmtR c 1#5 d a b t u 6#6]
  | .srl d a b t u => [fmtR c 1#5 d a b t u 7#6]
  | .sra d a b t u => [fmtR c 1#5 d a b t u 8#6]
  | .rotl d a b t u => [fmtR c 1#5 d a b t u 9#6]
  | .slt d a b t u => [fmtR c 1#5 d a b t u 10#6]
  | .sltu d a b t u => [fmtR c 1#5 d a b t u 11#6]
  | .seq d a b t u => [fmtR c 1#5 d a b t u 12#6]
  | .min d a b t u => [fmtR c 1#5 d a b t u 13#6]
  | .max d a b t u => [fmtR c 1#5 d a b t u 14#6]
  | .minu d a b t u => [fmtR c 1#5 d a b t u 15#6]
  | .maxu d a b t u => [fmtR c 1#5 d a b t u 16#6]
  | .clz d a t => [fmtR c 1#5 d a 0#6 t false 17#6]
  | .popc d a t => [fmtR c 1#5 d a 0#6 t false 18#6]
  | .slli d a k t => [fmtR c 1#5 d a k t false 20#6]
  | .srli d a k t => [fmtR c 1#5 d a k t false 21#6]
  | .srai d a k t => [fmtR c 1#5 d a k t false 22#6]
  | .rotli d a k t => [fmtR c 1#5 d a k t false 23#6]
  | .addi d a t i => [fmtI c 2#5 d a t i]
  | .mul d a b t u => [fmtR c 3#5 d a b t u 0#6]
  | .mulh d a b t u => [fmtR c 3#5 d a b t u 1#6]
  | .mulhu d a b t u => [fmtR c 3#5 d a b t u 2#6]
  | .mulhsu d a b t u => [fmtR c 3#5 d a b t u 3#6]
  | .div d a b t u => [fmtR c 3#5 d a b t u 4#6]
  | .divu d a b t u => [fmtR c 3#5 d a b t u 5#6]
  | .rem d a b t u => [fmtR c 3#5 d a b t u 6#6]
  | .remu d a b t u => [fmtR c 3#5 d a b t u 7#6]
  | .li d q i => [fmtW c 4#5 d q 0#2 i]
  | .lik d q i => [fmtW c 4#5 d q 1#2 i]
  | .beq a b t o => [fmtB c 5#5 a b t 0#3 o]
  | .bne a b t o => [fmtB c 5#5 a b t 1#3 o]
  | .blt a b t o => [fmtB c 5#5 a b t 2#3 o]
  | .bge a b t o => [fmtB c 5#5 a b t 3#3 o]
  | .bltu a b t o => [fmtB c 5#5 a b t 4#3 o]
  | .bgeu a b t o => [fmtB c 5#5 a b t 5#3 o]
  | .jmp o => [fmtJ c 6#5 false o]
  | .jal o => [fmtJ c 6#5 true o]
  | .jr a t => [fmtR c 7#5 0#6 a 0#6 t false 0#6]
  | .jalr d a t => [fmtR c 7#5 d a 0#6 t false 1#6]
  | .call d a b t u => [fmtR c 7#5 d a b t u 2#6]
  | .ret a t => [fmtR c 7#5 0#6 a 0#6 t false 3#6]
  | .gset a t => [fmtR c 7#5 0#6 a 0#6 t false 4#6]
  | .loop l a e t => [fmtR c 8#5 l a e t false 0#6]
  | .pand d a b t u => [fmtR c 8#5 d a b t u 8#6]
  | .por d a b t u => [fmtR c 8#5 d a b t u 9#6]
  | .pxor d a b t u => [fmtR c 8#5 d a b t u 10#6]
  | .pandn d a b t u => [fmtR c 8#5 d a b t u 11#6]
  | .pnot d a t => [fmtR c 8#5 d a 0#6 t false 12#6]
  | .pcnt d a t => [fmtR c 8#5 d a 0#6 t false 13#6]
  | .ld d b t l o => [fmtL c 9#5 d b t l o]
  | .st s b t u o => [fmtS c 10#5 s b t u o]
  | .ald d a t s o z => [fmtA c 11#5 d a t (scopeCode s) (orderCode o) z false 0#6]
  | .ast d a t s o z => [fmtA c 11#5 d a t (scopeCode s) (orderCode o) z false 1#6]
  | .atomAdd d a t s o z => [fmtA c 11#5 d a t (scopeCode s) (orderCode o) z false 2#6]
  | .atomAnd d a t s o z => [fmtA c 11#5 d a t (scopeCode s) (orderCode o) z false 3#6]
  | .atomOr d a t s o z => [fmtA c 11#5 d a t (scopeCode s) (orderCode o) z false 4#6]
  | .atomXor d a t s o z => [fmtA c 11#5 d a t (scopeCode s) (orderCode o) z false 5#6]
  | .atomMin d a t s o z => [fmtA c 11#5 d a t (scopeCode s) (orderCode o) z false 6#6]
  | .atomMax d a t s o z => [fmtA c 11#5 d a t (scopeCode s) (orderCode o) z false 7#6]
  | .atomMinu d a t s o z => [fmtA c 11#5 d a t (scopeCode s) (orderCode o) z false 8#6]
  | .atomMaxu d a t s o z => [fmtA c 11#5 d a t (scopeCode s) (orderCode o) z false 9#6]
  | .atomSwap d a t s o z => [fmtA c 11#5 d a t (scopeCode s) (orderCode o) z false 10#6]
  | .atomFadd d a t s o => [fmtA c 11#5 d a t (scopeCode s) (orderCode o) true false 11#6]
  | .atomFmin d a t s o => [fmtA c 11#5 d a t (scopeCode s) (orderCode o) true false 12#6]
  | .atomFmax d a t s o => [fmtA c 11#5 d a t (scopeCode s) (orderCode o) true false 13#6]
  | .acas d a t s o z => [fmtA c 11#5 (d ++ 0#1) a t (scopeCode s) (orderCode o) z false 16#6]
  | .acas2 d a t s o => [fmtA c 11#5 (d ++ 0#2) a t (scopeCode s) (orderCode o) false false 17#6]
  | .aenq d a t s o => [fmtA c 11#5 d a t (scopeCode s) (orderCode o) false false 18#6]
  | .apchase d a t s o => [fmtA c 11#5 d a t (scopeCode s) (orderCode o) false false 19#6]
  | .aredAdd d a t s o z => [fmtA c 11#5 d a t (scopeCode s) (orderCode o) z false 32#6]
  | .aredAnd d a t s o z => [fmtA c 11#5 d a t (scopeCode s) (orderCode o) z false 33#6]
  | .aredOr d a t s o z => [fmtA c 11#5 d a t (scopeCode s) (orderCode o) z false 34#6]
  | .aredXor d a t s o z => [fmtA c 11#5 d a t (scopeCode s) (orderCode o) z false 35#6]
  | .aredMin d a t s o z => [fmtA c 11#5 d a t (scopeCode s) (orderCode o) z false 36#6]
  | .aredMax d a t s o z => [fmtA c 11#5 d a t (scopeCode s) (orderCode o) z false 37#6]
  | .aredMinu d a t s o z => [fmtA c 11#5 d a t (scopeCode s) (orderCode o) z false 38#6]
  | .aredMaxu d a t s o z => [fmtA c 11#5 d a t (scopeCode s) (orderCode o) z false 39#6]
  | .aredFadd d a t s o => [fmtA c 11#5 d a t (scopeCode s) (orderCode o) true false 40#6]
  | .aredFmin d a t s o => [fmtA c 11#5 d a t (scopeCode s) (orderCode o) true false 41#6]
  | .aredFmax d a t s o => [fmtA c 11#5 d a t (scopeCode s) (orderCode o) true false 42#6]
  | .vld v b t l => [fmtVM c 12#5 v b t l 0#4 0#3]
  | .vstW v b t p => [fmtVM c 12#5 v b t 0#6 p 1#3]
  | .vstH v b t p => [fmtVM c 12#5 v b t 0#6 p 2#3]
  | .vstB v b t p => [fmtVM c 12#5 v b t 0#6 p 3#3]
  | .vgather v b x t p => [fmtV c 13#5 v b x t p 0#3]
  | .vscatter v b x t p => [fmtV c 13#5 v b x t p 1#3]
  | .vadd d a b t p => [fmtV c 14#5 d a b t p 0#3]
  | .vsub d a b t p => [fmtV c 14#5 d a b t p 1#3]
  | .vmul d a b t p => [fmtV c 14#5 d a b t p 2#3]
  | .vmin d a b t p => [fmtV c 14#5 d a b t p 3#3]
  | .vmax d a b t p => [fmtV c 14#5 d a b t p 4#3]
  | .vand d a b t p => [fmtV c 14#5 d a b t p 5#3]
  | .vor d a b t p => [fmtV c 14#5 d a b t p 6#3]
  | .vxor d a b t p => [fmtV c 14#5 d a b t p 7#3]
  | .vfadd d a b t p => [fmtV c 15#5 d a b t p 0#3]
  | .vfsub d a b t p => [fmtV c 15#5 d a b t p 1#3]
  | .vfmul d a b t p => [fmtV c 15#5 d a b t p 2#3]
  | .vfdiv d a b t p => [fmtV c 15#5 d a b t p 3#3]
  | .vfmin d a b t p => [fmtV c 15#5 d a b t p 4#3]
  | .vfmax d a b t p => [fmtV c 15#5 d a b t p 5#3]
  | .vfsqrt d a t p => [fmtV c 15#5 d a 0#6 t p 6#3]
  | .vfabs d a t p => [fmtV c 15#5 d a 0#6 t p 7#3]
  | .vfma d a b t p => [fmtV c 16#5 d a b t p 0#3]
  | .vfms d a b t p => [fmtV c 16#5 d a b t p 1#3]
  | .vfnma d a b t p => [fmtV c 16#5 d a b t p 2#3]
  | .vfnms d a b t p => [fmtV c 16#5 d a b t p 3#3]
  | .vmad d a b t p => [fmtV c 16#5 d a b t p 4#3]
  | .vdot4 d a b t p => [fmtV c 16#5 d a b t p 5#3]
  | .vcvt d a r s z p g => [fmtVC c 17#5 d a (rndCode r) (cvtCode s) z p (cvtCode g)]
  | .vshl d a b t p => [fmtV c 18#5 d a b t p 0#3]
  | .vshr d a b t p => [fmtV c 18#5 d a b t p 1#3]
  | .vshra d a b t p => [fmtV c 18#5 d a b t p 2#3]
  | .vperm d a b t p => [fmtV c 18#5 d a b t p 3#3]
  | .vbcast d a h t p => [fmtV c 18#5 d a (0#5 ++ BitVec.ofBool h) t p 4#3]
  | .vred d a o t p => [fmtV c 18#5 d a (redCode o) t p 5#3]
  | .vpack d a q t => [fmtV c 18#5 d a (partCode q ++ 0#3) t 0#4 6#3]
  | .vunpack d a q t => [fmtV c 18#5 d a (partCode q ++ 0#3) t 0#4 7#3]
  | .vexp2 d a t p => [fmtV c 19#5 d a 0#6 t p 0#3]
  | .vlog2 d a t p => [fmtV c 19#5 d a 0#6 t p 1#3]
  | .vrcp d a t p => [fmtV c 19#5 d a 0#6 t p 2#3]
  | .vrsqrt d a t p => [fmtV c 19#5 d a 0#6 t p 3#3]
  | .vsinpi d a t p => [fmtV c 19#5 d a 0#6 t p 4#3]
  | .vtanh d a t p => [fmtV c 19#5 d a 0#6 t p 5#3]
  | .vrng d a t p => [fmtV c 19#5 d a 0#6 t p 6#3]
  | .vqnt d a f t p => [fmtV c 19#5 d a (elemCode f ++ 0#2) t p 7#3]
  | .vcmpeq d a b t p => [fmtV c 20#5 (0#2 ++ d) a b t p 0#3]
  | .vcmplt d a b t p => [fmtV c 20#5 (0#2 ++ d) a b t p 1#3]
  | .vcmple d a b t p => [fmtV c 20#5 (0#2 ++ d) a b t p 2#3]
  | .vfcmpeq d a b t p => [fmtV c 20#5 (0#2 ++ d) a b t p 3#3]
  | .vfcmplt d a b t p => [fmtV c 20#5 (0#2 ++ d) a b t p 4#3]
  | .vfcmple d a b t p => [fmtV c 20#5 (0#2 ++ d) a b t p 5#3]
  | .vsel d a b t p => [fmtV c 20#5 d a b t p 6#3]
  | .vmsk d a t p => [fmtV c 20#5 (0#2 ++ d) a 0#6 t p 7#3]
  | .mlease => [fmtR c 21#5 0#6 0#6 0#6 false false 0#6]
  | .mrel => [fmtR c 21#5 0#6 0#6 0#6 false false 1#6]
  | .mclr k => [fmtR c 21#5 0#6 0#6 (0#4 ++ k) false false 2#6]
  | .mofs d a t => [fmtR c 21#5 (0#3 ++ d) a 0#6 t false 3#6]
  | .mstat d k => [fmtR c 21#5 d 0#6 (mstatCode k) false false 4#6]
  | .mma wp a x y t => [fmtM c 22#5 (wp ++ 0#1) (a ++ 0#1) x y t false 0#6]
  | .mmaw wp a x y t => [fmtM c 22#5 (wp ++ 0#1) (a ++ 0#1) x y t false 1#6]
  | .mdrain d k r f t => [fmtMD c 23#5 (d ++ 0#1) 0#4 k (rndCode r) (drainCode f) t false 0#6]
  | .cpy t q n u v => [fmtR c 24#5 t (q ++ 0#2) n u v 0#6]
  | .cpyh t q n u v => [fmtR c 24#5 t (q ++ 0#2) n u v 1#6]
  | .stage a t => [fmtR c 24#5 0#6 a 0#6 t false 2#6]
  | .cpyp t q n u v => [fmtR c 25#5 t (q ++ 0#2) n u v 0#6]
  | .cpye t q n u v => [fmtR c 25#5 t (q ++ 0#2) n u v 1#6]
  | .rld d a b t u => [fmtR c 26#5 d a b t u 0#6]
  | .rst s a b t u => [fmtR c 26#5 s a b t u 1#6]
  | .ratAdd d a b t u => [fmtR c 26#5 d a b t u 8#6]
  | .ratAnd d a b t u => [fmtR c 26#5 d a b t u 9#6]
  | .ratOr d a b t u => [fmtR c 26#5 d a b t u 10#6]
  | .ratXor d a b t u => [fmtR c 26#5 d a b t u 11#6]
  | .ratMin d a b t u => [fmtR c 26#5 d a b t u 12#6]
  | .ratMax d a b t u => [fmtR c 26#5 d a b t u 13#6]
  | .ratSwap d a b t u => [fmtR c 26#5 d a b t u 14#6]
  | .ratCas d a b t u => [fmtR c 26#5 (d ++ 0#1) a b t u 15#6]
  | .rredAdd s a b t u => [fmtR c 26#5 s a b t u 16#6]
  | .rredAnd s a b t u => [fmtR c 26#5 s a b t u 17#6]
  | .rredOr s a b t u => [fmtR c 26#5 s a b t u 18#6]
  | .rredXor s a b t u => [fmtR c 26#5 s a b t u 19#6]
  | .rredMin s a b t u => [fmtR c 26#5 s a b t u 20#6]
  | .rredMax s a b t u => [fmtR c 26#5 s a b t u 21#6]
  | .rredFadd s a b t u => [fmtR c 26#5 s a b t u 22#6]
  | .rredFmin s a b t u => [fmtR c 26#5 s a b t u 23#6]
  | .rredFmax s a b t u => [fmtR c 26#5 s a b t u 24#6]
  | .post a t => [fmtR c 27#5 0#6 a 0#6 t false 0#6]
  | .trig a b t u => [fmtR c 27#5 0#6 a b t u 1#6]
  | .ticket d a b t u => [fmtR c 27#5 d a b t u 2#6]
  | .flagadd a b t u => [fmtR c 27#5 0#6 a b t u 3#6]
  | .flagset m a b t u => [fmtR c 27#5 m a b t u 4#6]
  | .barg a b t u => [fmtR c 27#5 0#6 a b t u 5#6]
  | .identify _ => []
  | .attest _ => []
  | .firmwareLoad _ => []
  | .partitionAssign _ => []
  | .partitionRelease _ => []
  | .sessionOpen _ => []
  | .unsupportedPacket _ => []
  | .lttLoad _ => []
  | .contextRelease _ => []
  | .lttInstall _ => []
  | .lttShootdown _ => []
  | .launchRequest _ => []
  | .launchStatus _ => []
  | .launchCancel _ => []
  | .launchCancelForce _ => []
  | .memRead _ => []
  | .memWrite _ => []
  | .snapshotRead _ => []
  | .snapshotWrite _ => []
  | .telemetryStatus _ => []
  | .telemetryStartSampling _ => []
  | .telemetryStopSampling _ => []
  | .telemetryDrainSamples _ => []
  | .boot _ => []
  | .checkedPairTakeover => []
  | .stopeFailure _ => []
  | .hbmChannelRetirement _ _ => []
  | .dieLoss _ => []
  | .dispatchAdmission _ => []
  | .backoffExpiry _ => []
  | .launchPreemption _ => []
  | .taskPreemption _ _ => []
  | .preemptionDeferralBound _ => []
  | .taskResumption _ => []
  | .regenerationLaunch _ _ => []
  | .refetchFillComplete _ _ => []
  | .stepClose _ => []
  | .stepOpen _ => []
  | .launchFault _ => []
  | .resultWrite _ => []
  | .loadDataArrival _ _ _ => []
  | .landingWrite _ => []
  | .freezeTimeout _ => []
  | .checkWindowClose _ => []
  | .timingReplay _ => []
  | .atomicAcknowledgement _ _ => []
  | .deadlineRiskInterrupt _ => []
  | .governorEvaluation _ => []
  | .levelChangeComplete => []
  | .powerGrant _ => []
  | .energySample _ _ => []
  | .timeCalibration _ _ _ => []
  | .leaseGrant _ => []
  | .matrixCommandStart _ => []
  | .matrixCommandComplete _ _ _ => []
  | .bankRelease _ _ => []
  | .bankRestore _ _ => []
  | .copySector _ _ _ => []
  | .copyCompletion _ _ => []
  | .scheduleEntryStart _ _ => []
  | .operationPacketArrival _ => []
  | .dispenserStore _ _ _ _ => []
  | .fabricOpCompletion _ _ => []
  | .endToEndTimeout _ => []
  | .rackAcknowledgement _ => []
  | .postedOpFire _ => []
  | .switchBarrierRelease _ _ => []
  | .flitReceive _ _ _ => []
  | .stripeRequestRepeat _ => []
  | .fecWindowClear => []
  | .wavelengthLockLoss _ _ => []
  | .retrainingEnd _ _ _ => []
  | .wavelengthPark _ => []
  | .wavelengthWake _ => []
  | .fillReserveRefill _ _ => []
  | .nakRepeat _ => []

end Sys2Proof
end

