-- ==== Sys2Proof/Machine/Special.lean ====
section
/-! DEFINITION. The special functions (spec/13_core_vector.md R264): the correctly rounded value of the exact
function, found by enclosing it between two fixed-point values and refining until both round alike. -/

namespace Sys2Proof.Machine

/-! ## Fixed point

A fixed-point value with P bits is a Nat v that stands for v / 2^P. -/

/-- An enclosure lo ≤ x < hi of a nonnegative value. -/
structure Encl where
  lo : Nat
  hi : Nat
  deriving DecidableEq, Repr

/-- Σ z^(2k+1) / (2k+1) from the term t = z^(2k+1): each truncation loses less than one unit. -/
def atanhSum (P z2 : Nat) : Nat → Nat → Nat → Nat → Nat
  | 0, _, _, acc => acc
  | n + 1, k, t, acc =>
    if t = 0 then acc else atanhSum P z2 n (k + 1) ((t * z2) >>> P) (acc + t / (2 * k + 1))

/-- 2 · atanh(a / b) for a / b ≤ 1/3: fewer than P terms, and an error below 8·P units. -/
def twoAtanh (P a b : Nat) : Encl :=
  let z := (a <<< P) / b
  let s := 2 * atanhSum P ((z * z) >>> P) P 0 z 0
  ⟨s, s + 8 * P⟩

/-- ln 2 = 2 · atanh(1/3). -/
def ln2 (P : Nat) : Encl := twoAtanh P 1 3

/-- Σ x^k / k! from the term t. -/
def expSum (P x : Nat) : Nat → Nat → Nat → Nat → Nat
  | 0, _, _, acc => acc
  | n + 1, k, t, acc => if t = 0 then acc else expSum P x n (k + 1) (((t * x) >>> P) / (k + 1)) (acc + t)

/-- e^x for 0 ≤ x ≤ 36 in fixed point, with x known to within err units: the truncations and err together move the
sum by less than (err + P) · 2^56 units. -/
def expEncl (P x err : Nat) : Encl :=
  let s := expSum P x (2 * P) 0 (2 ^ P) 0
  ⟨s, s + (err + P) * 2 ^ 56⟩

/-- The alternating sum Σ (−1)^k x^(2k+1) / (2k+1)! from the term t, adding the even and the odd terms apart. -/
def sinSum (P x2 : Nat) : Nat → Nat → Nat → Nat × Nat → Nat × Nat
  | 0, _, _, acc => acc
  | n + 1, k, t, (pos, negs) =>
    if t = 0 then (pos, negs)
    else
      let t' := ((t * x2) >>> P) / ((2 * k + 2) * (2 * k + 3))
      sinSum P x2 n (k + 1) t' (if k % 2 = 0 then (pos + t, negs) else (pos, negs + t))

/-! ## Rounding an enclosure -/

/-- v / 2^P · 2^e with a sign, and a tail: the exact value lies strictly between two neighbours. -/
def fixExact (neg : Bool) (P v : Nat) (e : Int) : Exact := ⟨neg, v, e - P, true⟩

def specialRnd (x : Exact) : FpRes := roundFp32 .rne 0 x

/-- The result of an irrational value enclosed between two exact values, at growing precision: the first enclosure
whose ends round alike decides. -/
def certify (encl : Nat → Exact × Exact) : Nat → Nat → FpRes
  | 0, P => specialRnd (encl P).1
  | n + 1, P =>
    let r := encl P
    if specialRnd r.1 = specialRnd r.2 then specialRnd r.1 else certify encl n (2 * P)

/-! ## The functions -/

/-- 2^a for a finite a that is no integer: a = n + f with 0 < f < 1. -/
def exp2Encl (n : Int) (fNum fLen : Nat) (P : Nat) : Exact × Exact :=
  let f := if fLen ≤ P then fNum <<< (P - fLen) else fNum >>> (fLen - P)
  let l := ln2 P
  let r := expEncl P ((f * l.lo) >>> P) (8 * P + 4)
  (fixExact false P r.lo n, fixExact false P r.hi n)

def fpExp2 (a : Word) : FpRes :=
  match readFp32 a with
  | .nan s => nanOf s
  | .inf neg => (if neg then 0 else infFp32 false, 0)
  | .fin x =>
    if x.num = 0 then (0x3F800000#32, 0)
    else if topExact x ≥ 8 then
      specialRnd (if x.neg then ⟨false, 1, -400, true⟩ else ⟨false, 1, 400, false⟩)
    else
      let m := floorAt x 0
      let inex := inexactAt x 0
      let n : Int := if x.neg then (if inex then -(m : Int) - 1 else -(m : Int)) else m
      if !inex then specialRnd ⟨false, 1, n, false⟩
      else
        let len := (-x.exp).toNat
        let frac := x.num % 2 ^ len
        let f := if x.neg then 2 ^ len - frac else frac
        certify (exp2Encl n f len) 4 192

/-- ln(m / 2^k) / ln 2 for 2^k < m < 2^(k+1), as an enclosure in fixed point. -/
def log2Encl (m k P : Nat) : Encl :=
  let l := ln2 P
  let v := twoAtanh P (m - 2 ^ k) (m + 2 ^ k)
  ⟨(v.lo <<< P) / l.hi, (v.hi <<< P) / l.lo + 1⟩

/-- e + log2(m / 2^k) as two exact values. -/
def log2Pair (e : Int) (m k P : Nat) : Exact × Exact :=
  let r := log2Encl m k P
  let one : Int := ((2 ^ P : Nat) : Int)
  let lo : Int := e * one + r.lo
  let hi : Int := e * one + r.hi
  if e < 0 then (fixExact true P (-hi).toNat 0, fixExact true P (-lo).toNat 0)
  else (fixExact false P lo.toNat 0, fixExact false P hi.toNat 0)

def fpLog2 (a : Word) : FpRes :=
  match readFp32 a with
  | .nan s => nanOf s
  | .inf neg => if neg then invalidRes else (infFp32 false, 0)
  | .fin x =>
    if x.num = 0 then (infFp32 true, flagDZ)
    else if x.neg then invalidRes
    else
      let k := x.num.log2
      if x.num = 2 ^ k then specialRnd (exactInt (topExact x))
      else certify (log2Pair (topExact x) x.num k) 4 192

def fpRcp (a : Word) : FpRes :=
  match readFp32 a with
  | .nan s => nanOf s
  | .inf neg => (if neg then 0x80000000#32 else 0, 0)
  | .fin x => if x.num = 0 then (infFp32 x.neg, flagDZ) else specialRnd (divExact (exactInt 1) x)

/-- 1 / √x of a positive value: x = m · 2^e with e even, and floor(√(2^(2s) / m)). -/
def rsqrtExact (x : Exact) : Exact :=
  let e := x.exp - x.exp % 2
  let m := x.num <<< (x.exp % 2).toNat
  let s : Nat := 160
  let q := 2 ^ (2 * s) / m
  let r := isqrt q
  ⟨false, r, -(s : Int) - e / 2, !(2 ^ (2 * s) % m == 0 && r * r == q)⟩

def fpRsqrt (a : Word) : FpRes :=
  match readFp32 a with
  | .nan s => nanOf s
  | .inf neg => if neg then invalidRes else (0, 0)
  | .fin x =>
    if x.num = 0 then (infFp32 x.neg, flagDZ)
    else if x.neg then invalidRes
    else specialRnd (rsqrtExact x)

/-- 4 · atan(1/q) terms: Σ (−1)^k / ((2k+1) q^(2k+1)), the even and the odd terms apart. -/
def atanSum (q2 : Nat) : Nat → Nat → Nat → Nat × Nat → Nat × Nat
  | 0, _, _, acc => acc
  | n + 1, k, t, (pos, negs) =>
    if t = 0 then (pos, negs)
    else
      let u := t / (2 * k + 1)
      atanSum q2 n (k + 1) (t / q2) (if k % 2 = 0 then (pos + u, negs) else (pos, negs + u))

/-- π = 16 atan(1/5) − 4 atan(1/239), to within 64·P units. -/
def piEncl (P : Nat) : Encl :=
  let a := atanSum 25 P 0 (2 ^ P / 5) (0, 0)
  let b := atanSum 57121 P 0 (2 ^ P / 239) (0, 0)
  let v := 16 * (a.1 - a.2) - 4 * (b.1 - b.2)
  ⟨v - 32 * P, v + 32 * P⟩

/-- sin(π r) for r = num / 2^len, 0 < r < 1/2. -/
def sinEncl (neg : Bool) (num len P0 : Nat) : Exact × Exact :=
  let P := P0 + len
  let p := piEncl P
  let x := ((num <<< (P - len)) * p.lo) >>> P
  let s := sinSum P ((x * x) >>> P) P 0 x (0, 0)
  let v := s.1 - s.2
  let err := 512 * P
  (fixExact neg P (v - err) 0, fixExact neg P (v + err) 0)

def fpSinpi (a : Word) : FpRes :=
  match readFp32 a with
  | .nan s => nanOf s
  | .inf _ => invalidRes
  | .fin x =>
    if x.num = 0 then (a, 0)
    else if !inexactAt x 0 then (if x.neg then 0x80000000#32 else 0, 0)
    else
      let len := (-x.exp).toNat
      let r := x.num % 2 ^ (len + 1)          -- |a| mod 2
      let half := r / 2 ^ len                 -- 1 in the negative half wave
      let f := r % 2 ^ len                    -- the fraction, not 0
      let neg := x.neg != (half == 1)
      if 2 * f = 2 ^ len then (if neg then 0xBF800000#32 else 0x3F800000#32, 0)
      else
        let g := if 2 * f < 2 ^ len then f else 2 ^ len - f
        certify (sinEncl neg g len) 4 192

/-- tanh a = (e^(2a) − 1) / (e^(2a) + 1) for 0 < a < 16. -/
def tanhEncl (neg : Bool) (num : Nat) (exp : Int) (P0 : Nat) : Exact × Exact :=
  let P := P0 + 2 * (-exp).toNat + 64
  let x := if 0 ≤ exp + 1 + P then num <<< (exp + 1 + P).toNat else 0
  let r := expEncl P x 1
  let one := 2 ^ P
  let lo := ((r.lo - one) <<< P) / (r.lo + one)
  let hi := ((r.hi - one) <<< P) / (r.hi + one) + 1
  (fixExact neg P lo 0, fixExact neg P hi 0)

def fpTanh (a : Word) : FpRes :=
  match readFp32 a with
  | .nan s => nanOf s
  | .inf neg => (if neg then 0xBF800000#32 else 0x3F800000#32, 0)
  | .fin x =>
    if x.num = 0 then (a, 0)
    else if topExact x ≥ 4 then specialRnd ⟨x.neg, 2 ^ 200 - 1, -200, true⟩
    else certify (tanhEncl x.neg x.num x.exp) 4 128

end Sys2Proof.Machine
end

