-- ==== Sys2Proof/Machine/Vector.lean ====
section
/-! DEFINITION. The vector words of majors 14 to 20 (spec/13_core_vector.md R249 to R267). -/

namespace Sys2Proof.Machine

/-! ## What every V word shares (R250, R251) -/

/-- Whether lane i is active under a predicate. -/
def activeLane (p : Pred) (i : Nat) : Bool := p.getLsbD (4 * i)

/-- The dynamic rounding mode of sr.frm (R123). -/
def frmMode (c : Core) : Mode := (modeOf c.frm).getD .rne

/-- A result of one lane: its bits and flags. -/
abbrev LaneRes := Word × Flags

/-- Active lanes take the results, inactive lanes keep the old value; flags come from active lanes only. -/
def mergeLanes (p : Pred) (old : Vec) (f : Nat → LaneRes) : Vec × Flags :=
  let rs := (List.range 32).map fun i => if activeLane p i then f i else (lane32 old i, 0)
  (ofLanes (rs.map (·.1)), joinFlags (rs.map (·.2)))

/-- The merge source v(d): read only where the predicate field is not 0 (R250). DESIGN CHOICE (log 54). -/
def mergeSrc (s : State) (d : RegNum) (t : Bool) (p : PredNum) : List Source :=
  if p = 0 then [] else [vSrc s d t]

/-- A lane-wise word of two registers. -/
def lanes2 (s : State) (d a b : RegNum) (t : Bool) (p : PredNum) (latency : Nat)
    (f : Core → Word → Word → LaneRes) : Out :=
  let c := src s
  withSources s ([vSrc s a t, vSrc s b t] ++ mergeSrc s d t p ++ [pSrc s p.toNat false])
    (let r := mergeLanes (readP c p.toNat) (readV c d) fun i => f c (lane32 (readV c a) i) (lane32 (readV c b) i)
     .next (issueV s d latency r.1 r.2))

/-- A lane-wise word of one register. -/
def lanes1 (s : State) (d a : RegNum) (t : Bool) (p : PredNum) (latency : Nat) (f : Core → Word → LaneRes) : Out :=
  let c := src s
  withSources s ([vSrc s a t] ++ mergeSrc s d t p ++ [pSrc s p.toNat false])
    (let r := mergeLanes (readP c p.toNat) (readV c d) fun i => f c (lane32 (readV c a) i)
     .next (issueV s d latency r.1 r.2))

/-- A lane-wise word of two registers and the addend v(d), which it always reads (R255, R258). -/
def lanes3 (s : State) (d a b : RegNum) (t : Bool) (p : PredNum) (latency : Nat)
    (f : Core → Word → Word → Word → LaneRes) : Out :=
  let c := src s
  withSources s [vSrc s a t, vSrc s b t, vSrc s d t, pSrc s p.toNat false]
    (let r := mergeLanes (readP c p.toNat) (readV c d) fun i =>
       f c (lane32 (readV c a) i) (lane32 (readV c b) i) (lane32 (readV c d) i)
     .next (issueV s d latency r.1 r.2))

/-- A compare: bits 4i to 4i+3 of p(d) take the outcome of an active lane, and 0 for an inactive one (R265). -/
def compareLanes (s : State) (d : PredNum) (a b : RegNum) (t : Bool) (p : PredNum)
    (f : Word → Word → Bool × Flags) : Out :=
  let c := src s
  withSources s [vSrc s a t, vSrc s b t, pSrc s p.toNat false]
    (let rs := (List.range 32).map fun i =>
       if activeLane (readP c p.toNat) i then f (lane32 (readV c a) i) (lane32 (readV c b) i) else (false, 0)
     let bits := rs.foldr (fun r acc => (if r.1 then 15 else 0) + 16 * acc) 0
     .next (issueP s d.toNat 2 (BitVec.ofNat 128 bits) (joinFlags (rs.map (·.2)))))

def noFlags (x : Word) : LaneRes := (x, 0)

/-! ## Integer words (R253 to R255) -/

def laneMin (a b : Word) : Word := if a.slt b then a else b
def laneMax (a b : Word) : Word := if a.slt b then b else a

/-- The sum of the four int8 products of two lanes. -/
def dot4 (a b : Word) : Int :=
  (List.range 4).foldl (fun acc k => acc + signedOf 8 (a.toNat >>> (8 * k)) * signedOf 8 (b.toNat >>> (8 * k))) 0


def execVadd (d a b : RegNum) (t : Bool) (p : PredNum) (s : State) : Out :=
  lanes2 s d a b t p 2 fun _ x y => noFlags (x + y)

def execVsub (d a b : RegNum) (t : Bool) (p : PredNum) (s : State) : Out :=
  lanes2 s d a b t p 2 fun _ x y => noFlags (x - y)

def execVmul (d a b : RegNum) (t : Bool) (p : PredNum) (s : State) : Out :=
  lanes2 s d a b t p 3 fun _ x y => noFlags (x * y)

def execVmin (d a b : RegNum) (t : Bool) (p : PredNum) (s : State) : Out :=
  lanes2 s d a b t p 2 fun _ x y => noFlags (laneMin x y)

def execVmax (d a b : RegNum) (t : Bool) (p : PredNum) (s : State) : Out :=
  lanes2 s d a b t p 2 fun _ x y => noFlags (laneMax x y)

def execVand (d a b : RegNum) (t : Bool) (p : PredNum) (s : State) : Out :=
  lanes2 s d a b t p 2 fun _ x y => noFlags (x &&& y)

def execVor (d a b : RegNum) (t : Bool) (p : PredNum) (s : State) : Out :=
  lanes2 s d a b t p 2 fun _ x y => noFlags (x ||| y)

def execVxor (d a b : RegNum) (t : Bool) (p : PredNum) (s : State) : Out :=
  lanes2 s d a b t p 2 fun _ x y => noFlags (x ^^^ y)

def execVshl (d a b : RegNum) (t : Bool) (p : PredNum) (s : State) : Out :=
  lanes2 s d a b t p 2 fun _ x y => noFlags (x <<< (y.toNat % 32))

def execVshr (d a b : RegNum) (t : Bool) (p : PredNum) (s : State) : Out :=
  lanes2 s d a b t p 2 fun _ x y => noFlags (x >>> (y.toNat % 32))

def execVshra (d a b : RegNum) (t : Bool) (p : PredNum) (s : State) : Out :=
  lanes2 s d a b t p 2 fun _ x y => noFlags (x.sshiftRight (y.toNat % 32))

/-- Lane i takes lane b of v(a), or 0 where b is 32 or more. -/
def execVperm (d a b : RegNum) (t : Bool) (p : PredNum) (s : State) : Out :=
  lanes2 s d a b t p 2 fun c _ y => noFlags (if y.toNat < 32 then lane32 (readV c a) y.toNat else 0)

/-- Every active lane takes the low or the high half of g(a). -/
def execVbcast (d a : RegNum) (h t : Bool) (p : PredNum) (s : State) : Out :=
  let c := src s
  withSources s ([gSrc s a t] ++ mergeSrc s d t p ++ [pSrc s p.toNat false])
    (let x : Word := if h then (readG c a >>> 32).setWidth 32 else (readG c a).setWidth 32
     let r := mergeLanes (readP c p.toNat) (readV c d) fun _ => noFlags x
     .next (issueV s d 2 r.1 r.2))

def execVmad (d a b : RegNum) (t : Bool) (p : PredNum) (s : State) : Out :=
  lanes3 s d a b t p 3 fun _ x y z => noFlags (x * y + z)

def execVdot4 (d a b : RegNum) (t : Bool) (p : PredNum) (s : State) : Out :=
  lanes3 s d a b t p 3 fun _ x y z => noFlags (z + BitVec.ofInt 32 (dot4 x y))

/-! ## Floating-point words (R256 to R258) -/

def execVfadd (d a b : RegNum) (t : Bool) (p : PredNum) (s : State) : Out :=
  lanes2 s d a b t p 4 fun c x y => fpAdd (frmMode c) c.seed x y

def execVfsub (d a b : RegNum) (t : Bool) (p : PredNum) (s : State) : Out :=
  lanes2 s d a b t p 4 fun c x y => fpSub (frmMode c) c.seed x y

def execVfmul (d a b : RegNum) (t : Bool) (p : PredNum) (s : State) : Out :=
  lanes2 s d a b t p 4 fun c x y => fpMul (frmMode c) c.seed x y

def execVfdiv (d a b : RegNum) (t : Bool) (p : PredNum) (s : State) : Out :=
  lanes2 s d a b t p 16 fun c x y => fpDiv (frmMode c) c.seed x y

def execVfmin (d a b : RegNum) (t : Bool) (p : PredNum) (s : State) : Out :=
  lanes2 s d a b t p 4 fun _ x y => fpMinMax false x y

def execVfmax (d a b : RegNum) (t : Bool) (p : PredNum) (s : State) : Out :=
  lanes2 s d a b t p 4 fun _ x y => fpMinMax true x y

def execVfsqrt (d a : RegNum) (t : Bool) (p : PredNum) (s : State) : Out :=
  lanes1 s d a t p 16 fun c x => fpSqrt (frmMode c) c.seed x

def execVfabs (d a : RegNum) (t : Bool) (p : PredNum) (s : State) : Out :=
  lanes1 s d a t p 4 fun _ x => fpAbs x

def execVfma (d a b : RegNum) (t : Bool) (p : PredNum) (s : State) : Out :=
  lanes3 s d a b t p 4 fun c x y z => fpFma (frmMode c) c.seed false false x y z

def execVfms (d a b : RegNum) (t : Bool) (p : PredNum) (s : State) : Out :=
  lanes3 s d a b t p 4 fun c x y z => fpFma (frmMode c) c.seed false true x y z

def execVfnma (d a b : RegNum) (t : Bool) (p : PredNum) (s : State) : Out :=
  lanes3 s d a b t p 4 fun c x y z => fpFma (frmMode c) c.seed true false x y z

def execVfnms (d a b : RegNum) (t : Bool) (p : PredNum) (s : State) : Out :=
  lanes3 s d a b t p 4 fun c x y z => fpFma (frmMode c) c.seed true true x y z

/-! ## Conversion (R259 to R261) -/

/-- The mode of a rounding field. -/
def rndMode (c : Core) : Rnd → Mode
  | .fixed m => m
  | .dyn => frmMode c

/-- VCVT on a register: element i of the source view, for 32 elements; bytes above the last target element are 0. -/
def cvtReg (c : Core) (r : Rnd) (fr dst : CvtFmt) (z : Bool) (p : Pred) (x old : Vec) : Vec × Flags :=
  let n := cvtBits fr
  let m := cvtBits dst
  let rs := (List.range 32).map fun i =>
    if activeLane p i then convert fr dst (rndMode c r) c.seed z (bitsAt x (n * i) n)
    else (bitsAt old (m * i) m, 0)
  (ofElems m (rs.map (·.1)), joinFlags (rs.map (·.2)))

/-- VCVT has no trap bit: its empty sources block (R182). -/
def execVcvt (d a : RegNum) (r : Rnd) (f : CvtFmt) (z : Bool) (p : PredNum) (g : CvtFmt) (s : State) : Out :=
  let c := src s
  withSources s ([vSrc s a false] ++ mergeSrc s d false p ++ [pSrc s p.toNat false])
    (let x := cvtReg c r f g z (readP c p.toNat) (readV c a) (readV c d)
     .next (issueV s d 3 x.1 x.2))

/-- The width in bits of a part, and its place in the register. -/
def partPlace : PartSel → Nat × Nat
  | .half q => (512, 512 * q.toNat)
  | .byte q => (256, 256 * q.toNat)

def execVpack (d a : RegNum) (q : PartSel) (t : Bool) (s : State) : Out :=
  let c := src s
  withSources s [vSrc s a t, vSrc s d t]
    (let (w, pos) := partPlace q
     let mask : Vec := BitVec.ofNat 1024 ((2 ^ w - 1) <<< pos)
     let x : Vec := BitVec.ofNat 1024 (bitsAt (readV c a) 0 w <<< pos)
     .next (issueV s d 3 ((readV c d &&& ~~~mask) ||| x) 0))

def execVunpack (d a : RegNum) (q : PartSel) (t : Bool) (s : State) : Out :=
  withSources s [vSrc s a t]
    (let (w, pos) := partPlace q
     .next (issueV s d 3 (BitVec.ofNat 1024 (bitsAt (readV (src s) a) pos w)) 0))

/-! ## Block quantisation (R262) -/

def execVqnt (d a : RegNum) (f : ElemFmt) (t : Bool) (p : PredNum) (s : State) : Out :=
  let c := src s
  withSources s [vSrc s a t, pSrc s p.toNat false]
    (let vals := (List.range 32).map fun i =>
       if activeLane (readP c p.toNat) i then readFp32 (lane32 (readV c a) i) else .fin (exactZero false)
     let r := quantBlock f (frmMode c) c.seed vals
     .next (issueV s d 6 (quantReg f r.1 r.2.1) r.2.2))

/-! ## Fixed-order reduction (R263) -/

/-- A node of the floating-point trees, with the flags so far. -/
def redNode (f : Word → Word → FpRes) (x y : FpRes) : FpRes :=
  let r := f x.1 y.1
  (r.1, r.2 ||| x.2 ||| y.2)

/-- A NaN result is written canonical. -/
def canonical (x : Word) : Word := if isNan (readFp32 x) then canonNan else x

/-- The reduction of the present lanes: g(d) and the flags. A present signalling NaN sets NV. -/
def reduce (c : Core) (o : RedOp) (xs : List (Option Word)) : Dword × Flags :=
  let ints := fun (f : Word → Word → Word) (dflt : Word) => (((treeOpt f xs).getD dflt).signExtend 64, (0 : Flags))
  let sn : Flags := if xs.any (fun x => match x with
    | some w => isSnan (readFp32 w)
    | none => false) then flagNV else 0
  let floats := fun (f : Word → Word → FpRes) (dflt : Word) =>
    match treeOpt (redNode f) (xs.map fun x => x.map fun w => (w, (0 : Flags))) with
    | some r => ((canonical r.1).setWidth 64, r.2 ||| sn)
    | none => (dflt.setWidth 64, 0)
  match o with
  | .add => ints (fun x y => x + y) 0
  | .min => ints laneMin 0x7FFFFFFF#32
  | .max => ints laneMax 0x80000000#32
  | .fadd => floats (fpAdd (frmMode c) c.seed) 0
  | .fmin => floats (fpMinMax false) canonNan
  | .fmax => floats (fpMinMax true) canonNan

def execVred (d a : RegNum) (o : RedOp) (t : Bool) (p : PredNum) (s : State) : Out :=
  let c := src s
  withSources s [vSrc s a t, pSrc s p.toNat false]
    (let xs := (List.range 32).map fun i =>
       if activeLane (readP c p.toNat) i then some (lane32 (readV c a) i) else none
     let r := reduce c o xs
     .next (issueFixed s .g (phys c .g d.toNat) 6 (r.1.setWidth 1024) r.2))

/-! ## Special functions and random bits (R264, R267) -/

def execVexp2 (d a : RegNum) (t : Bool) (p : PredNum) (s : State) : Out :=
  lanes1 s d a t p 8 fun _ x => fpExp2 x

def execVlog2 (d a : RegNum) (t : Bool) (p : PredNum) (s : State) : Out :=
  lanes1 s d a t p 8 fun _ x => fpLog2 x

def execVrcp (d a : RegNum) (t : Bool) (p : PredNum) (s : State) : Out :=
  lanes1 s d a t p 8 fun _ x => fpRcp x

def execVrsqrt (d a : RegNum) (t : Bool) (p : PredNum) (s : State) : Out :=
  lanes1 s d a t p 8 fun _ x => fpRsqrt x

def execVsinpi (d a : RegNum) (t : Bool) (p : PredNum) (s : State) : Out :=
  lanes1 s d a t p 8 fun _ x => fpSinpi x

def execVtanh (d a : RegNum) (t : Bool) (p : PredNum) (s : State) : Out :=
  lanes1 s d a t p 8 fun _ x => fpTanh x

/-- Lane 4j + k takes word k of cbg(sr.seed, counter words 6, n[63:32], n[31:0], j). -/
def rngLane (seed : Dword) (hi lo : Word) (i : Nat) : Word :=
  let r := cbg seed 6 hi lo (BitVec.ofNat 32 (i / 4))
  match i % 4 with
  | 0 => r.x0 | 1 => r.x1 | 2 => r.x2 | _ => r.x3

def execVrng (d a : RegNum) (t : Bool) (p : PredNum) (s : State) : Out :=
  let c := src s
  withSources s ([vSrc s a t] ++ mergeSrc s d t p ++ [pSrc s p.toNat false])
    (let r := mergeLanes (readP c p.toNat) (readV c d) fun i =>
       noFlags (rngLane c.seed (lane32 (readV c a) 1) (lane32 (readV c a) 0) i)
     .next (issueV s d 8 r.1 r.2))

/-! ## Compare, select and masks (R265, R266) -/

/-- A floating-point compare: a NaN gives 0; NV for a signalling one, or for any where quiet is not allowed. -/
def fpCompare (anyNan : Bool) (f : FVal → FVal → Bool) (x y : Word) : Bool × Flags :=
  let a := readFp32 x
  let b := readFp32 y
  if isNan a || isNan b then (false, if anyNan || isSnan a || isSnan b then flagNV else 0)
  else (f a b, 0)

def execVcmpeq (d : PredNum) (a b : RegNum) (t : Bool) (p : PredNum) (s : State) : Out :=
  compareLanes s d a b t p fun x y => (x == y, 0)

def execVcmplt (d : PredNum) (a b : RegNum) (t : Bool) (p : PredNum) (s : State) : Out :=
  compareLanes s d a b t p fun x y => (x.slt y, 0)

def execVcmple (d : PredNum) (a b : RegNum) (t : Bool) (p : PredNum) (s : State) : Out :=
  compareLanes s d a b t p fun x y => (x.sle y, 0)

def execVfcmpeq (d : PredNum) (a b : RegNum) (t : Bool) (p : PredNum) (s : State) : Out :=
  compareLanes s d a b t p (fpCompare false fpEqVal)

def execVfcmplt (d : PredNum) (a b : RegNum) (t : Bool) (p : PredNum) (s : State) : Out :=
  compareLanes s d a b t p (fpCompare true fpLtVal)

def execVfcmple (d : PredNum) (a b : RegNum) (t : Bool) (p : PredNum) (s : State) : Out :=
  compareLanes s d a b t p (fpCompare true fun x y => fpLtVal x y || fpEqVal x y)

/-- VSEL writes every lane: of v(a) where the lane is active, of v(b) elsewhere. -/
def execVsel (d a b : RegNum) (t : Bool) (p : PredNum) (s : State) : Out :=
  let c := src s
  withSources s [vSrc s a t, vSrc s b t, pSrc s p.toNat false]
    (let r := mergeLanes (readP c p.toNat) (readV c b) fun i => noFlags (lane32 (readV c a) i)
     .next (issueV s d 2 r.1 0))

/-- VMSK: bit j of p(d) is bit j of v(a) under bit j of p(k). -/
def execVmsk (d : PredNum) (a : RegNum) (t : Bool) (p : PredNum) (s : State) : Out :=
  let c := src s
  withSources s [vSrc s a t, pSrc s p.toNat false]
    (.next (issueP s d.toNat 2 ((readV c a).setWidth 128 &&& readP c p.toNat) 0))

end Sys2Proof.Machine
end

