-- ==== Sys2Proof/Machine/LoadStore.lean ====
section
/-! DEFINITION. Loads, stores, gathers and scatters (spec/12_core_memory_atomics.md R236 to R239). -/

namespace Sys2Proof.Machine

/-- A result that a load will bring: its register is empty from now on (R200). With a landing delay of 0 nothing more
issues until it has landed (R236). DEDUCED (log 8). -/
def issueLoad (s : State) (f : RegFile) (d : Nat) (delay : Nat) (from' : LoadSrc) : State :=
  setLive s (launchFlight (live s) (pendingFlight s f (phys (src s) f d) (landingCount delay) from'))

/-- Where a load's data is to come from. -/
def loadSrcOf (p : Place) (n : Nat) : LoadSrc :=
  match p with
  | .vault st o => .bytes (vaultLoc st o) n
  | .hbm pa => .bytes (hbmLoc pa) n
  | .sysreg o => .window o
  | .agent stack o => .agent stack o
  | .remote _ _ => .none
  | .reduction _ _ => .none
  | .host _ _ => .none

/-! ## LD and ST (R236, R237) -/

def execLd (d b : RegNum) (t : Bool) (l : RegNum) (o : BitVec 7) (s : State) : Out :=
  let va := readG (src s) b + offsetOf o
  withSources s [gSrc s b t]
    (withPlace s ⟨.core, .read, va, 8, false, false⟩ fun p =>
      withRace s (granulesAt p va 8) false false fun s =>
        withDies s (diesOf (stopeOf s.cur) p) fun s =>
          .next (issueLoad s .g d.toNat l.toNat (loadSrcOf p 8)))

/-- The entry of a store of n bytes at a place: a store to the agent window is the agent's to perform (R354). -/
def storeOp (p : Place) (n : Nat) (x : Nat) : WindowOp :=
  match p with
  | .agent stack o => .agentStore stack o (BitVec.ofNat 64 x)
  | .vault st o => .store (cellsOf (vaultLoc st o) n x)
  | .hbm pa => .store (cellsOf (hbmLoc pa) n x)
  | .remote _ _ => .store []
  | .reduction _ _ => .store []
  | .host _ _ => .store []
  | .sysreg _ => .store []

def execSt (r b : RegNum) (t u : Bool) (o : BitVec 12) (s : State) : Out :=
  let va := readG (src s) b + offsetOf o
  withSources s [gSrc s r t, gSrc s b u]
    (withPlace s ⟨.core, .write, va, 8, false, false⟩ fun p =>
      withRace s (granulesAt p va 8) true false fun s =>
        withDies s (diesOf (stopeOf s.cur) p) fun s =>
          .next (enqueue s (storeOp p 8 (readG (src s) r).toNat)))

/-! ## VLD and the vector stores (R238) -/

def execVld (v b : RegNum) (t : Bool) (l : RegNum) (s : State) : Out :=
  let va := readG (src s) b
  withSources s [gSrc s b t]
    (withPlace s ⟨.core, .read, va, 128, true, false⟩ fun p =>
      withRace s (granulesAt p va 128) false false fun s =>
        withDies s (diesOf (stopeOf s.cur) p) fun s =>
          .next (issueLoad s .v v.toNat l.toNat (loadSrcOf p 128)))

/-- A store of the bytes of a register that a test selects; granules with no byte selected are not accessed. -/
def storeSelected (s : State) (v b : RegNum) (t : Bool) (p : PredNum) (sel : Pred → Nat → Bool) : Out :=
  let c := src s
  let va := readG c b
  let q := readP c p.toNat
  let x := readV c v
  withSources s [vSrc s v t, gSrc s b t, pSrc s p.toNat false]
    (withPlace s ⟨.core, .write, va, 128, true, false⟩ fun pl =>
      let bytes := (List.range 128).filter (sel q)
      let gs := (granulesAt pl va 128).filter fun g =>
        bytes.any fun k => (va + BitVec.ofNat 64 k) &&& ~~~31#64 == g.2
      withRace s gs true false fun s =>
        withDies s (diesOf (stopeOf s.cur) pl) fun s =>
          match locOf pl with
          | some loc => .next (enqueue s (.store (bytes.map fun k => (loc + k, x.extractLsb' (8 * k) 8))))
          | none => .next s)

def execVstW (v b : RegNum) (t : Bool) (p : PredNum) (s : State) : Out :=
  storeSelected s v b t p fun q k => q.getLsbD (4 * (k / 4))

def execVstH (v b : RegNum) (t : Bool) (p : PredNum) (s : State) : Out :=
  storeSelected s v b t p fun q k => q.getLsbD (2 * (k / 2))

def execVstB (v b : RegNum) (t : Bool) (p : PredNum) (s : State) : Out :=
  storeSelected s v b t p fun q k => q.getLsbD k

/-! ## VGATHER and VSCATTER (R239) -/

/-- The active lanes with their addresses, in lane order. -/
def laneAddrs (c : Core) (b x : RegNum) (p : PredNum) : List (Nat × Dword) :=
  ((List.range 32).filter (activeLane (readP c p.toNat))).map fun i =>
    (i, readG c b + (lane32 (readV c x) i).signExtend 64)

/-- The place of an address in the page of a base that lies at a place. -/
def inPage (p : Place) (base va : Dword) : Option Nat :=
  (locOf p).map fun l => l - base.toNat % 2 ^ 21 + va.toNat % 2 ^ 21

/-- The granules of places, each once and ascending, with the address of one of the accesses' granule. -/
def laneGranules (ls : List (Nat × Dword)) (place : Dword → Option Nat) : List (Nat × Dword) :=
  ls.foldl (fun (m : SMap Dword) e =>
    match place e.2 with
    | some l => minsert m (granuleOf l) (e.2 &&& ~~~31#64)
    | none => m) []

/-- The checks of a gather or scatter after its translation: the page rule, then alignment, over every active lane; the
side bank's end; then the race check. -/
def withLanes (s : State) (b : RegNum) (ls : List (Nat × Dword)) (p : Place) (write : Bool) (k : State → Out) : Out :=
  let base := readG (src s) b
  match ls.find? fun e => e.2.toNat / 2 ^ 21 != base.toNat / 2 ^ 21 with
  | some e => trap s causeAccess e.2
  | none =>
    match ls.find? fun e => e.2.toNat % 4 != 0 with
    | some e => trap s causeMisaligned e.2
    | none =>
      let beyond := fun (a : Dword) => match p with
        | .vault _ o => 0xD80000 ≤ o - base.toNat % 2 ^ 21 + a.toNat % 2 ^ 21
        | .hbm _ => false
        | .remote _ _ | .reduction _ _ | .host _ _ | .agent _ _ | .sysreg _ => false
      match ls.find? fun e => beyond e.2 with
      | some e => trap s causeAccess e.2
      | none =>
        withRace s (laneGranules ls (inPage p base)) write false fun s =>
          withDies s (diesOf (stopeOf s.cur) p) k

def execVgather (v b x : RegNum) (t : Bool) (p : PredNum) (s : State) : Out :=
  let c := src s
  let base := readG c b
  let ls := laneAddrs c b x p
  withSources s [gSrc s b t, vSrc s x t, pSrc s p.toNat t]
    (withPlace s ⟨.core, .read, base, 1, true, false⟩ fun pl =>
      withLanes s b ls pl false fun s =>
        .next (issueLoad s .v v.toNat 63 (.lanes ((List.range 32).map fun i =>
          match ls.find? fun e => e.1 == i with
          | some e => inPage pl base e.2
          | none => none))))

def execVscatter (v b x : RegNum) (t : Bool) (p : PredNum) (s : State) : Out :=
  let c := src s
  let base := readG c b
  let ls := laneAddrs c b x p
  let data := readV c v
  withSources s [vSrc s v t, gSrc s b t, vSrc s x t, pSrc s p.toNat t]
    (withPlace s ⟨.core, .write, base, 1, true, false⟩ fun pl =>
      withLanes s b ls pl true fun s =>
        .next (enqueue s (.store (ls.flatMap fun e =>
          match inPage pl base e.2 with
          | some l => cellsOf l 4 (lane32 data e.1).toNat
          | none => []))))

end Sys2Proof.Machine
end

