-- ==== Sys2Proof/Machine/Late.lean ====
section
/-! DEFINITION. Reports at a task's next clause (spec/04_consistency.md R108), the race check of engine accesses
(R106; spec/05_ordering_by_goal.md R111), and raises of counters that wait for a scoreboard
(spec/16_array_machine.md R297). -/

namespace Sys2Proof.Machine

/-! ## Reports (R108) -/

/-- A task traps at its next clause: on its core, or before the first clause of its resumption. -/
def notify (d : Dev) (l i cause : Nat) (info : Dword) : Dev :=
  match d.cores.find? fun e => e.2.run == some ⟨l, i⟩ && !e.2.leaving with
  | some (k, c) => putCore d k { c with notice := c.notice ++ [⟨cause, info⟩] }
  | none => modTask d l i fun t => { t with notice := t.notice ++ [⟨cause, info⟩] }

/-! ## Engine accesses (R106, R111) -/

def scheduleTask : Nat := 0xFFFFFF

/-- An engine access of a command (R106, R111). -/
def engineAccess (i : Issue) (write atom : Bool) : Access :=
  { step := i.step, launch := i.number, interval := i.interval, owner := BitVec.ofNat 24 i.task, epoch := i.epoch,
    write := write, atom := atom, engine := true }

/-- Check granules of a command, ascending: the first that races, or the device with the tags after all. The copy
schedule's accesses are tagged and never race (R101). -/
def engineRace (d : Dev) (ctx : Nat) (i : Issue) (write atom : Bool) (gs : List Nat) : Except Nat Dev :=
  if i.task = scheduleTask then
    let a := engineAccess i write atom
    .ok { d with tags := if write then tagAll (tagOf a 3 atom) gs d.tags else tagPast (heldNumber d ctx) i.log a gs d.tags }
  else match raceAll (heldNumber d ctx) i.log (engineAccess i write atom) gs d.tags with
    | .error g => .error g
    | .ok tags => .ok { d with tags := tags }

/-! ## Raises (R281, R297) -/

/-- Copy into a counter's log the records of a trigger's log counted at or below a value, with their scopes (R378). -/
def copyRecords (d : Dev) (trigger loc : Nat) (v : Dword) : Dev :=
  match armOf d trigger, armOf d loc with
  | some t, some a =>
    if a.overrun then d
    else
      let log := a.log ++ (t.log.filter fun r => r.value ≤ v).map fun r => { r with value := counterValue d loc }
      { d with arms := minsert d.arms loc { a with log := log.drop (log.length - 16) } }
  | _, _ => d

/-- Carry a late access out: its cells, then its raise. That of an engine for a task of a launch that is not complete
is checked first: a race stops it, and the task traps at its next clause (R101, R108). DEDUCED (log 79). -/
def doLate (d : Dev) (o : LateOp) : Dev :=
  let checked : Except Dev Dev := match o.tag with
    | .keep | .zero => .ok d
    | .engine c =>
      if (launchAt d c.issue.launch).any fun x => x.state != .complete then
        match engineRace d c.ctx c.issue true true (lateGranules o) with
        | .error _ => .error (notify d c.issue.launch c.issue.task causeRace (c.va &&& ~~~31#64))
        | .ok d => .ok d
      else .ok d
  match checked with
  | .error d => d
  | .ok d =>
    let d := writeLate d o
    match o.counter with
    | none => settle d
    | some (loc, n, m) =>
      let d := increment d loc n m
      match o.source with
      | some (trigger, v) => settle (copyRecords d trigger loc v)
      | none => d

/-- A write and a raise, once no scoreboard holds them. DEDUCED (log 79). -/
def late (d : Dev) (o : LateOp) : Dev :=
  if lateHeld d (lateGranules o) then { d with late := d.late ++ [o] } else doLate d o

/-- What has waited for the scoreboards goes on, oldest first. DEDUCED (log 79). -/
def drainLate (d : Dev) : Dev := d.late.foldl late { d with late := [] }

/-- Raise a counter of a context on behalf of no task that is checked: its granule is tagged as by an arrival (R101).
DEDUCED (log 43). -/
def arriveRaise (d : Dev) (ctx loc : Nat) (n : Dword) (m : Option Mark) : Dev :=
  late d ⟨[], some (loc, n, m), .zero, none, ctx, d.issues⟩

/-- The call of a ticket raises its holder counter by 1 for the task that took it, and leaves no record (R355, R373).
DEDUCED (log 43). -/
def callHolder (d : Dev) (c : TaskCounter) : Dev := 
  late d ⟨[], some (c.loc, 1, none), .engine c, none, c.ctx, c.issue.seq⟩

end Sys2Proof.Machine
end

