-- ==== Sys2Proof/Machine/Links.lean ====
section
/-! DEFINITION. Flouth ports: flits and their headers, link replay, stripe changes, retraining and parking
(spec/22_fabric_links.md R346 to R350, R362; spec/25_program_retraining.md R383 to R387). -/

namespace Sys2Proof.Machine

/-! ## CRC-32 (R383) -/

/-- One bit of the reflected CRC-32 of IEEE 802.3. -/
def crcBit (c : Word) : Word := if c.getLsbD 0 then (c >>> 1) ^^^ 0xEDB88320#32 else c >>> 1

/-- PRESUMED (log 45). -/
def crcByte (c : Word) (b : Byte) : Word :=
  (List.range 8).foldl (fun c _ => crcBit c) (c ^^^ b.setWidth 32)

/-- PRESUMED (log 45). -/
def crc32 (bs : List Byte) : Word := ~~~(bs.foldl crcByte (BitVec.allOnes 32))

/-- The CRC of a flit: over beats 1 to 7, then bits [63:0] of beat 0. PRESUMED (log 45). -/
def flitCrc (beats : BitVec 1792) (low : Dword) : Word := crc32 (natBytes 224 beats.toNat ++ natBytes 8 low.toNat)

/-! ## Headers (R383) -/

/-- A field of a flit's header. -/
def hdr (f : Flit) (lo n : Nat) : Nat := f.header.toNat >>> lo % 2 ^ n

def hdrCrc (f : Flit) : Nat := hdr f 64 32
def hdrAck (f : Flit) : Nat := hdr f 56 8
def hdrNakSeq (f : Flit) : Nat := hdr f 48 8
def hdrNak (f : Flit) : Bool := f.header.getLsbD 47
def hdrStripe (f : Flit) : Nat := hdr f 45 2
def hdrLambda (f : Flit) : Nat := hdr f 42 3
def hdrControl (f : Flit) : Bool := f.header.getLsbD 41
def hdrMask (f : Flit) : Nat := hdr f 24 8
def hdrSeq (f : Flit) : Nat := hdr f 0 8

def portAt (d : Dev) (n : Nat) : Port := mget portReset d.ports n

def putPort (d : Dev) (n : Nat) (p : Port) : Dev := { d with ports := minsert d.ports n p }

def laneAt (ls : List Lane) (i : Nat) : Lane := ls.getD i laneReset

/-- The wavelengths that a direction is striped on. -/
def stripeMask (ls : List Lane) : Nat :=
  (List.range 8).foldr (fun i acc => acc + (if (laneAt ls i).state = .active then 2 ^ i else 0)) 0

def activeCount (ls : List Lane) : Nat := (ls.filter fun l => l.state == .active).length

def setLane (ls : List Lane) (i : Nat) (f : Lane → Lane) : List Lane := ls.set i (f (laneAt ls i))

def setLaneState (ls : List Lane) (i : Nat) (st : LaneState) : List Lane := setLane ls i fun l => { l with state := st }

/-- A lane that joins the stripe: active, with no errors counted. -/
def joinLane (ls : List Lane) (i : Nat) : List Lane := setLane ls i fun l => { l with state := .active, errors := 0 }

/-! ## Sending (R350, R383 to R385) -/

/-- A flit of a port as it stands: acknowledgement and request of the reverse direction, a NAK where one is to go out, and
the mask. -/
def buildFlit (p : Port) (nak control : Bool) (seq : Byte) (beats : BitVec 1792) : Flit :=
  let req := match p.requests with
    | [] => 0
    | r :: _ => (if r.restore then 2 else 1) * 2 ^ 45 + r.lambda % 8 * 2 ^ 42
  let low : Nat := (p.expect - 1).toNat * 2 ^ 56 + (if nak then
      (p.missing.getD p.expect).toNat * 2 ^ 48 + 2 ^ 47 else 0) + req + (if control then 2 ^ 41 else 0) + stripeMask p.tx * 2 ^ 24 + seq.toNat
  ⟨BitVec.ofNat 256 (low + (flitCrc beats (BitVec.ofNat 64 low)).toNat * 2 ^ 64), beats⟩

/-- The active wavelengths of a direction, ascending. -/
def activeLanes (ls : List Lane) : List Nat := (List.range 8).filter fun i => (laneAt ls i).state == .active

/-- The wavelength and the beat time of beat b of a flit on some active wavelengths (R347). -/
def beatSlot (ws : List Nat) (b : Nat) : Nat × Nat := (ws.getD (b % ws.length) 0, b / ws.length)

/-- The beat times that a flit occupies on W wavelengths (R347). -/
def flitTime (w : Nat) : Nat := (8 + w - 1) / w

/-- A flit goes out on the wavelengths in force: its beats in turn, from the lowest (R347). -/
def onWire (p : Port) (f : Flit) : SentFlit := ⟨f, (List.range 8).map (beatSlot (activeLanes p.tx))⟩

/-- Whether a port can send: one with no active wavelength is down (R23). -/
def canSend (p : Port) : Bool := !(activeLanes p.tx).isEmpty

/-- A control flit goes out, with a NAK or without. -/
def controlOut (nak : Bool) (p : Port) : Port :=
  if canSend p then { p with sent := p.sent ++ [onWire p (buildFlit p nak true 0 0)] } else p

/-- A control flit goes out. -/
def sendControl (p : Port) : Port := controlOut false p

/-- The packets that the next flit takes in sequence order, in a room of beats, and those that are left; no packet spans
two flits (R384). -/
def takePackets : Nat → List WaitPacket → List WaitPacket × List WaitPacket
  | _, [] => ([], [])
  | room, q :: qs =>
    if room < min q.beats 7 || q.alone && room < 7 then ([], q :: qs)
    else if q.alone then ([q], qs)
    else
      let r := takePackets (room - q.beats) qs
      (q :: r.1, r.2)

/-- Beats 1 to 7 of a flit that holds some packets; unused beats are zero. -/
def packBeats : List WaitPacket → BitVec 1792
  | [] => 0
  | q :: qs => q.bits ||| (packBeats qs <<< (256 * q.beats))

/-- How many flits some packets make. -/
def flitCount : Nat → List WaitPacket → Nat
  | 0, _ => 0
  | n + 1, qs => if qs.isEmpty then 0 else 1 + flitCount n (takePackets 7 qs).2

/-- The flits that a port's transmit queue holds (R349). -/
def queueFlits (p : Port) : Nat := flitCount p.waiting.length p.waiting

/-- Packets that wait go out, in flits, while the replay buffer has room. -/
def sendWaiting : Nat → Port → Port
  | 0, p => p
  | n + 1, p =>
    if p.waiting.isEmpty || 128 ≤ p.buffer.length then p
    else
      let q := takePackets 7 p.waiting
      let b := packBeats q.1
      sendWaiting n { p with waiting := q.2, buffer := p.buffer ++ [(p.seq, b)], seq := p.seq + 1,
                             sent := p.sent ++ [onWire p (buildFlit p false false p.seq b)] }

def flushPort (p : Port) : Port := if canSend p then sendWaiting p.waiting.length p else p

/-- Resend from a flit named by a NAK, in order, on the mask in force. -/
def replayFrom (p : Port) (seq : Byte) : Port :=
  let rest := p.buffer.dropWhile fun e => e.1 != seq
  { p with sent := p.sent ++ rest.map fun e => onWire p (buildFlit p false false e.1 e.2) }

/-- Whether a port is there: its network die is not lost (R24, R362). DEDUCED (log 32). -/
def portLives (d : Dev) (n : Nat) : Bool := n < 36 && !d.lost.getLsbD (if n < 18 then 3 else 7)

/-- The wavelengths of a port that a partition holds (R18, R32): all where no partition is known.
DESIGN CHOICE (log 12). -/
def shareOf (d : Dev) (part n : Nat) : Byte :=
  match partAt d part with
  | some p => mget 0 p.shares n
  | none => 0xFF

/-- The ports that the packets of a partition may leave by: those it holds a share of, whose die is not lost and which
are not down (R18, R23, R24). DESIGN CHOICE (log 12). -/
def portsOf (d : Dev) (part : Nat) : List Nat :=
  (List.range 36).filter fun n => portLives d n && canSend (portAt d n) && shareOf d part n != 0

/-- The port that a packet of a partition leaves by, where there is one. -/
def portFor (d : Dev) (part n : Nat) : Option Nat :=
  let ks := portsOf d part
  ks[Config.packetPort n % ks.length]?

/-- A queue that has reached WakeDepth wakes the parked wavelengths (R349). -/
def wakePort (p : Port) : Port :=
  if p.wake ≤ queueFlits p && p.tx.any (fun l => l.state == .parked) then { p with woken := true } else p

/-- A packet of a header and data goes out for a partition, in some beats of a flit (R384); none where no port of its is
up (R23). DEDUCED (log 72). -/
def sendPacket (d : Dev) (part beats : Nat) (alone : Bool) (data : Nat) : Dev :=
  let n := d.sent.length
  let bits : BitVec 1792 := (Config.packetHeader n).setWidth 1792 ||| BitVec.ofNat 1792 (data * 2 ^ 256)
  { d with ports := match portFor d part n with
      | some k =>
        let p := portAt d k
        minsert d.ports k (wakePort (flushPort { p with waiting := p.waiting ++ [⟨beats, alone, bits⟩] }))
      | none => d.ports }

/-- The data of a packet. -/
def packetData (x : Sent) : Nat :=
  match x with
  | .operation _ _ _ op => op.data.toNat + op.data2.toNat * 2 ^ (8 * op.size)
  | .contribution _ op => op.data.toNat
  | .reply _ _ r => r.data.toNat
  | .call _ _ => 0
  | .rack _ _ => 0
  | .arrival _ _ => 0
  | .bytes _ _ _ _ => 0

/-- The beats of a packet with n bytes of data: a header, and the data padded to whole beats (R384). -/
def beatsFor (n : Nat) : Nat := 1 + (n + 31) / 32

/-- The bytes of data that an operation's packet carries. -/
def operationBytes (op : FabOp) : Nat :=
  match op.fn with
  | .load | .ticket => 0
  | .cas => 2 * op.size
  | .store | .add | .and | .or | .xor | .min | .max | .swap | .redAdd | .redAnd | .redOr | .redXor | .redMin | .redMax
  | .redFadd | .redFmin | .redFmax | .trig => op.size

/-- The bytes of data that an operation's reply carries. -/
def replyBytes (op : FabOp) (r : FabReply) : Nat :=
  if r.status ≠ 0 then 0
  else match op.fn with
    | .load | .ticket | .cas | .add | .and | .or | .xor | .min | .max | .swap => op.size
    | .store | .redAdd | .redAnd | .redOr | .redXor | .redMin | .redMax | .redFadd | .redFmin | .redFmax | .trig => 0

/-- Whether the data of an accepted flit hold, after the packets that have been taken, one of a header and n bytes. -/
def Received.holds (q : Received) (n data : Nat) : Bool :=
  q.used + beatsFor n ≤ 7 && q.beats.toNat >>> (256 * (q.used + 1)) % 2 ^ (8 * n) == data % 2 ^ (8 * n)

/-- The packet with n bytes of data that a partition's fabric engine takes: from the first port of its that has one in an
accepted flit, oldest first; none where no accepted flit holds it (R386). DEDUCED (log 72). -/
def takePacket (d : Dev) (part n data : Nat) : Option Dev :=
  ((List.range 36).filter fun k => shareOf d part k != 0).findSome? fun k =>
    let p := portAt d k
    (p.received.findIdx? fun q => q.holds n data).map fun i =>
      putPort d k { p with received := p.received.modify i fun q => { q with used := q.used + beatsFor n } }

/-- The beats of what leaves the fabric engine. DEDUCED (log 72). -/
def packetBeats (x : Sent) : Nat :=
  match x with
  | .operation _ _ _ op | .contribution _ op => beatsFor (operationBytes op)
  | .reply _ _ _ | .call _ _ | .rack _ _ | .arrival _ _ | .bytes _ _ _ _ => 1

/-- Something of a partition leaves the fabric engine, as a packet on a port. -/
def emit (d : Dev) (part : Nat) (x : Sent) : Dev :=
  let d := { d with sent := d.sent ++ [x] }
  sendPacket d part (packetBeats x) false (packetData x)

/-- The reply to an operation leaves; that to an RLD of 128 bytes travels in a flit of its own (R384). -/
def emitReply (d : Dev) (part k s : Nat) (op : FabOp) (r : FabReply) : Dev :=
  let d := { d with sent := d.sent ++ [.reply k s r] }
  let n := replyBytes op r
  sendPacket d part (beatsFor n) (n == 128) r.data.toNat

/-! ## Stripe requests at the sender (R385) -/

/-- The sender acts on a request: one to remove the last active wavelength, or that names a retired or removed one, is
ignored. -/
def honour (p : Port) (restore : Bool) (i : Nat) : Port :=
  let l := laneAt p.tx i
  if restore then
    if l.state = .retraining then { p with tx := joinLane p.tx i } else p
  else if l.state = .parked then { p with tx := setLaneState p.tx i .retraining }
  else if l.state ≠ .active ∨ activeCount p.tx ≤ 1 then p
  else { p with tx := setLaneState p.tx i .retraining }

/-! ## Receiving (R348, R350, R383, R385) -/

/-- The mask of a requested change. -/
def requestedMask (p : Port) : Option Nat :=
  match p.requests with
  | [] => none
  | r :: _ => some (stripeMask (if r.restore then joinLane p.rx r.lambda else setLaneState p.rx r.lambda .retraining))

/-- The lowest wavelength of a direction that is not retired, which never parks. -/
def lowestLane (ls : List Lane) : Nat := (ls.findIdx? fun l => l.state != .retired).getD 0

/-- The highest active wavelength parks, unless it is the lowest, or the only active one. DEDUCED (log 46). -/
def parkOne (ls : List Lane) : List Lane :=
  match (List.range 8).reverse.find? fun i => (laneAt ls i).state == .active with
  | some i => if i = lowestLane ls ∨ activeCount ls ≤ 1 then ls else setLaneState ls i .parked
  | none => ls

/-- DEDUCED (log 46). -/
def wakeAll (ls : List Lane) : List Lane := ls.map fun l => if l.state = .parked then { l with state := .active } else l

/-- Parking or waking by the far end, agreed by a control flit: this end applies it at the same flit boundary (R347,
R349). DEDUCED (log 46). -/
def farParking (p : Port) (wake : Bool) : Port := { p with rx := if wake then wakeAll p.rx else parkOne p.rx }

/-- Whether a flit is treated as having failed its CRC. -/
def flitBad (p : Port) (f : Flit) : Bool :=
  hdrCrc f != (flitCrc f.beats (f.header.setWidth 64)).toNat || f.header.toNat >>> 96 != 0 || hdr f 32 9 != 0 ||
    hdr f 8 16 != 0 || hdrStripe f == 3 ||
    !(hdrMask f == stripeMask p.rx || requestedMask p == some (hdrMask f))

/-- A NAK for the first flit missing goes out. -/
def sendNak (p : Port) : Port := controlOut true { p with missing := some p.expect }

/-- Flits acknowledged leave the replay buffer, cumulatively. -/
def acknowledge (p : Port) (seq : Byte) : Port :=
  if p.buffer.any fun e => e.1 == seq then { p with buffer := (p.buffer.dropWhile fun e => e.1 != seq).tail } else p

/-- The receiver accepts a flit's mask: the request that it honours is done, and a removed wavelength retrains. -/
def acceptMask (p : Port) (f : Flit) : Port :=
  match p.requests with
  | [] => p
  | r :: rs =>
    if (hdrMask f).testBit r.lambda == r.restore then
      { p with requests := rs,
               rx := if (laneAt p.rx r.lambda).state = .retired then p.rx
                     else if r.restore then joinLane p.rx r.lambda else setLaneState p.rx r.lambda .retraining }
    else p

/-- A change is to be asked for, unless it is. -/
def addRequest (p : Port) (r : StripeReq) : Port :=
  if p.requests.contains r then p else { p with requests := p.requests ++ [r] }

/-- Ask for a change, unless it is asked for: the first goes out at once. -/
def askStripe (p : Port) (r : StripeReq) : Port :=
  if p.requests.contains r then p else sendControl (addRequest p r)

/-- Count corrected symbol errors of a wavelength: at the threshold its removal is to be asked for, unless it is the last
active one. -/
def countErrors (p : Port) (e : Nat × Nat) : Port :=
  let l := laneAt p.rx e.1
  if l.state ≠ .active ∨ 8 ≤ e.1 then p
  else
    let n := min (l.errors + e.2) (2 ^ 32 - 1)
    let p := { p with rx := setLane p.rx e.1 fun l => { l with errors := n } }
    let leaving := (p.requests.filter fun r => !r.restore && (laneAt p.rx r.lambda).state == .active).length
    if p.thr ≤ n ∧ 1 < activeCount p.rx - leaving then addRequest p ⟨false, e.1⟩ else p

/-- Whether a flit lies behind the one expected: it has been accepted already. -/
def behind (p : Port) (f : Flit) : Bool :=
  let k := (p.expect - BitVec.ofNat 8 (hdrSeq f)).toNat
  1 ≤ k && k ≤ 128

/-- Whether a sound flit is accepted: a control flit, or the one expected (R350). -/
def accepts (p : Port) (f : Flit) : Bool := hdrControl f || hdrSeq f == p.expect.toNat

/-- The data of an accepted flit are delivered, and its mask is taken. DEDUCED (log 72). -/
def takeSeq (p : Port) (f : Flit) : Port :=
  acceptMask (if hdrControl f then p
    else { p with expect := p.expect + 1, missing := none, received := p.received ++ [⟨f.beats, 0⟩] }) f

/-- Act on the header of an accepted flit: an acknowledgement, and a removal or restore, which applies before a resend
(R385, R387). -/
def actOn (p : Port) (f : Flit) : Port :=
  let p := acknowledge p (BitVec.ofNat 8 (hdrAck f))
  if hdrStripe f = 0 then p else honour p (hdrStripe f == 2) (hdrLambda f)

/-- The resend that an accepted flit asks for: the flits carry its own acknowledgement, and no request that it has
honoured (R383, R385). DEDUCED (log 72). -/
def resendFor (p : Port) (f : Flit) : Port :=
  if hdrNak f then replayFrom p (BitVec.ofNat 8 (hdrNakSeq f)) else p

/-- An accepted flit: its header and its data, and the flits that go out; where none does, a control flit takes an
acknowledgement or a changed mask (R384). A request that its errors have raised, and the next one where the first is
honoured, goes out at once (R385). -/
def acceptFlit (asked : Bool) (p : Port) (f : Flit) : Port :=
  let q := flushPort (resendFor (takeSeq (actOn p f) f) f)
  let due := !hdrControl f || q.tx != p.tx
  let next := q.requests != p.requests && !q.requests.isEmpty
  if asked || next || due && q.sent.length == p.sent.length then sendControl q else q

/-- A flit is discarded: a NAK names the first one missing, once; a request that the flit's errors have raised goes out
with it (R350, R387). -/
def discardFlit (asked gap : Bool) (p : Port) : Port :=
  if gap && (asked || p.missing.isNone) then sendNak p else if asked then sendControl p else p

/-- A flit reaches a port, unless its direction is down (R23). DEDUCED (log 72). -/
def receiveFlit (p : Port) (f : Flit) (errs : List (Nat × Nat)) : Port :=
  let q := errs.foldl countErrors p
  let asked := q.requests != p.requests
  if (activeLanes q.rx).isEmpty then q
  else if flitBad q f then discardFlit asked true q
  else if accepts q f then acceptFlit asked q f
  else discardFlit asked (!behind q f) q

/-! ## Retraining (R346, R348, R385) -/

/-- A receiver that loses lock: the wavelength retrains at once, and its removal is asked for. The last active one never
leaves. -/
def loseLock (p : Port) (i : Nat) : Port :=
  let l := laneAt p.rx i
  if l.state = .parked then askStripe { p with rx := setLaneState p.rx i .retraining } ⟨false, i⟩
  else if l.state ≠ .active ∨ activeCount p.rx ≤ 1 then p
  else askStripe { p with rx := setLaneState p.rx i .retraining } ⟨false, i⟩

/-- Retraining ends: a restore is asked for, or a failure is counted, the third of which retires the wavelength. -/
def endRetraining (p : Port) (i : Nat) (ok : Bool) : Port :=
  let l := laneAt p.rx i
  if l.state ≠ .retraining then p
  else if ok then askStripe { p with rx := setLane p.rx i fun l => { l with fails := 0 } } ⟨true, i⟩
  else if 2 ≤ l.fails then { p with rx := setLaneState p.rx i .retired, requests := p.requests.filter (· != ⟨true, i⟩) }
  else { p with rx := setLane p.rx i fun l => { l with fails := l.fails + 1 } }

/-- Whether a wavelength of a port is retired. -/
def laneRetired (d : Dev) (n i : Nat) : Bool := (laneAt (portAt d n).rx i).state == .retired

end Sys2Proof.Machine
end

