-- ==== Sys2Proof/Machine/Agents.lean ====
section
/-! DEFINITION. The agent window and the ticket dispensers (spec/22_fabric_links.md R354, R355). -/

namespace Sys2Proof.Machine

def agentKey (part stack : Nat) : Nat := 8 * part + stack

def agentAt (d : Dev) (part stack : Nat) : Agent := mget agentReset d.agents (agentKey part stack)

def modAgent (d : Dev) (part stack : Nat) (f : Agent → Agent) : Dev :=
  { d with agents := minsert d.agents (agentKey part stack) (f (agentAt d part stack)) }

def dispenserAt (d : Dev) (part stack n : Nat) : Dispenser :=
  mget dispenserReset (agentAt d part stack).dispensers n

def putDispenser (d : Dev) (part stack n : Nat) (x : Dispenser) : Dev :=
  modAgent d part stack fun a => { a with dispensers := minsert a.dispensers n x }

/-- The low half of a dispenser: Served and Width. -/
def dispenserLow (x : Dispenser) : Dword := (x.served.setWidth 64) <<< 8 ||| x.width.setWidth 64

/-- Response-cache entries of a partition at a stack (R353, R354). -/
def cacheUse (d : Dev) (part stack : Nat) : Nat :=
  d.conns.foldl (fun n e => if e.2.part = part then n + (e.2.cache.filter fun c => c.2.1 == stack).length else n) 0

/-- An aligned 8-byte read of the agent window (R354). -/
def agentRead (d : Dev) (part stack off : Nat) : Dword :=
  if off = 0 then BitVec.ofNat 64 (cacheUse d part stack)
  else if off = 8 then BitVec.ofNat 64 (agentAt d part stack).duplicates
  else if off = 16 then BitVec.ofNat 64 (agentAt d part stack).performed
  else if off = 24 then BitVec.ofNat 64 (agentAt d part stack).refused
  else if off < 0x8000 then 0
  else
    let x := dispenserAt d part stack ((off - 0x8000) / 16)
    if off % 16 < 8 then dispenserLow x else x.next

/-- Tickets below this are called: a Width of 0 acts as 1 (R355). -/
def calledBelow (x : Dispenser) : Nat := x.served.toNat + max 1 x.width.toNat

/-- Set the tags of a range to zero (R101). -/
def clearTags (d : Dev) (loc n : Nat) : Dev := { d with tags := tagAll tagZero (granules loc n) d.tags }

/-- Call one ticket of a partition: its holder counter is raised, here or at its package (R373). -/
def callTicket (part : Nat) (d : Dev) (h : Holder) : Dev :=
  match h.here with
  | some c => callHolder d c
  | none => emit d part (.call h.conn h.counter)

/-- Call every ticket that has become due, in ascending order. -/
def callDue (d : Dev) (part stack n : Nat) : Dev :=
  let x := dispenserAt d part stack n
  let dueNow := x.holders.filter fun h => h.ticket < calledBelow x
  let d := putDispenser d part stack n { x with holders := x.holders.filter fun h => !(h.ticket < calledBelow x) }
  dueNow.foldl (callTicket part) d

/-- A store of v to bytes 0–7 of a dispenser (R355). -/
def storeDispenser (d : Dev) (part stack n : Nat) (v : Dword) : Dev :=
  let x := dispenserAt d part stack n
  let sv : BitVec 56 := (v >>> 8).setWidth 56
  let w : Byte := v.setWidth 8
  callDue (putDispenser d part stack n
    { x with served := if x.served < sv then sv else x.served, width := if w = 0 then x.width else w }) part stack n

/-- A fabric add of v to bytes 0–7 of a dispenser (R355). -/
def addDispenser (d : Dev) (part stack n : Nat) (v : Dword) : Dev :=
  let x := dispenserAt d part stack n
  callDue (putDispenser d part stack n { x with served := x.served + (v >>> 8).setWidth 56 }) part stack n

/-- An 8-byte store to the agent window: only bytes 0–7 of a dispenser take it (R354, R355). -/
def agentStore (d : Dev) (part stack off : Nat) (v : Dword) : Dev :=
  if off < 0x8000 ∨ off % 16 ≠ 0 then d else storeDispenser d part stack ((off - 0x8000) / 16) v

/-- TICKET: the ticket's number, and the dispenser after it. A ticket already due is called at once (R355). -/
def takeTicket (d : Dev) (part stack n : Nat) (here : Option TaskCounter) (conn : Nat)
    (counter : Dword) : Dword × Dev :=
  let x := dispenserAt d part stack n
  (x.next, callDue (putDispenser d part stack n
    { x with next := x.next + 1, holders := x.holders ++ [⟨x.next.toNat, here, conn, counter⟩] }) part stack n)

end Sys2Proof.Machine
end

