-- ==== Sys2Proof/Machine/Atoms.lean ====
section
/-! DEFINITION. What the point of coherence does for an atomic (spec/12_core_memory_atomics.md R241 to R247). -/

namespace Sys2Proof.Machine

/-! ## New memory values -/

/-- FMIN and FMAX of the old value m and the operand x (R243): the value stored. -/
def floatPick (greater : Bool) (m x : Word) : Word :=
  match isNan (readFp32 m), isNan (readFp32 x) with
  | true, true => canonNan
  | true, false => x
  | false, true => m
  | false, false =>
    if greater then (if fpOrdLt (readFp32 m) (readFp32 x) then x else m)
    else (if fpOrdLt (readFp32 x) (readFp32 m) then x else m)

/-- NV where a value is a signalling NaN. -/
def snanFlag (x : Word) : Flags := if isSnan (readFp32 x) then flagNV else 0

/-- FADD of the old value and the operand (R244). -/
def floatAdd (m x : Word) : Word × Flags :=
  let r := fpAdd .rne 0 m x
  (if isNan (readFp32 r.1) then canonNan else r.1, r.2)

/-- The new value of an 8-byte word, for the functions of R241 that have one. -/
def newDword (f : AtomFn) (m x y : Dword) : Dword :=
  match f with
  | .ald => m
  | .ast => x
  | .add => m + x
  | .and => m &&& x
  | .or => m ||| x
  | .xor => m ^^^ x
  | .min => if m.slt x then m else x
  | .max => if m.slt x then x else m
  | .minu => if m.ult x then m else x
  | .maxu => if m.ult x then x else m
  | .swap => x
  | .acas => if m = x then y else m
  | .fadd | .fmin | .fmax | .acas2 | .aenq | .apchase => m

/-- The new value of a 4-byte word, and the flags raised at the point of coherence. -/
def newWord (f : AtomFn) (m x y : Word) : Word × Flags :=
  match f with
  | .ald => (m, 0)
  | .ast => (x, 0)
  | .add => (m + x, 0)
  | .and => (m &&& x, 0)
  | .or => (m ||| x, 0)
  | .xor => (m ^^^ x, 0)
  | .min => (if m.slt x then m else x, 0)
  | .max => (if m.slt x then x else m, 0)
  | .minu => (if m.ult x then m else x, 0)
  | .maxu => (if m.ult x then x else m, 0)
  | .swap => (x, 0)
  | .acas => (if m = x then y else m, 0)
  | .fadd => floatAdd m x
  | .fmin => (floatPick false m x, snanFlag m)
  | .fmax => (floatPick true m x, snanFlag m)
  | .acas2 | .aenq | .apchase => (m, 0)

/-! ## Lists in a page (R246, R247) -/

/-- The place of an address in the 2 MiB page of another one. -/
def pagePlace (loc : Nat) (va : Va) (a : Nat) : Nat := loc - va.toNat % 2 ^ 21 + a % 2 ^ 21

/-- Whether a link leaves the page of an address or is misaligned. -/
def badLink (va : Va) (a : Nat) : Bool := a % 8 != 0 || a / 2 ^ 21 % 2 ^ 27 != va.toNat / 2 ^ 21

/-- The tail of AENQ's list that takes the new link: none where the list is empty, or where the enqueue is refused. -/
def oldTail (mem : Memory) (loc : Nat) (va : Va) : Option Nat :=
  let tl := readN mem (loc + 8) 8
  if tl = 0 ∨ badLink va tl then none else some (pagePlace loc va tl)

/-- AENQ: the result and the memory after it. -/
def enqueueList (mem : Memory) (loc eloc : Nat) (va : Va) (e : Dword) : Dword × Memory :=
  let tl := readN mem (loc + 8) 8
  if tl ≠ 0 ∧ badLink va tl then (BitVec.ofNat 64 tl ||| 1, mem)
  else
    let mem := writeN mem eloc 8 0
    let mem := if tl = 0 then writeN mem loc 8 e.toNat else writeN mem (pagePlace loc va tl) 8 e.toNat
    (BitVec.ofNat 64 tl, writeN mem (loc + 8) 8 e.toNat)

/-- One chase with fuel: status, links followed, the last node, and the addresses of the links read. -/
def chaseLinks (mem : Memory) (loc : Nat) (va : Va) (off : Nat) : Nat → Nat → Nat → Nat × Nat × Nat × List Nat
  | 0, h, p => (0, h, p, [])
  | n + 1, h, p =>
    let q := p + 8 * off
    if q / 2 ^ 21 % 2 ^ 27 ≠ va.toNat / 2 ^ 21 then (2, h, p, [])
    else
      let l := readN mem (pagePlace loc va q) 8
      if l = 0 then (1, h, p, [q])
      else if badLink va l then (2, h, p, [q])
      else
        let r := chaseLinks mem loc va off n (h + 1) l
        (r.1, r.2.1, r.2.2.1, q :: r.2.2.2)

/-- Whether APCHASE's control word is invalid, so that no link is read. -/
def chaseBad (ctl : Dword) : Bool := ctl >>> 14 ≠ 0 || ctl.toNat % 64 = 0

/-- APCHASE: the result word, and the addresses of the links it reads. -/
def chase (mem : Memory) (loc : Nat) (va : Va) (ctl : Dword) : Dword × List Nat :=
  let hops := ctl.toNat % 64
  if chaseBad ctl then (BitVec.ofNat 64 (3 * 2 ^ 62 + va.toNat), [])
  else
    let r := chaseLinks mem loc va (ctl.toNat / 64 % 256) hops 0 va.toNat
    (BitVec.ofNat 64 (r.1 * 2 ^ 62 + r.2.1 * 2 ^ 48 + r.2.2.1 % 2 ^ 48), r.2.2.2)

/-- Whether an atomic reads memory to find what else it accesses: AENQ its old tail, APCHASE its links. -/
def walks : AtomFn → Bool
  | .aenq | .apchase => true
  | .ald | .ast | .add | .and | .or | .xor | .min | .max | .minu | .maxu | .swap | .fadd | .fmin | .fmax | .acas
  | .acas2 => false

/-- The places that only memory tells of an atomic that walks, with their addresses: AENQ's old tail, APCHASE's
links. -/
def walkPlaces (mem : Memory) (f : AtomFn) (loc : Nat) (va : Va) (ctl : Dword) : List (Nat × Dword) :=
  match f with
  | .aenq => (oldTail mem loc va).toList.map fun l => (l, BitVec.ofNat 64 (readN mem (loc + 8) 8))
  | .apchase => (chase mem loc va ctl).2.map fun a => (pagePlace loc va a, BitVec.ofNat 64 a)
  | .ald | .ast | .add | .and | .or | .xor | .min | .max | .minu | .maxu | .swap | .fadd | .fmin | .fmax | .acas
  | .acas2 => []

/-- Places by granule, ascending, with the addresses of the granules, added to others. -/
def addGranules (m : SMap Dword) (es : List (Nat × Dword)) : SMap Dword :=
  es.foldl (fun m e => minsert m (granuleOf e.1) (e.2 &&& ~~~31#64)) m

/-! ## Performing an atomic (R241) -/

def releases (o : Order) : Bool :=
  match o with
  | .release | .acqRel | .sc => true
  | .relaxed | .acquire => false

def acquires (o : Order) : Bool :=
  match o with
  | .acquire | .acqRel | .sc => true
  | .relaxed | .release => false

/-- The record of a release-ordered increment (R105). -/
def releaseMark (a : AtomReq) (stope : Nat) : Option Mark :=
  if releases a.order then some ⟨a.task, a.epoch, false, a.scope, stope⟩ else none

/-- Perform an atomic issued from a stope: the results, the flags of its acknowledgement, and the device after it. An
8-byte add is an increment (R281). -/
def performAtomic (d : Dev) (stope : Nat) (a : AtomReq) : List Dword × Flags × Dev :=
  match a.fn with
  | .acas2 =>
    let m0 := readN d.mem a.loc 8
    let m1 := readN d.mem (a.loc + 8) 8
    let mem := if m0 = a.x.toNat ∧ m1 = a.y.toNat then
        writeN (writeN d.mem a.loc 8 a.z.toNat) (a.loc + 8) 8 a.w.toNat else d.mem
    ([BitVec.ofNat 64 m0, BitVec.ofNat 64 m1], 0, settle { d with mem := mem })
  | .aenq =>
    let r := enqueueList d.mem a.loc a.loc2 a.va a.x
    ([r.1], 0, settle { d with mem := r.2 })
  | .apchase => ([(chase d.mem a.loc a.va a.x).1], 0, d)
  | .add =>
    if a.half then
      let m : Word := BitVec.ofNat 32 (readN d.mem a.loc 4)
      ([m.setWidth 64], 0, settle { d with mem := writeN d.mem a.loc 4 (m + a.x.setWidth 32).toNat })
    else ([counterValue d a.loc], 0, increment d a.loc a.x (releaseMark a stope))
  | .ald | .ast | .and | .or | .xor | .min | .max | .minu | .maxu | .swap | .fadd | .fmin | .fmax | .acas =>
    if a.half then
      let m : Word := BitVec.ofNat 32 (readN d.mem a.loc 4)
      let r := newWord a.fn m (a.x.setWidth 32) (a.y.setWidth 32)
      ([m.setWidth 64], r.2, settle { d with mem := writeN d.mem a.loc 4 r.1.toNat })
    else
      let m := counterValue d a.loc
      ([m], 0, settle { d with mem := writeN d.mem a.loc 8 (newDword a.fn m a.x a.y).toNat })

end Sys2Proof.Machine
end

