-- ==== Sys2Proof/Machine/Region.lean ====
section
/-! DEFINITION. The snapshot region of a context in memory: the images that stand there, written and read back
(spec/10_core_state.md R209, R212 to R215; spec/16_array_machine.md R290). -/

namespace Sys2Proof.Machine

/-! ## Writes of the dispatcher -/

/-- The dies that an access of the dispatcher to n bytes touches, where it can be translated (R86). -/
def dispatchDies (d : Dev) (x : Launch) (r : Right) (va : Dword) (n : Nat) : Byte :=
  match placeBytes d x (firstStope d x) .fetch r va n with
  | .ok ls => diesAt (firstStope d x) ls
  | .error _ => 0

/-- Write bytes as the dispatcher does, at a virtual address of a launch's context, once no scoreboard holds them: the
device, and the cause where a check fails or a die that the write touches is lost (R86). -/
def dispatchWrite (d : Dev) (x : Launch) (va : Dword) (bs : List Byte) : Dev × Option Nat :=
  match placeBytes d x (firstStope d x) .fetch .write va bs.length with
  | .ok ls => match touchLost d x.ctx (diesAt (firstStope d x) ls) with
    | (d, some _) => (d, some causeDieLost)
    | (d, none) => (lateWrite d x.ctx (cellsAt ls bs), none)
  | .error e => (d, some e.1)

/-- A write that a failed check skips is logged (R34, R41, R214). -/
def skippedWrite (d : Dev) (x : Launch) (va : Dword) (cause : Nat) : Dev :=
  addLog d 10 x.part.toNat (detail [va.toNat, cause])

def writeOrSkip (d : Dev) (x : Launch) (va : Dword) (bs : List Byte) : Dev :=
  match dispatchWrite d x va bs with
  | (d, none) => d
  | (d, some c) => skippedWrite d x va c

/-- Whether a read of the dispatcher waits for a scoreboard (R297). DEDUCED (log 79). -/
def dispatchHeld (d : Dev) (x : Launch) (va : Dword) (n : Nat) : Bool :=
  match placeBytes d x (firstStope d x) .fetch .read va n with
  | .ok ls => readHeld d ls
  | .error _ => false

/-- Read n bytes as the dispatcher does: none where a check fails or a die that holds them is lost. -/
def dispatchRead (d : Dev) (x : Launch) (va : Dword) (n : Nat) : Option (List Byte) :=
  match placeBytes d x (firstStope d x) .fetch .read va n with
  | .ok ls => if diesAt (firstStope d x) ls &&& d.lost = 0 then some (ls.map (readByte d.mem)) else none
  | .error _ => none

/-! ## Where the parts of a snapshot stand (R209, R215, R290) -/

/-- The bytes of a snapshot region for one task (R215). DESIGN CHOICE (log 52). -/
def snapSlot : Nat := 1130560

/-- The address of a task's snapshot: the Foreman's address of the region, and the task's slot in it.
DESIGN CHOICE (log 52). -/
def snapAddr (d : Dev) (x : Launch) (i : Nat) : Dword :=
  (match ctxAt d x.ctx with
   | some c => c.snapBase
   | none => 0) + BitVec.ofNat 64 (snapSlot * i)

/-- The offset of the latch image. -/
def latchOff : Nat := 1089600

/-- Where entry n of an image stands: landing entries 0–15, in-flight results, landing entries from 16 on (R209). -/
def landingOff (n : Nat) : Nat := if n < 16 then 0x2480 + 144 * n else 0x5180 + 144 * (n - 16)
def inflightOff (n : Nat) : Nat := 0x2D80 + 144 * n

/-! ## The images (R209, R212, R290) -/

/-- The 16 bytes of an element of a bank. -/
def cellBytes (e : Xa) : List Byte := natBytes 8 e.s.toNat ++ natBytes 2 e.e.toNat ++ natBytes 6 e.nan.toNat

/-- The bank area of a snapshot: the mask, then the banks in ascending number. -/
def bankArea (bs : SMap Bank) : List Byte :=
  natBytes 64 (bs.foldl (fun m b => m + 2 ^ b.1) 0) ++
    bs.flatMap fun b => (List.range 16384).flatMap fun n => cellBytes (mget xaZero b.2.cells n)

/-- The elements of a bank as 262,144 bytes hold them. -/
def cellsOfBytes (bs : List Byte) : SMap Xa :=
  (List.range 16384).foldl (fun m n =>
    mset xaZero m n ⟨BitVec.ofNat 64 (fieldAt bs (16 * n) 8), BitVec.ofNat 16 (fieldAt bs (16 * n + 8) 2),
      fieldAt bs (16 * n + 10) 1 % 2 == 1⟩) []

/-- Latched values as an image holds them; the model's links of the entries stay. -/
def latchOfImage (old : Latch) (bs : List Byte) : Latch :=
  { ofHeader old (fieldAt bs 0 64) with
    acq := (List.range 16).map fun i => ofAcqBits (BitVec.ofNat 64 (fieldAt bs (0x2400 + 8 * i) 8)),
    landing := (List.range 128).map fun n => ofEntryBits (old.landing.getD n emptyEntry) (fieldAt bs (landingOff n) 144),
    inflight := (List.range 64).map fun n =>
      ofEntryBits (old.inflight.getD n emptyEntry) (fieldAt bs (inflightOff n) 144) }

/-- A core's own state as an image holds it: each 8 bytes from 0x40 to 0x2400; all of sr.tcause, sr.tinfo and the
writable fields of sr.plevel. -/
def coreOfImage (c : Core) (bs : List Byte) : Core :=
  let c := (List.range 1144).foldl (fun c i =>
    writeCoreField c (fieldOf (0x40 + 8 * i)) (BitVec.ofNat 64 (fieldAt bs (0x40 + 8 * i) 8))) c
  let pl := fieldAt bs 0x3D8 8
  let tc := fieldAt bs 0x3E8 8
  { c with riskEn := pl.testBit 16, riskPend := pl.testBit 17, tcause := BitVec.ofNat 16 tc, noResume := tc.testBit 16,
           tinfo := BitVec.ofNat 64 (fieldAt bs 0x3F0 8) }

/-- A snapshot as the images hold it. -/
def snapOfImages (sn : Snap) (bs ls : List Byte) : Snap :=
  let l := latchOfImage sn.latch bs
  { sn with core := { coreOfImage sn.core bs with
              latch := if l.inHandler then some (latchOfImage (sn.core.latch.getD latchZero) ls) else none },
            latch := l, plevel := BitVec.ofNat 64 (fieldAt bs 0x3D8 8) }

/-! ## Writing and reading the region -/

/-- Write a task's snapshot into the region: whether every part could be written, and the device. A part that cannot be
written is skipped and logged (R214). DESIGN CHOICE (log 52). -/
def writeImages (d : Dev) (x : Launch) (i : Nat) (sn : Snap) (banks : Bool) : Bool × Dev :=
  let a := snapAddr d x i
  let parts := (a, imageBytes sn.plevel sn.core sn.latch) ::
    ((if banks then [(a + BitVec.ofNat 64 imageSize, bankArea sn.banks)] else []) ++
      (match sn.latch.inHandler, sn.core.latch with
       | true, some l => [(a + BitVec.ofNat 64 latchOff, latchBytes l)]
       | _, _ => []))
  parts.foldl (fun r p => match dispatchWrite r.2 x p.1 p.2 with
    | (d, none) => (r.1, d)
    | (d, some c) => (false, skippedWrite d x p.1 c)) (true, d)

/-- The parts of a task's snapshot in the region: address and length. -/
def snapParts (t : Task) (sn : Snap) : List (Dword × Nat) :=
  if !sn.stored then []
  else [(t.snapPtr, imageSize), (t.snapPtr + BitVec.ofNat 64 imageSize, 64 + 262144 * sn.banks.length)] ++
    if sn.latch.inHandler then [(t.snapPtr + BitVec.ofNat 64 latchOff, imageSize)] else []

/-- The dies that hold a task's snapshot in the region (R86). -/
def imageDies (d : Dev) (x : Launch) (t : Task) (sn : Snap) : Byte :=
  (snapParts t sn).foldl (fun b p => b ||| dispatchDies d x .read p.1 p.2) 0

/-- Whether a read of a task's snapshot in the region waits for a scoreboard (R297). -/
def snapHeld (d : Dev) (x : Launch) (t : Task) (sn : Snap) : Bool :=
  (boarded d || !d.late.isEmpty) && (snapParts t sn).any fun p => dispatchHeld d x p.1 p.2

/-- A task's snapshot as it stands in the region, where its images could be written there and can be read; else, and
while they wait to be written, as it was saved. DESIGN CHOICE (log 52). -/
def snapNow (d : Dev) (x : Launch) (t : Task) (sn : Snap) : Snap :=
  if !sn.stored || snapHeld d x t sn then sn
  else match dispatchRead d x t.snapPtr imageSize with
    | none => sn
    | some bs =>
      if (fieldAt bs 0 64).testBit 165 then
        match dispatchRead d x (t.snapPtr + BitVec.ofNat 64 latchOff) imageSize with
        | some ls => snapOfImages sn bs ls
        | none => sn
      else snapOfImages sn bs []

/-- The banks saved with a snapshot, as they stand in the region. DESIGN CHOICE (log 52). -/
def banksNow (d : Dev) (x : Launch) (t : Task) (sn : Snap) : SMap Bank :=
  let a := t.snapPtr + BitVec.ofNat 64 imageSize
  if !sn.stored then sn.banks
  else match dispatchRead d x a 64 with
    | none => sn.banks
    | some m =>
      let bs := (List.range 4).filter fun b => (bytesNat m).testBit b
      bs.zipIdx.map fun e =>
        let old := mget { bankReset with last := some x.ctx } sn.banks e.1
        (e.1, match dispatchRead d x (a + BitVec.ofNat 64 (64 + 262144 * e.2)) 262144 with
          | some cs => { old with cells := cellsOfBytes cs }
          | none => old)

/-- Write the landing entries of latched values that have changed, in the image at an address. -/
def writeEntries (x : Launch) (a : Dword) (old new : List SnapEntry) (d : Dev) : Dev :=
  new.zipIdx.foldl (fun d e =>
    if old[e.2]? = some e.1 then d
    else writeOrSkip d x (a + BitVec.ofNat 64 (landingOff e.2)) (natBytes 144 (entryBits e.1))) d

end Sys2Proof.Machine
end

