-- ==== Sys2Proof/Machine/Send.lean ====
section
/-! DEFINITION. How fabric operations leave the package: connections, sequence numbers and the switch groups
(spec/22_fabric_links.md R351 to R353, R357; spec/24_program_triggered_allreduce.md R381). -/

namespace Sys2Proof.Machine

/-- The name that stands for no connection. DESIGN CHOICE (log 12). -/
def noConn : Nat := 65535

/-- The connection of a partition's context, by its identifier, to a package; one that arrivals have made before the
context was there is its own (R27, R351). DESIGN CHOICE (log 16). -/
def connOf (d : Dev) (part : Nat) (ident : Dword) (package : Nat) : Option Nat :=
  (d.conns.find? fun e => (e.2.part == part || e.2.part == noPart) && e.2.ident == ident && e.2.package == package).map (·.1)

/-- The rank of a package in a switch group, and the package that holds rank 0, its home (R381). -/
def rankOf (d : Dev) (group package : Nat) : Option Nat :=
  match mfind d.groups group with
  | some g => g.members.findIdx? (· == package)
  | none => none

def homeOf (d : Dev) (group : Nat) : Option Nat :=
  match mfind d.groups group with
  | some g => g.members.head?
  | none => none

/-- Whether a group's windows are written on this package, or on none: only then does it answer here. -/
def windowHere (d : Dev) (group : Nat) : Bool :=
  homeOf d group == some d.foreman.package || rankOf d group d.foreman.package == none

/-- Whether an operation has left its core's check window and waits in the fabric queue, or is a posted one (R367). -/
def leftWindow (d : Dev) (n : Nat) (r : FabRec) : Bool := r.post.isSome || (coreAt d r.issue.core).fabricQ.contains n

/-- An operation leaves its core's fabric queue. -/
def leaveQueue (d : Dev) (n : Nat) (r : FabRec) : Dev :=
  if (coreAt d r.issue.core).fabricQ.contains n then
    modCore d r.issue.core fun c => { c with fabricQ := c.fabricQ.filter (· != n) }
  else d

/-- RAck: the sequence below which every reply of a connection has been received (R353). -/
def rackOf (d : Dev) (c : Conn) : Nat :=
  match c.unacked with
  | [] => c.sendSeq
  | n :: _ => match mfind d.fabric n with
    | some r => r.seqNo.getD c.sendSeq
    | none => c.sendSeq

/-- The ticket that a TICKET on a connection takes, whose call raises its holder counter here (R373). -/
def takenTicket (n k : Nat) (r : FabRec) : List Ticket :=
  match r.op.fn, r.holder with
  | .ticket, some l => [⟨n, k, ⟨l, r.op.data2, r.ctx, r.issue⟩⟩]
  | .load, _ | .store, _ | .add, _ | .and, _ | .or, _ | .xor, _ | .min, _ | .max, _ | .swap, _ | .cas, _ | .redAdd, _
  | .redAnd, _ | .redOr, _ | .redXor, _ | .redMin, _ | .redMax, _ | .redFadd, _ | .redFmin, _ | .redFmax, _ | .trig, _
  | .ticket, none => []

/-- Send an operation that may leave: it takes the next sequence of its connection (R351). -/
def sendOne (d : Dev) (e : Nat × FabRec) : Dev :=
  let n := e.1
  let r := e.2
  if r.seqNo.isSome || !leftWindow d n r then d
  else match r.dest with
    | .conn k =>
      match mfind d.conns k with
      | none => d
      | some c =>
        if c.down || 65536 ≤ c.unacked.length then d
        else
          let d := leaveQueue d n r
          emit { d with
            tickets := d.tickets ++ takenTicket n k r,
            conns := minsert d.conns k { c with sendSeq := (c.sendSeq + 1) % 2 ^ 32, unacked := c.unacked ++ [n] },
            fabric := minsert d.fabric n { r with seqNo := some c.sendSeq } }
            r.part (.operation k c.sendSeq (rackOf d c) r.op)
    | .window g =>
      if windowHere d g then d
      else
        let d := leaveQueue d n r
        emit { d with fabric := minsert d.fabric n { r with seqNo := some 0 } } r.part (.contribution g r.op)
    | .channel _ _ | .agent _ | .here => d

/-- Send every operation that may leave, in the order of issue. -/
def sendReady (d : Dev) : Dev := d.fabric.foldl sendOne d

end Sys2Proof.Machine
end

