-- ==== Sys2Proof/Machine/Perform.lean ====
section
/-! DEFINITION. What leaves a core when its check windows close: stores, atomics, continuation records, enqueues
(spec/07_deadlines_power.md R150; spec/04_consistency.md R90), and what it brings back. -/

namespace Sys2Proof.Machine

/-! ## The scoreboard (R296, R297) -/

/-- The bytes that an entry of the window touches in vaults, by granule. -/
def windowPlaces : WindowOp → List Nat
  | .store cs => granulesOf (cs.map (·.1)) |>.map (32 * ·)
  | .atomic a => a.loc :: (if a.fn = .aenq then [a.loc2] else [])
  | .arm loc _ => [loc]
  | .continuation _ _ _ cs => granulesOf (cs.map (·.1)) |>.map (32 * ·)
  | .agentStore _ _ _ => []
  | .copy _ => []
  | .fabric _ => []
  | .launch _ => []

/-- Whether an operation of the fabric queue writes (R90, R366): every one but a load without release. -/
def fabricWrites (d : Dev) (n : Nat) : Bool :=
  match mfind d.fabric n with
  | some r => r.op.fn != .load || releases r.order
  | none => false

/-- Whether an entry of the window must wait for earlier loads (R90). -/
def waitsForLoads (d : Dev) : WindowOp → Bool
  | .store _ | .agentStore _ _ _ | .atomic _ | .arm _ _ | .continuation _ _ _ _ | .launch _ => true
  | .fabric n => fabricWrites d n
  | .copy _ => false

/-- Whether an entry of the window is an acquire (R92). -/
def acquiresItem : WindowOp → Bool
  | .atomic a => acquires a.order
  | .arm _ _ => true
  | .store _ | .agentStore _ _ _ | .continuation _ _ _ _ | .copy _ | .fabric _ | .launch _ => false

/-- Whether an entry of the window accesses one of these granules; where memory tells the granules of an atomic,
whether one lies in its page (R246, R247). DEDUCED (log 15). -/
def itemTouches (op : WindowOp) (gs : List Nat) : Bool :=
  (windowPlaces op).any (fun l => gs.contains (granuleOf l)) || (match op with
    | .atomic a =>
      walks a.fn && gs.any fun g =>
        granuleOf (pagePlace a.loc a.va 0) ≤ g && g < granuleOf (pagePlace a.loc a.va 0) + 65536
    | .store _ | .agentStore _ _ _ | .arm _ _ | .continuation _ _ _ _ | .copy _ | .fabric _ | .launch _ => false)

/-- Whether an entry of the window, from before a word's load, keeps it from being performed: an acquire, or an access
to one of its granules (R91). DEDUCED (log 15). -/
def blocksLoad (word : Nat) (gs : List Nat) (w : WindowItem) : Bool :=
  w.word < word && (acquiresItem w.op || itemTouches w.op gs)

/-- Whether a read of the word at hand of granules waits: for an access of its core of an earlier clause (R91), or for an
entry of a scoreboard, those of the words before it in its clause among them (R115, R297). DEDUCED (log 15). -/
def readWaits (s : State) (gs : List Nat) : Bool :=
  (src s).window.any (blocksLoad (wordId s) gs) || gs.any fun g => byteBlocks s.dev (wordId s) false (32 * g)

/-- Hold issue while a read of n bytes at a place cannot be performed (R91, R297). DEDUCED (log 15). -/
def withOrder (s : State) (loc n : Nat) (k : Out) : Out := if readWaits s (granules loc n) then hold s else k

/-- The counters that entries of check windows are about to arm, or to disarm, of a partition at one point of coherence,
but for those armed already, or unarmed. DEDUCED (log 14). -/
def armsComing (d : Dev) (part : BitVec 4) (pool : Nat) (disarm : Bool) : List Nat :=
  (d.cores.flatMap fun e => e.2.window.filterMap fun w => match w.op with
    | .arm loc limit =>
      if armPool loc = pool ∧ (limit == BitVec.allOnes 64) = disarm ∧ (armOf d loc).isSome = disarm ∧
          (launchOf d e.1).any (·.part == part) then some loc else none
    | .store _ | .agentStore _ _ _ | .atomic _ | .continuation _ _ _ _ | .copy _ | .fabric _ | .launch _ => none).eraseDups

/-- Whether a counter of a partition can be armed (R281, R282). DEDUCED (log 14). -/
def armFits (d : Dev) (part : BitVec 4) (loc : Nat) : Bool :=
  let coming := armsComing d part (armPool loc) false
  coming.contains loc || armRoom d part loc coming.length

/-- Whether an entry of a point of coherence is about to be free: a disarm has issued and not been performed.
DEDUCED (log 14). -/
def armWaits (d : Dev) (part : BitVec 4) (loc : Nat) : Bool := !(armsComing d part (armPool loc) true).isEmpty

/-- Whether the queue's reads for a record that a core enqueues wait for a scoreboard (R297). -/
def launchHeld (d : Dev) (c : Core) (op : WindowOp) : Bool :=
  match op, c.run.bind fun r => launchAt d r.launch with
  | .launch bs, some x => enqueueHeld d x.part x.ctx x.sender bs
  | .launch _, none => false
  | .store _, _ | .agentStore _ _ _, _ | .atomic _, _ | .arm _ _, _ | .continuation _ _ _ _, _ | .copy _, _
  | .fabric _, _ => false

/-- Whether the oldest entry of a window can be performed, where only scoreboard entries of words before cap count. -/
def canLeave (d : Dev) (c : Core) (cap : Nat) (w : WindowItem) : Bool :=
  !(waitsForLoads d w.op && loadsBefore c w.word) && !(windowPlaces w.op).any (byteBlocks d (min cap w.word) true) &&
    !launchHeld d c w.op

/-! ## Results that come back (R200, R201) -/

/-- Which of a word's results a register waits for. -/
def resultIndex : LoadSrc → Nat
  | .result i => i
  | .none | .bytes _ _ | .lanes _ | .window _ | .agent _ _ => 0

/-- Give the results of a word to its flights, in the landing buffer where they wait. -/
def fillFlights (wait : Bool) (w : Nat) (xs : List Vec) (fs : List Flight) : List Flight :=
  fs.map fun f =>
    match xs[resultIndex f.src]? with
    | some x => if f.word = w ∧ !f.arrived ∧ !f.fixed then { f with arrived := true, data := x, buffered := wait } else f
    | none => f

/-- Give the results of a word to its latched entries. -/
def fillEntries (w : Nat) (xs : List Vec) (es : List SnapEntry) : List SnapEntry :=
  es.map fun e =>
    match xs[resultIndex e.src]? with
    | some x => if e.word = w ∧ e.valid ∧ !e.arrived then { e with arrived := true, data := x } else e
    | none => e

/-- Write the untimed results that have arrived (R201). -/
def landUntimed (c : Core) : Core := writeSel (fun f => f.remain == 63 && f.arrived) c

/-- Write the untimed results that have arrived, but those that a replay keeps in the landing buffer (R150). -/
def landBefore (c : Core) : Core := writeSel (fun f => f.remain == 63 && f.arrived && !f.buffered) c

/-- The results of a word reach core k: its results in flight, which are written at once, but where a replay keeps them
(R150) or a forced pre-emption awaits them (R213); and, while a handler runs, those latched at the trap entry (R205). -/
def deliver (d : Dev) (k : Nat) (c : Core) (w : Nat) (xs : List Vec) : Core :=
  let wait := replaying d (stopeOf k)
  let c := { c with flights := fillFlights wait w xs c.flights,
                    latch := if c.inHandler then c.latch.map fun l => { l with landing := fillEntries w xs l.landing }
                             else c.latch }
  if wait || preemptDue d.now c then c else landUntimed c

/-- Data for a word of a task that stands in its snapshot: into the landing entry that waits for it, there and in the
image (R323). -/
def deliverSnap (d : Dev) (i : Issue) (l : Launch) (t : Task) (sn : Snap) (x : Vec) : Dev :=
  let sn := snapNow d l t sn
  let la := { sn.latch with landing := fillEntries i.word [x] sn.latch.landing }
  let inner := sn.core.latch.map fun q => { q with landing := fillEntries i.word [x] q.landing }
  let d := modTask d i.launch i.task fun t =>
    { t with snap := some { sn with latch := la, core := { sn.core with latch := inner } } }
  if !sn.stored then d
  else
    let d := writeEntries l t.snapPtr sn.latch.landing la.landing d
    match sn.core.latch, inner with
    | some p, some q => writeEntries l (t.snapPtr + BitVec.ofNat 64 latchOff) p.landing q.landing d
    | _, _ => d

/-- Data for a word of a task, wherever the task is: on its core, in its snapshot, or nowhere (R323). -/
def deliverTask (d : Dev) (i : Issue) (x : Vec) : Dev :=
  match launchAt d i.launch with
  | none => d
  | some l =>
    match mfind l.tasks i.task with
    | none => d
    | some t =>
      match t.state, t.snap with
      | .snapshot, some sn => deliverSnap d i l t sn x
      | _, _ =>
        match d.cores.find? fun e => e.2.run == some ⟨i.launch, i.task⟩ with
        | some (k, c) => putCore d k (deliver d k c i.word [x])
        | none => d

/-! ## Barriers that an exit completes (R284) -/

/-- The members of group g of a generation of size n among m tasks. -/
def groupMembers (n m g : Nat) : List Nat := (List.range n).map (fun j => g * n + j) |>.filter (· < m)

/-- Whether every member of a group has arrived or exited. -/
def groupDone (x : Launch) (b : Barrier) (g : Nat) : Bool :=
  (groupMembers b.size x.record.tasks g).all fun i =>
    b.arrived.contains i || (match mfind x.tasks i with
      | some t => t.state == .exited
      | none => false)

/-- Complete a group of a barrier: its waiting members become ready and gain entries; a group of every task ends the
launch interval (R104, R105). here is a member that does not wait. DESIGN CHOICE (log 76). -/
def completeGroup (d : Dev) (l key g : Nat) (here : Option Nat) : Dev :=
  match launchAt d l with
  | none => d
  | some x =>
    match mfind x.barriers key with
    | none => d
    | some b =>
      let ms := groupMembers b.size x.record.tasks g
      let whole := ms.length == x.record.tasks
      let entries := fun (i : Nat) => (ms.filter fun o => o != i && b.arrived.contains o).map fun o =>
        (⟨BitVec.ofNat 24 o, mget 0 b.epochs o, false⟩ : AcqEntry)
      let d := modLaunch d l fun x =>
        { x with barriers := minsert x.barriers key { b with done := g :: b.done },
                 interval := if whole then x.interval + 1 else x.interval }
      let d := ms.foldl (fun d i =>
        if some i = here ∨ !b.arrived.contains i then d
        else readyTask (modTask d l i fun t =>
          { t with opening := whole, gained := if whole ∨ 17 < ms.length then [] else entries i }) l i) d
      match here with
      | none => d
      | some i =>
        match d.cores.find? fun e => e.2.run == some ⟨l, i⟩ with
        | some (k, c) =>
          putCore d k (if whole then { c with epoch := 0, acq := [] }
            else if 17 < ms.length then c else { c with acq := (entries i).foldl addAcq c.acq })
        | none => d

/-- Complete every group that the exit of a task completes. -/
def exitBarriers (d : Dev) (l i : Nat) : Dev :=
  match launchAt d l with
  | none => d
  | some x =>
    x.barriers.foldl (fun d e =>
      let g := i / e.2.size
      match launchAt d l with
      | some x => if !e.2.done.contains g && !e.2.arrived.isEmpty &&
          groupDone x e.2 g then completeGroup d l e.1 g none else d
      | none => d) d

/-! ## Leaving (R150) -/

/-- What the closing of a task's last window leaves: the core is free, and the task takes its state, or is ready where
its wait has ended since (R49). -/
def endRun (d : Dev) (k l i : Nat) (st : TaskState) (cs : List Host.Cell) : Dev :=
  let d := { d with mem := writeCells d.mem cs }
  let finished : Bool := match launchAt d l with
    | some x => (match mfind x.tasks i with
      | some t => (st == .waiting || st == .regen) && t.wait == .nothing
      | none => false)
    | none => false
  let d := modTask d l i fun t => { t with state := st }
  let d := modCore d k fun c => { freed d.now c with window := c.window }
  let d := if finished then setReady d l i else d
  let d := if st = .exited then exitBarriers d l i else d
  settle d

/-- Check the granules that an atomic of core k reaches and that were not known at issue (R87, R246, R247): the address
of the first that races, or the device with the tags after all. DEDUCED (log 15). -/
def walkCheck (d : Dev) (k : Nat) (a : AtomReq) : Except Dword Dev :=
  let gs := (addGranules [] (walkPlaces d.mem a.fn a.loc a.va a.x)).filter fun e => !a.checked.contains e.1
  match launchOf d k with
  | none => .ok d
  | some x =>
    match raceAll (heldNumber d x.ctx) (coreAt d k).acq (accessOf x a.task.toNat a.began true true false) (gs.map (·.1))
        d.tags with
    | .error g => .error (mget 0 gs g)
    | .ok tags => .ok { d with tags := tags }

/-- Perform an atomic of core k, whose acknowledgement is on its way. One that meets a race in memory is not performed:
its task traps at its next clause, and its result is a free value. DEDUCED (log 15). -/
def performAtom (d : Dev) (k word : Nat) (a : AtomReq) : Dev :=
  let ack := fun (d : Dev) (xs : List Dword) (fl : Flags) => modCore d k fun c => { c with acks := c.acks ++ [⟨word, xs, fl⟩] }
  match walkCheck d k a with
  | .error va => match (coreAt d k).run with
    | some r => ack (notify d r.launch r.task causeRace va) [Config.racedResult word] 0
    | none => d
  | .ok d =>
    let r := performAtomic d (stopeOf k) a
    ack r.2.2 r.1 r.2.1

/-- Perform one entry of a window of core k. -/
def performItem (d : Dev) (k : Nat) (w : WindowItem) : Dev :=
  let c := coreAt d k
  match w.op with
  | .store cs => settle { d with mem := writeCells d.mem cs }
  | .agentStore stack off x =>
    match launchOf d k with
    | some l => agentStore d l.part.toNat stack off x
    | none => d
  | .atomic a => performAtom d k w.word a
  | .arm loc limit =>
    match launchOf d k with
    | some l => armCounter d l.part l.ctx loc limit
    | none => d
  | .continuation l i st cs => endRun d k l i st cs
  | .copy cmd =>
    match mfind d.copies cmd with
    | some q =>
      let d := { d with copies := minsert d.copies cmd { q with queued := true } }
      modStope d q.stope fun x => { x with chans := minsert x.chans q.chan (mget [] x.chans q.chan ++ [cmd]) }
    | none => d
  | .fabric op => sendReady (putCore d k { c with fabricQ := c.fabricQ ++ [op] })
  | .launch bs =>
    match launchOf d k with
    | none => d
    | some l =>
      match enqueueLaunch d l.part l.ctx l.sender false bs with
      | .ok (n, d) =>
        let h := match launchAt d n with
          | some x => handleOf x
          | none => 0
        modCore d k fun c => deliver d k c w.word [h.setWidth 1024]
      | .error st => modCore d k fun c => deliver d k c w.word [BitVec.ofNat 1024 (2 ^ 63 + st)]

/-- The oldest entry of core k's window leaves, where it can. -/
def closeWindow (d : Dev) (k cap : Nat) : Dev :=
  let c := coreAt d k
  match c.window with
  | [] => d
  | w :: r => if canLeave d c cap w then performItem (putCore d k { c with window := r }) k w else d

/-- Every entry that can leave, in order. -/
def closeAll (d : Dev) (k cap : Nat) : Nat → Dev
  | 0 => d
  | n + 1 => closeAll (closeWindow d k cap) k cap n

/-- Flags that wait in the landing buffer for the end of a replay, with no register (R150). -/
def flagsFlight (word : Nat) (fl : Flags) : Flight :=
  { word := word, file := .g, num := 0, remain := 63, fixed := false, arrived := true, buffered := true, data := 0,
    flags := fl, src := .none }

/-- An acknowledgement reaches the core: results and flags (R241); in a replay they wait (R150). -/
def takeAck (d : Dev) (k : Nat) (a : AckItem) : Dev :=
  modCore d k fun c =>
    let c := deliver d k c a.word (a.results.map (·.setWidth 1024))
    let c := { c with acks := c.acks.filter fun b => b.word != a.word }
    if replaying d (stopeOf k) then
      (if a.flags = 0 then c else { c with flights := c.flights ++ [flagsFlight a.word a.flags] })
    else { c with fflags := c.fflags ||| a.flags }

/-- Every acknowledgement that waits. -/
def takeAcks (d : Dev) (k : Nat) : Dev := (coreAt d k).acks.foldl (fun d a => takeAck d k a) d

end Sys2Proof.Machine
end

