-- ==== Sys2Proof/Machine/Loads.lean ====
section
/-! DEFINITION. What a load reads and when it can be performed (spec/04_consistency.md R91; spec/10_core_state.md R201;
spec/07_deadlines_power.md R156, R157), and the accesses of a clause that come before its S word acts
(spec/14_core_sync_system.md R269, R276). -/

namespace Sys2Proof.Machine

/-! ## The counter window (R156, R157) -/

/-- The control die of a core. -/
def controlDie (k : Nat) : Nat := 4 * halfOf (stopeOf k)


/-- How far a die's oscillator has run ahead of ND0's after so many windows of 10,000 ns: by at most one count in each,
which is 100 ppm (R156). -/
def dieDrift (die boot : Nat) : Nat → Int
  | 0 => 0
  | n + 1 => dieDrift die boot n + ((Config.dieDrift die boot n % 3 : Nat) : Int) - 1

/-- A die's counter at a time since boot: ND0's is the time itself; another's has started at a time of its own and runs
within 100 ppm of it (R156). DESIGN CHOICE (log 11). -/
def dieCount (d : Dev) (die : Nat) : Dword :=
  if die = 3 then BitVec.ofNat 64 d.clock
  else BitVec.ofInt 64 ((d.clock + Config.dieStart die d.boots : Nat) + dieDrift die d.boots (d.clock / 10000))

/-- A die's counter as a calibration converts it. -/
def timeOf (d : Dev) (die : Nat) (t : DieTime) : Dword :=
  t.offset + BitVec.ofNat 64 (t.rate.toNat * (dieCount d die).toNat / 2 ^ 32)

/-- The calibration that makes a die's counter read as device time. -/
def freshTime (d : Dev) (die : Nat) : DieTime := ⟨BitVec.ofNat 64 d.now - dieCount d die, 0x100000000#64, d.clock⟩

/-- Whether a calibration holds: for at most 1 ms, and while its readings lie within 2 ns of device time (R156). -/
def calibrated (d : Dev) (die : Nat) (t : DieTime) : Bool :=
  d.clock < t.since + 1000000 && ((timeOf d die t).toInt - (BitVec.ofNat 64 d.now).toInt).natAbs ≤ 2

/-- A die's calibration: the last that was made, while it holds; then the Foreman has calibrated anew. That of ND1
stands once its counter is device time (R156). DESIGN CHOICE (log 11). -/
def dieTime (d : Dev) (die : Nat) : DieTime :=
  match mfind d.dies die with
  | some t => if (die == 7 && d.lost.getLsbD 3) || calibrated d die t then t else freshTime d die
  | none => freshTime d die

/-- A die's counter converted to device time. -/
def converted (d : Dev) (die : Nat) : Dword := timeOf d die (dieTime d die)

/-- Device time as core k reads it: never less than it read before. DESIGN CHOICE (log 11). -/
def timeRead (d : Dev) (k : Nat) : Dword :=
  let t := converted d (controlDie k)
  if t < (coreAt d k).lastTime then (coreAt d k).lastTime else t

/-- Eight bytes of the counter window as core k reads them, with the core's own state. -/
def windowRead (d : Dev) (k : Nat) (c : Core) (off : Nat) : Dword :=
  let die := controlDie k
  if dmodeOf d k && off ≤ 0x30 then 0
  else match off with
    | 0x00 => timeRead d k
    | 0x08 => dieCount d die
    | 0x10 => (dieTime d die).offset
    | 0x18 => (dieTime d die).rate
    | 0x20 => plevelOf d c
    | 0x28 => match launchOf d k with
      | some x => Config.contextEnergy x.ctx (match ctxAt d x.ctx with
          | some q => q.since
          | none => 0) d.now
      | none => 0
    | 0x30 => BitVec.ofNat 64 (stopeAt d (stopeOf k)).replays
    | _ => 0

/-! ## Load data (R91, R201, R235, R297) -/

/-- The places that a load reads, by granule. -/
def sourceGranules (s : LoadSrc) : List Nat :=
  match s with
  | .none | .result _ => []
  | .bytes loc n => granules loc n
  | .lanes ps => granulesOf (ps.filterMap id)
  | .window _ => []
  | .agent _ _ => []

/-- Whether a load of a word of core k can be performed. -/
def loadReady (d : Dev) (k word : Nat) (s : LoadSrc) : Bool :=
  let gs := sourceGranules s
  !((coreAt d k).window.any (blocksLoad word gs)) && !(gs.any fun g => byteBlocks d word false (32 * g))

/-- What a load reads. -/
def loadValue (d : Dev) (k : Nat) (s : LoadSrc) : Vec :=
  match s with
  | .none | .result _ => 0
  | .bytes loc n => BitVec.ofNat 1024 (readN d.mem loc n)
  | .lanes ps => BitVec.ofNat 1024 (ps.foldr (fun p acc => (match p with
      | some l => readN d.mem l 4
      | none => 0) + 2 ^ 32 * acc) 0)
  | .window off => (windowRead d k (coreAt d k) off).setWidth 1024
  | .agent stack off => match launchOf d k with
    | some x => (agentRead d x.part.toNat stack off).setWidth 1024
    | none => 0

/-- The core keeps the device time that it has read. DESIGN CHOICE (log 11). -/
def noteTime (d : Dev) (k : Nat) (s : LoadSrc) : Dev :=
  if s = .window 0 then modCore d k fun c => { c with lastTime := timeRead d k } else d

/-- Landings that hold an entry of the landing buffer. -/
def buffered (c : Core) : Nat := (c.flights.filter fun f => f.buffered).length

/-- Whether data for core k finds an entry of the landing buffer; a core that stops awaits its loads whatever room there
is (R201, R213). -/
def entryFree (d : Dev) (k : Nat) (c : Core) : Bool := !issuing d k || preemptDue d.now c || decide (buffered c < 16)

/-- Data of a flight of core k on its way: discarded where its word owns the register no more; written where its landing
cycle has come; else it waits, in an entry of the landing buffer where it is timed, or in the vault port where none is free. A forced pre-emption awaits it so
too (R213), and during a replay it waits in the buffer, due where its landing cycle has come (R150, R201). -/
def arriveFlight (d : Dev) (k : Nat) (c : Core) (f : Flight) (x : Vec) : Core :=
  let wait := replaying d (stopeOf k)
  let rest := fun (g : Flight) => !(g.word == f.word && g.num == f.num && g.file == f.file)
  let f' := { f with arrived := true, data := x }
  if !owns c f then { c with flights := c.flights.filter rest }
  else if landsAtOnce f.remain && !wait && !(preemptDue d.now c && f.remain != overdue) then
    land { c with flights := c.flights.filter rest } f'
  else
    { c with flights := c.flights.map fun g =>
        if rest g then g
        else { f' with buffered := (wait || f.remain != 63) && entryFree d k c, remain := if f.remain = overdue then 63 else f.remain } }

/-- Perform a load of core k. -/
def performLoad (d : Dev) (k : Nat) (f : Flight) : Dev :=
  modCore (noteTime d k f.src) k fun c => arriveFlight d k c f (loadValue d k f.src)

/-! ## Before the S word of a clause acts (R269, R276) -/

/-- Whether every load of earlier clauses has landed, and every store and atomic of theirs has been performed and
acknowledged. -/
def earlierClear (s : State) : Bool := !loadsBefore (src s) (wordId s) && !storesLeft (src s)

/-- Perform the accesses of the words of the clause at hand that come before a word: its load, then its stores, atomics
and enqueues, each once no scoreboard entry of a word before it is in its way (R115, R297). A load's data that finds no
entry of the landing buffer waits in the vault port (R201). DEDUCED (log 6). -/
def performUpTo (s : State) (word : Nat) : State :=
  let k := s.cur
  let w := 7 * s.dev.issues + 1
  let d := ((live s).flights.filter fun f => w ≤ f.word && f.word < word && isLoad f.src && !f.arrived).foldl (fun d f =>
    if loadReady d k f.word f.src then performLoad d k f else d) s.dev
  setDev s (takeAcks (closeAll d k (w + 7) ((coreAt d k).window.takeWhile fun i => i.word < word).length) k)

/-- Perform the accesses of the clause at hand. DEDUCED (log 6). -/
def performOwn (s : State) : State := performUpTo s (7 * s.dev.issues + 8)

/-- Go on once everything before the S word is done: the accesses of earlier clauses, and then those of its own clause.
DEDUCED (log 6). -/
def withFlush (s : State) (k : State → Out) : Out :=
  if !earlierClear s then hold s
  else
    let t := performOwn s
    if storesLeft (live t) || loadsBefore (live t) (7 * s.dev.issues + 7) then hold s else k t

/-- Go on once the accesses that the words before an S word in its clause make to granules that it reads are done, in
address order (R179). DEDUCED (log 6, 15). -/
def withOwn (s : State) (gs : List Nat) (k : State → Out) : Out :=
  let mine := fun (w : WindowItem) => w.seq == s.dev.issues && blocksLoad (wordId s) gs w
  if (live s).window.any mine then
    if !earlierClear s then hold s
    else
      let t := performUpTo s (wordId s)
      if (live t).window.any mine then hold s else k t
  else k s

end Sys2Proof.Machine
end

