-- ==== Sys2Proof/Machine/Slack.lean ====
section
/-! DEFINITION. Levels, clocks and projected slack (spec/07_deadlines_power.md R138, R143, R144). -/

namespace Sys2Proof.Machine

/-- The stope clock of a level, in MHz (R138). -/
def stopeMhz (l : Nat) : Nat := [400, 550, 700, 850, 1000, 1100, 1300, 1450].getD l 1450

/-- The MX and VX voltage of a level, in mV. -/
def railMv (l : Nat) : Nat := [450, 470, 490, 510, 535, 550, 610, 680].getD l 680

/-- The SR voltage of a level, in mV. -/
def srMv (l : Nat) : Nat := [600, 610, 620, 640, 660, 680, 710, 750].getD l 750

/-- The FB clock of a level, in MHz, and the FB voltage in mV. -/
def fbMhz (l : Nat) : Nat := [800, 900, 1000, 1100, 1200, 1300, 1450, 1600].getD l 1600
def fbMv (l : Nat) : Nat := srMv l

/-- The level whose clock a rail runs at: the lowest of a change under way (R140). -/
def clockLevel (level : BitVec 3) (moving : Option (Nat × Nat × Nat)) : Nat :=
  match moving with
  | some m => m.1
  | none => level.toNat

/-- The level whose voltage a rail has: a rising voltage moves before the clock and a falling one after it, so that it
is the highest of a change under way (R140). DEDUCED (log 45). -/
def voltLevel (level : BitVec 3) (moving : Option (Nat × Nat × Nat)) : Nat :=
  match moving with
  | some m => m.2.1
  | none => level.toNat

/-- The stope clock and the FB clock in force. -/
def clockNow (p : Power) : Nat := stopeMhz (clockLevel p.level p.moving)
def fbClock (p : Power) : Nat := fbMhz (clockLevel p.fb p.fbMoving)

/-- The voltages in force: of MX and VX, with what R151 has added, and of SR and FB. -/
def mxMv (p : Power) : Nat := min 700 (railMv (voltLevel p.level p.moving) + p.extraMv)
def srNow (p : Power) : Nat := srMv (voltLevel p.level p.moving)
def fbNow (p : Power) : Nat := fbMv (voltLevel p.fb p.fbMoving)

/-- A change to a level: under way, with the lowest and the highest of its levels so far. -/
def startMove (now : Nat) (level : BitVec 3) (moving : Option (Nat × Nat × Nat)) (l : Nat) : Option (Nat × Nat × Nat) :=
  if level.toNat = l then moving
  else some (min l (clockLevel level moving), max l (voltLevel level moving), now)

/-- The longest time that a change takes, in ns (R140). -/
def moveBound : Nat := 2000

/-- A change that has taken its longest time is complete. -/
def boundMove (now : Nat) (moving : Option (Nat × Nat × Nat)) : Option (Nat × Nat × Nat) :=
  match moving with
  | some m => if m.2.2 + moveBound ≤ now then none else moving
  | none => none

/-- Remaining work in thousandths of a reference cycle (R144). -/
def workLeft (x : Launch) : Nat := 1000 * x.work - x.spent

/-- Slack at a clock of f MHz, in ns · MHz (R144): none where the step has no deadline. -/
def slackScaled (now : Nat) (x : Launch) (f : Nat) : Option Int :=
  x.deadline.map fun t => ((t : Int) - (now : Int)) * (f : Int) - ((workLeft x : Nat) : Int)

/-- Slack in whole ns, rounded down. -/
def slackNs (now : Nat) (x : Launch) (f : Nat) : Option Int := (slackScaled now x f).map fun v => v / (f : Int)

/-- Whether a launch has slack at a level; without a deadline it has. -/
def hasSlack (now : Nat) (x : Launch) (level : Nat) : Bool :=
  match slackScaled now x (stopeMhz level) with
  | some v => 0 ≤ v
  | none => true

end Sys2Proof.Machine
end

