-- ==== Sys2Proof/Machine/System.lean ====
section
/-! DEFINITION. The system words of major 0 and the waits of major 28 (spec/14_core_sync_system.md R269 to R285;
spec/07_deadlines_power.md R142). -/

namespace Sys2Proof.Machine

def execNop (s : State) : Out := .next s

/-! ## Traps (R273, R274) -/

/-- The position has been set, and the schedule cycle has passed, for the clause to come. -/
def moveTo (s : State) (d : Dev) : Out := .next (setVerdict { s with dev := d } .moved)

/-- TRAP: the other words stand; the clause that follows is latched. A landing that the clause's own cycle still waits
for comes before the handler's first clause (R236). Where there is no handler, that clause is the PC of the image of the
launch that stops. DEDUCED (log 65). -/
def execTrap (a k : RegNum) (t : Bool) (s : State) : Out :=
  let late := fun (f : Flight) => f.remain == overdue && !noHandler s.dev s.cur
  let c := afterClause s
  let d := putCore s.dev s.cur { tickFlights c with flights := (tickFlights c).flights.filter fun f => !late f }
  withSources s [gSrc s a t]
    (moveTo s (modCore (takeTrap d s.cur (64 + k.toNat) (readG (src s) a) c.pc) s.cur fun q =>
      { q with flights := q.flights ++ c.flights.filter late }))

/-- ERET: a launch whose task cannot resume stops (R208); else the latched values are back. -/
def execEret (s : State) : Out :=
  let c := src s
  if !c.inHandler then trap s causeIllegalOpcode ((wordAddr s).setWidth 64)
  else if c.noResume then
    match c.run with
    | some r => .next { s with dev := stopLaunch s.dev r.launch ⟨some r.task, c.tcause.toNat, 0, some (live s), c.latch, 8⟩ }
    | none => .next s
  else moveTo s (modCore (returnFromTrap s.dev s.cur) s.cur tickFlights)

/-! ## System registers (R270 to R272) -/

/-- A system register as the task reads it. -/
def readSys (d : Dev) (k : Nat) (r : SysReg) : Dword :=
  let c := coreAt d k
  match r with
  | .fflags => c.fflags.setWidth 64
  | .frm => c.frm.setWidth 64
  | .seed => c.seed
  | .tvec => c.tvec.setWidth 64
  | .tcause => tcauseOf c
  | .tinfo => c.tinfo
  | .plevel => plevelSeen d k c
  | .freezelimit => c.limit.setWidth 64
  | .dmask => match launchOf d k with
    | some x => match ctxAt d x.ctx with
      | some q => q.dmask.setWidth 64
      | none => 0
    | none => 0
  | .snapver => 1
  | .gpc => c.gpc.setWidth 64
  | .glink => c.glink.setWidth 64
  | .lc => c.lc.setWidth 64
  | .ec => c.ec.setWidth 64
  | .rrb => c.rrb.setWidth 64
  | .lstart => c.lstart.setWidth 64
  | .lend => lendOf c
  | .lgpc => c.lgpc.setWidth 64
  | .prio => match launchOf d k with
    | some x => BitVec.ofNat 64 ((dmodeOf d k).toNat * 256 + x.level % 16)
    | none => 0
  | .deadline => match launchOf d k with
    | some x => if dmodeOf d k then 0 else BitVec.ofNat 64 (x.deadline.getD 0)
    | none => 0
  | .cbase => (anchorOf d k).setWidth 64

/-- A WRSR: read-only registers and fields stay as they are. -/
def writeSys (c : Core) (r : SysReg) (x : Dword) : Core :=
  match r with
  | .fflags => { c with fflags := x.setWidth 5 }
  | .frm => if x.toNat % 8 ≤ 4 then { c with frm := x.setWidth 3 } else c
  | .seed => { c with seed := x }
  | .tvec => { c with tvec := x.setWidth 48 }
  | .plevel => setPlevel c x
  | .freezelimit => { c with limit := x.setWidth 32 }
  | .glink => { c with glink := x.setWidth 48 }
  | .lc => { c with lc := x.setWidth 32 }
  | .ec => { c with ec := x.setWidth 16 }
  | .rrb => setRrb c x
  | .lstart => { c with lstart := x.setWidth 48 }
  | .lend => { c with lend := x.setWidth 48, active := x.getLsbD 63 }
  | .lgpc => { c with lgpc := x.setWidth 48 }
  | .tcause | .tinfo | .dmask | .snapver | .gpc | .prio | .deadline | .cbase => c

def execRdsr (d : RegNum) (r : SysReg) (s : State) : Out := .next (issueG s d 2 (readSys (srcDev s) s.cur r))

/-- The dispatcher's RiskPend bit of the task follows a clear (R380). -/
def keepRisk (s : State) : State :=
  match (live s).run with
  | some r => setDev s (modTask s.dev r.launch r.task fun t => { t with riskPend := (live s).riskPend })
  | none => s

def execWrsr (a : RegNum) (r : SysReg) (t : Bool) (s : State) : Out :=
  let x := readG (src s) a
  withSources s [gSrc s a t] (.next (keepRisk (modLive s fun c => writeSys c r x)))

/-! ## The live snapshot image (R275) -/

/-- The checks of an image offset. -/
def withOffset (s : State) (off : Dword) (k : Out) : Out :=
  checked s (off.toNat % 8 != 0) causeMisaligned off (checked s (imageSize ≤ off.toNat) causeAccess off k)

/-- Whether a place of the image is among the latched values. -/
def latchField : Field → Bool
  | .header _ | .acq _ | .landing _ _ | .inflight _ _ => true
  | .g _ | .full _ | .p _ _ | .o _ | .sys _ | .v _ _ | .nothing => false

/-- Eight bytes of the live image: latched values read zero where none were latched; FreezeNs reads 0 in D-mode. -/
def liveWord (d : Dev) (k off : Nat) : Dword :=
  let c := coreAt d k
  match c.latch with
  | some l => imageWord (plevelSeen d k c) c (if dmodeOf d k then { l with freezeNs := 0 } else l) off
  | none => if latchField (fieldOf off) then 0 else imageWord (plevelSeen d k c) c latchZero off

def execSnaprd (d a : RegNum) (t : Bool) (s : State) : Out :=
  let off := readG (src s) a
  withSources s [gSrc s a t] (withOffset s off (.next (issueG s d 2 (liveWord (srcDev s) s.cur off.toNat))))

def execSnapwr (a b : RegNum) (t u : Bool) (s : State) : Out :=
  let off := readG (src s) a
  let x := readG (src s) b
  let f := fieldOf off.toNat
  withSources s [gSrc s a t, gSrc s b u]
    (withOffset s off
      (if latchField f then
         match (live s).latch with
         | none => .next s
         | some l => match writeLatchField l f x with
           | some l => .next (modLive s fun c => { c with latch := some l })
           | none => trap s causeAccess off
       else .next (keepRisk (modLive s fun c => writeCoreField c f x))))

/-! ## Fences (R276) -/

/-- A fence: an issue hold until every earlier load has landed and every earlier store and atomic has been performed and
acknowledged; then a place in the order of its scope and one more race epoch. -/
def fence (s : State) : Out := withFlush s fun s => .next (advance s)

def execFenceS (s : State) : Out := fence s
def execFenceD (s : State) : Out := fence s
def execFenceY (s : State) : Out := fence s

/-! ## Suspension and exit (R277) -/

def execSuspend (s : State) : Out := suspendAfter s .ready 0 .nothing 0 0

def execEndstep (s : State) : Out := suspendAfter s .stepEnd 1 .nothing 0 0

/-- EXIT: a nonzero code stops the launch, with the state after the clause (R58, R214). -/
def execExit (a : RegNum) (t : Bool) (s : State) : Out :=
  let x := readG (src s) a
  withSources s [gSrc s a t]
    (if x = 0 then suspendAfter s .exited 2 .nothing 0 0
     else match (live s).run with
       | some r =>
         let c := { afterClause s with flights := [] }
         .next (setDev s (stopLaunch s.dev r.launch ⟨some r.task, 0, x.setWidth 16, some c, some (latchOf c c.pc), 8⟩))
       | none => .next s)

/-! ## LAUNCH (R278) -/

/-- Reach bytes as a fetch does, R67 steps 1 to 5: a failing byte traps, a page suspends; else go on with their
places. -/
def withRange (s : State) (va : Dword) (n : Nat) (k : List Nat → Out) : Out :=
  withLaunch s fun x =>
    let look := fun (i : Nat) => xlate s.dev x (stopeOf s.cur) .fetch .read (va + BitVec.ofNat 64 i)
    match (List.range n).find? fun i => (match look i with
      | .place _ => false
      | .trap _ | .page _ => true) with
    | some i => match look i with
      | .trap c => trap s c va
      | .page p => touchPage s p (va + BitVec.ofNat 64 i)
      | .place _ => .next s
    | none => k ((List.range n).filterMap fun i => match look i with
        | .place p => locOf p
        | .trap _ | .page _ => none)

/-- Read bytes at places as an engine read of the task: it waits for what comes before it, and its granules are checked
in the order of their addresses (R87, R111, R297). At one that races the command stops, with what stopped makes of it:
the granules before it stand, and the task traps at its next clause (R108). DESIGN CHOICE (log 80). -/
def readRange (s : State) (va : Dword) (locs : List Nat) (stopped : State → State) (k : State → List Byte → Out) : Out :=
  withLaunch s fun x =>
    match (src s).run with
    | none => hold s
    | some r =>
      let a := accessOf x r.task (live s).epoch false false true
      if readWaits s (granulesOf locs) then hold s
      else
        let held := heldNumber s.dev x.ctx
        match raceAll held (live s).acq a (granulesOf locs) s.dev.tags with
        | .error _ => withDies s (diesAt (stopeOf s.cur) locs) fun s =>
          let tags := (raceUpTo held (live s).acq a (locs.map granuleOf).eraseDups s.dev.tags).2
          .next (stopped (setDev s (notify { s.dev with tags := tags } r.launch r.task causeRace
            (racedAt held (live s).acq a s.dev.tags locs va))))
        | .ok tags =>
          withDies { s with dev := { s.dev with tags := tags } } (diesAt (stopeOf s.cur) locs) fun s =>
            k s (locs.map (readByte s.dev.mem))

/-- A LAUNCH whose record read stops at a race enqueues nothing, and its result is a free value.
DESIGN CHOICE (log 80). -/
def launchRaced (d : RegNum) (s : State) : State :=
  modLive (issueLoad s .g d.toNat 63 .none) fun c => deliver s.dev s.cur c (wordId s) [(Config.racedResult (wordId s)).setWidth 1024]

/-- DESIGN CHOICE (log 80). -/
def execLaunch (d a : RegNum) (t : Bool) (s : State) : Out :=
  let va := readG (src s) a
  withSources s [gSrc s a t]
    (checked s (va >>> 48 != 0) causeAbsent va
      (withRange s va 256 fun locs =>
        checked s (va.toNat % 8 != 0) causeMisaligned va
          (inDmode s (d != 0)
            (withFlush s fun s =>
              readRange s va locs (launchRaced d) fun s bs =>
                .next (advance (enqueue (issueLoad s .g d.toNat 63 .none) (.launch bs)))))))

/-! ## DEADLINE and SWPT (R279, R280, R142) -/

/-- A launch with the current step's deadline and work declared; restored slack lets the risk be raised again (R146). -/
def declareOn (now grant core : Nat) (ns work : Dword) (x : Launch) : Launch :=
  let x := { x with deadline := if ns = 0 then none else some (now + ns.toNat), work := work.toNat, spent := 0,
                    declared := true, declBy := some (now, core) }
  { x with risked := x.risked && !hasSlack now x grant }

/-- Whether a declaration of a gang-local core counts: those of one cycle count by the lowest core, and a regeneration
launch uses the values of the launch that it serves (R54, R143). -/
def declares (now core : Nat) (x : Launch) : Bool :=
  x.parent.isNone && (match x.declBy with
    | some (t, c) => t != now || core ≤ c
    | none => true)

/-- Declare a deadline for a launch and for its regeneration launches, which use its values (R54, R143). -/
def declareDeadline (d : Dev) (l core : Nat) (ns work : Dword) : Dev :=
  match launchAt d l with
  | none => d
  | some x =>
    if declares d.now core x then
      { d with launches := d.launches.map fun e =>
          (e.1, if e.1 = l ∨ e.2.parent = some l then declareOn d.now d.power.grant.toNat core ns work e.2 else e.2) }
    else d

def execDeadline (a b : RegNum) (t u : Bool) (s : State) : Out :=
  let c := src s
  withSources s [gSrc s a t, gSrc s b u]
    (match c.run with
     | some r => .next (setDev s (declareDeadline s.dev r.launch ((launchAt s.dev r.launch).elim 0 (gangCore · s.cur))
         (readG c a) (readG c b)))
     | none => .next s)

/-- The entry of a switch point that a SWPT reads, as its issue cycle finds it (R280). -/
def swptEntry (s : State) : Nat :=
  let c := src s
  c.swpt.getD (if c.riskPend then 7 else s.dev.power.grant.toNat)

/-- What sr.tinfo holds where a SWPT's entry is turned away as MISALIGNED: the target or the address of the entry, a free
choice, where the PC names no packet start, since R174 and R142 disagree; else the address (R142).
DESIGN CHOICE (log 71). -/
def swptInfo (anchor : Va) (va : Dword) (pc : Va) : Dword :=
  if pc != 0 && !packetStart anchor pc && Config.swptTarget va.toNat then pc.setWidth 64 else va

/-- An entry of a switch point: its 16 bytes as a number (R142). A SWPT that waits keeps the entry of its issue cycle.
DEDUCED (log 15, 66). DESIGN CHOICE (log 71, 78). -/
def execSwpt (j : BitVec 12) (s : State) : Out :=
  withLaunch s fun x =>
    let lev := swptEntry s
    let va : Dword := x.record.switchTab.setWidth 64 + BitVec.ofNat 64 (128 * j.toNat + 16 * lev)
    let done := fun (s : State) => modLive s fun c => { c with swpt := none }
    checked s (x.record.switches ≤ j.toNat) causeAccess va
      (checked s (x.record.switchTab.toNat % 16 != 0) causeMisaligned va
        (withPlace s ⟨.fetch, .read, va, 1, true, false⟩ fun p =>
          let loc := (locOf p).getD 0
          withOwn (onBase s fun d => modCore d s.cur fun c => { c with swpt := some lev }) (granules loc 16) fun s =>
            withOrder s loc 16
              (withRace s (granulesAt p va 16) false false fun s =>
                withDies s (diesOf (stopeOf s.cur) p) fun s =>
                  let n := readN s.dev.mem loc 16
                  let pc : Va := BitVec.ofNat 48 n
                  let gl : Va := BitVec.ofNat 48 (n >>> 64)
                  checked s (n >>> 48 % 2 ^ 16 != 0 || n >>> 112 != 0) causeIllegalOpcode va
                    (checked s ((pc != 0 && !packetStart (anchorOf s.dev s.cur) pc) || gl.toNat % 4 != 0) causeMisaligned
                        (swptInfo (anchorOf s.dev s.cur) va pc)
                      (.next (if pc = 0 then done s else leaveTo (modLive (done s) fun c => { c with gpc := gl }) pc))))))

/-! ## WAITGE and ARMCNT (R282, R283) -/

/-- The PC of a wait's continuation is the wait's own clause, and it resumes with the gloss of that clause (R49). -/
def suspendWait (s : State) (wf : WaitFor) (wa wv : Dword) : Out :=
  let gl := (src s).gpc
  match suspendTask (modCore s.dev s.cur fun c => { c with gpc := gl }) s.cur .waiting 3 (src s).pc wf wa wv with
  | .ok d => .next { s with dev := d }
  | .error e => suspendTrap s e

/-- The check of an atomic access to a counter's granule (R87, R281). DEDUCED (log 66). -/
def withCounterRace (s : State) (p : Place) (va : Dword) (write : Bool) (k : State → Out) : Out :=
  withRace s (granulesAt p va 8) write true fun s => withDies s (diesOf (stopeOf s.cur) p) k

/-- DEDUCED (log 15, 66). -/
def execWaitge (a b : RegNum) (t u : Bool) (s : State) : Out :=
  let va := readG (src s) a
  let want := readG (src s) b
  withSources s [gSrc s a t, gSrc s b u]
    (withPlace s ⟨.coreAtomic, .read, va, 8, true, false⟩ fun p =>
      let loc := (locOf p).getD 0
      withOwn s (granules loc 8) fun s =>
        withOrder s loc 8
          (inDmode s (armOf s.dev loc).isNone
            (withCounterRace s p va false fun s =>
              checked s (overrunAt s.dev loc) causeOverrun va
                (let v := counterValue s.dev loc
                 if want ≤ v then
                   .next (modLive s fun c =>
                     { c with epoch := advanceEpoch c.epoch,
                              acq := (acquired s.dev loc (stopeOf s.cur) v).foldl addAcq c.acq })
                 else suspendWait s (.counter loc want) va want))))

/-- DEDUCED (log 14, 66). -/
def execArmcnt (a b : RegNum) (t u : Bool) (s : State) : Out :=
  let va := readG (src s) a
  let limit := readG (src s) b
  withSources s [gSrc s a t, gSrc s b u]
    (withPlace s ⟨.coreAtomic, .write, va, 8, true, false⟩ fun p =>
      withLaunch s fun x =>
        let loc := (locOf p).getD 0
        let full := limit != BitVec.allOnes 64 && !armFits s.dev x.part loc
        if full && armWaits s.dev x.part loc then hold s
        else checked s full causeAccess va
          (withCounterRace s p va true fun s => .next (advance (enqueue s (.arm loc limit)))))

/-! ## BAR (R284) -/

/-- The key of a generation of a barrier slot. -/
def slotKey (sl gen : Nat) : Nat := 64 * gen + sl

/-- Arrive at a generation of a slot for the core's task: the others of a complete group become ready; else the task
suspends, to go on with the clause after. -/
def arriveBar (s : State) (x : Launch) (r : Running) (sl n : Nat) : Out :=
  let k := match mfind x.tasks r.task with
    | some t => mget 0 t.arrivals sl
    | none => 0
  let key := slotKey sl k
  let fixed := match mfind x.barriers key with
    | some b => b.size
    | none => n
  if fixed ≠ n then trap s causeAccess (BitVec.ofNat 64 (2 ^ 63 + sl))
  else withFlush s fun s =>
    let s := advance s
    let b := (mfind x.barriers key).getD ⟨n, [], [], []⟩
    let b := { b with arrived := b.arrived ++ [r.task], epochs := minsert b.epochs r.task (live s).epoch }
    let d := modLaunch s.dev r.launch fun x => { x with barriers := minsert x.barriers key b }
    let d := modTask d r.launch r.task fun t => { t with arrivals := minsert t.arrivals sl (k + 1) }
    let g := r.task / n
    match launchAt d r.launch with
    | none => .next s
    | some x =>
      if groupDone x b g then .next { s with dev := completeGroup d r.launch key g (some r.task) }
      else suspendAfter { s with dev := d } .waiting 3 (.slot sl k) (BitVec.ofNat 64 (2 ^ 63 + sl)) (BitVec.ofNat 64 k)

def execBar (a b : RegNum) (t u : Bool) (s : State) : Out :=
  let sl := readG (src s) a
  let n := readG (src s) b
  withSources s [gSrc s a t, gSrc s b u]
    (withLaunch s fun x =>
      match (src s).run with
      | none => hold s
      | some r =>
        checked s (63 < sl.toNat || n == 0 || x.record.tasks < n.toNat) causeAccess sl
          (arriveBar s x r sl.toNat n.toNat))

end Sys2Proof.Machine
end

