-- ==== Sys2Proof/Machine/Engine.lean ====
section
/-! DEFINITION. What engine words share: their issue, vault grants (spec/03_memory_translation.md R74), scoreboard
entries (spec/16_array_machine.md R296), and reports at the task's next clause (spec/04_consistency.md R108). -/

namespace Sys2Proof.Machine

/-- The issue of an engine word by the core that moves, with the epoch and the log that the words before it in its clause
have left (R104, R111). DESIGN CHOICE (log 75). -/
def issueOf (s : State) (x : Launch) (task : Nat) : Issue :=
  let c := live s
  { launch := match c.run with
      | some r => r.launch
      | none => 0,
    task := task, core := s.cur, word := wordId s, seq := s.dev.issues, step := BitVec.ofNat 12 x.step,
    number := BitVec.ofNat 4 (x.number.getD 0), interval := BitVec.ofNat 8 x.interval, epoch := c.epoch, log := c.acq }

/-- The task that the core that moves runs. -/
def taskOf (s : State) : Nat :=
  match (src s).run with
  | some r => r.task
  | none => 0

/-- Check granules of a command, ascending, up to the first that races: that one, where there is one, and the device
with the tags of those before it (R108). -/
def engineRaces (d : Dev) (ctx : Nat) (i : Issue) (write atom : Bool) (gs : List Nat) : Option Nat × Dev :=
  let r := raceUpTo (heldNumber d ctx) i.log (engineAccess i write atom) gs d.tags
  (r.1, { d with tags := r.2 })

/-! ## Vault grants (R74) -/

/-- Whether a context's grants hold a page of a stope's vault. -/
def pageGranted (c : Context) (stope page : Nat) : Bool :=
  c.pages.any fun e =>
    e.2.state != 0 && e.2.output.toNat / 2 ^ 21 == page &&
      (e.2.target == 0 || (e.2.target == 1 && (e.2.info.getLsbD 6 || e.2.info.toNat % 64 == stope)))

/-- Whether n bytes at a vault offset lie below a limit and in the grants. -/
def rangeGranted (d : Dev) (ctx stope limit : Nat) (off : Int) (n : Nat) : Bool :=
  if off < 0 then false
  else
    let o := off.toNat
    o + n ≤ limit && (match ctxAt d ctx with
      | some c => (List.range ((o + n - 1) / 2 ^ 21 - o / 2 ^ 21 + 1)).all fun j =>
          pageGranted c stope (o / 2 ^ 21 + j)
      | none => false)

/-! ## The scoreboard (R296) -/

def boardFree (d : Dev) (stope : Nat) : Nat := 64 - (stopeAt d stope).board.length

/-- Take an entry for a range of vault bytes, widened to granules. -/
def takeEntry (d : Dev) (stope cmd seq lo hi : Nat) (write : Bool) : Dev :=
  modStope d stope fun x => { x with board := x.board ++ [⟨cmd, seq, lo / 32 * 32, hi / 32 * 32 + 31, write⟩] }

/-- Free every entry of a command, in every scoreboard. -/
def freeEntries (d : Dev) (cmd : Nat) : Dev :=
  { d with stopes := d.stopes.map fun e => (e.1, { e.2 with board := e.2.board.filter fun b => b.cmd != cmd }) }

/-- The smallest and the largest of numbers. -/
def span (xs : List Nat) : Option (Nat × Nat) :=
  match xs with
  | [] => none
  | x :: r => some (r.foldl min x, r.foldl max x)

/-- Whether a command may access memory: no acquire of the issuing core from before it is still to be performed (R92),
no earlier entry is in conflict with one of its own, and no store or atomic of the core from before it is still to reach
a place of its range (R297). -/
def boardClear (d : Dev) (cmd core word : Nat) : Bool :=
  !((coreAt d core).window.any fun w => w.word < word && acquiresItem w.op) &&
  d.stopes.all fun e => e.2.board.all fun b =>
    b.cmd != cmd ||
      (!(e.2.board.any fun o => o.seq < b.seq && o.cmd != cmd && o.lo ≤ b.hi && b.lo ≤ o.hi && (o.write || b.write)) &&
       !((coreAt d core).window.any fun w => w.word < word && (windowPlaces w.op).any fun l =>
          l < 2 ^ 40 && l / 2 ^ 24 == e.1 && l % 2 ^ 24 / 32 * 32 ≤ b.hi && b.lo ≤ l % 2 ^ 24 / 32 * 32 + 31))

/-! ## Addresses in reports (R108) -/

/-- Whether a page entry leads an access from a stope of a gang to a page of a stope's vault (R65). -/
def leadsTo (e : LttPage) (home : Nat) (gang : List Nat) (stope page : Nat) : Bool :=
  e.state == 1 && e.output.toNat / 2 ^ 21 == page &&
    ((e.target == 0 && stope == home) ||
     (e.target == 1 && (if e.info.getLsbD 6 then gang[e.info.toNat % 64]? == some stope else e.info.toNat % 64 == stope)))

/-- The address at which the table of an issuer gives a place of a vault, for reports: the lowest page that leads there;
the bare offset where none does. DESIGN CHOICE (log 74). -/
def addrOf (d : Dev) (ctx : Nat) (i : Issue) (loc : Nat) : Dword :=
  let off := loc % 2 ^ 24
  let gang := (launchAt d i.launch).elim [] (·.gang)
  match (ctxAt d ctx).bind fun c =>
      c.pages.find? fun e => leadsTo e.2 (stopeOf i.core) gang (loc / 2 ^ 24) (off / 2 ^ 21) with
  | some e => BitVec.ofNat 64 (e.1 * 2 ^ 21 + off % 2 ^ 21)
  | none => BitVec.ofNat 64 off

/-! ## Stopes that fail (R21) -/

/-- Fence a stope off: the launches that hold it stop. -/
def failStope (d : Dev) (n : Nat) : Dev :=
  let d := modStope d n fun x => { x with failed := true }
  d.launches.foldl (fun d e =>
    if e.2.gang.contains n && (e.2.state == .running || e.2.state == .preempting) then
      stopLaunch d e.1 ⟨none, 0, 0, none, none, statusStopeFailed⟩
    else d) d

/-- The partition of a launch, for the log. -/
def partOfLaunch (d : Dev) (l : Nat) : Nat :=
  match launchAt d l with
  | some x => x.part.toNat
  | none => noPart

/-- An uncorrectable error at a place: logged with its address (R34), and an HBM channel that reports one is to be
retired (R22). A vault's place is logged by its number, 2^24 · stope + offset. DESIGN CHOICE (log 62). -/
def logError (d : Dev) (part : Nat) (loc : Option Nat) : Dev :=
  let l := loc.getD 0
  addLog (if l < 2 ^ 40 then d else { d with erred := d.erred ++ [l] }) 4 part (detail [if l < 2 ^ 40 then l else l - 2 ^ 40])

/-- A stope reported to the Foreman, which treats it as failing (R151, R300). -/
def reportStope (d : Dev) (n : Nat) : Dev :=
  failStope (addLog d 6 noPart (detail [n, mget n d.sites n])) n

end Sys2Proof.Machine
end

