-- ==== Sys2Proof/Machine/CoreEvents.lean ====
section
/-! DEFINITION. What comes to a core between its clauses: results and landings, load data, freezes, check windows,
timing replays, acknowledgements and the deadline interrupt (spec/10_core_state.md R195 to R203;
spec/12_core_memory_atomics.md R235; spec/07_deadlines_power.md R147, R150, R151, R156, R157). -/

namespace Sys2Proof.Machine

/-! ## Freezes (R202, R203) -/

/-- Whether another core of the stope holds a freeze, or a clause of the stope replays (R150, R202). -/
def frozenBy (d : Dev) (k : Nat) : Bool :=
  replaying d (stopeOf k) || (List.range 4).any fun q => 4 * stopeOf k + q != k && holdsFreeze (coreAt d (4 * stopeOf k + q))

/-- Whether a core's freeze has lasted longer than its limit. -/
def freezeOver (now : Nat) (c : Core) : Bool :=
  holdsFreeze c && c.limit != 0 && (match c.stall with
    | some x => c.limit.toNat * 1024 < now - x.since
    | none => false)

/-- The register that a core waits for. -/
def freezeReg (c : Core) : Dword :=
  match c.stall with
  | some x => match x.reg with
    | some (f, n) => BitVec.ofNat 64 (regCode f n)
    | none => 0
  | none => 0

/-- The cycle after a transfer, where it has yet to pass: the clause that waits is the transfer's target (R195). -/
def passBubble (d : Dev) (k : Nat) : Dev :=
  modCore d k fun c => if c.bubble then tickFlights { c with bubble := false } else c

/-- FREEZE_TIMEOUT in every core of a stope that holds a freeze, where one has lasted too long. -/
def freezeTimeout (d : Dev) (stope : Nat) : Dev :=
  let ks := (List.range 4).map (4 * stope + ·)
  if ks.any fun k => freezeOver d.now (coreAt d k) then
    ks.foldl (fun d k =>
      let c := coreAt d k
      if holdsFreeze c && issuing d k then takeTrap (passBubble d k) k causeFreezeTimeout (freezeReg c) c.pc else d) d
  else d

/-! ## The clause boundary (R108, R147) -/

/-- Whether a core is at a clause boundary: no cycle after a transfer is still to pass, and no landing of the last cycle
is awaited (R195, R236). DEDUCED (log 8). -/
def cycleOver (c : Core) : Bool := !c.bubble && (c.flights.all fun f => f.remain != overdue || f.arrived || !owns c f)

/-- Whether a DEADLINE_RISK that waits at a clause boundary is dropped: no handler takes it. -/
def riskDrops (d : Dev) (k : Nat) : Bool :=
  let c := coreAt d k
  c.notice.isEmpty && c.risk.isSome && c.riskEn && !dmodeOf d k && !c.inHandler &&
    (c.tvec == 0 || !packetStart (anchorOf d k) c.tvec)

/-- A DEADLINE_RISK that waits, at a clause boundary: the device after its entry, or with it dropped where there is no
handler. It waits while a handler runs, and while the task does not enable it. -/
def riskBoundary (d : Dev) (k : Nat) : Option Dev :=
  let c := coreAt d k
  match c.risk with
  | none => none
  | some v =>
    if !c.riskEn || dmodeOf d k || c.inHandler then none
    else if c.tvec = 0 || !packetStart (anchorOf d k) c.tvec then some (putCore d k { c with risk := none })
    else some (takeTrap (putCore d k { unwrite c with risk := none }) k causeDeadlineRisk v c.pc)

/-- A pending trap, or else the interrupt, at the clause boundary. -/
def boundary (d : Dev) (k : Nat) : Option Dev :=
  let c := coreAt d k
  match c.notice with
  | t :: r => some (takeTrap (putCore d k { unwrite c with notice := r }) k t.cause t.info c.pc)
  | [] => riskBoundary d k

/-! ## Load data (R201, R235) -/

/-- The place at which the data of a load's word meets an error: the first byte of a load, a free choice among the lanes
of a gather, and a free number for a register of an agent or of the counter window, which has no physical address.
DESIGN CHOICE (log 62, 68). -/
def sourcePlace (w : Nat) (s : LoadSrc) : Nat :=
  match s with
  | .bytes loc _ => loc
  | .lanes ps =>
    let ls := ps.filterMap id
    ls[Config.errorAt w % ls.length]?.getD 0
  | .none | .result _ => 0
  | .window off | .agent _ off => Config.registerPlace w off % 2 ^ 40

/-- An uncorrectable error on a load's data: the launch faults, and the address is logged (R235). A
handler's latched values go with it, and no others (R214). -/
def loadError (d : Dev) (l i : Nat) (c : Core) (w : Nat) (s : LoadSrc) : Dev :=
  stopLaunch (logError d (partOfLaunch d l) (some (sourcePlace w s))) l ⟨some i, causeAccess, 0, some c, handlerLatch c, 8⟩

/-- Data of a word that waits in the vault port takes an entry of the landing buffer, where one is free (R201). -/
def enterBuffer (d : Dev) (k w : Nat) : Dev :=
  modCore d k fun c =>
    let enter := fun (f : Flight) => f.word == w && waitsPort f && entryFree d k c
    { c with flights := c.flights.map fun f => if enter f then { f with buffered := true } else f }

/-- The data of a load of core k arrives, where the load can be performed; or data that waited in the vault port enters
the landing buffer (R201). -/
def loadArrives (d : Dev) (k w : Nat) (ue : Bool) : Dev :=
  let c := coreAt d k
  match c.run with
  | none => d
  | some r =>
    match c.flights.find? fun f => f.word == w && isLoad f.src && !f.arrived with
    | some f =>
      if !loadReady d k f.word f.src then d
      else if ue then loadError d r.launch r.task c w f.src
      else performLoad d k f
    | none =>
      match (handlerLatch c).bind fun l => l.landing.find? fun e => e.valid && e.word == w && isLoad e.src && !e.arrived with
      | none => enterBuffer d k w
      | some e =>
        if !loadReady d k e.word e.src then d
        else if ue then loadError d r.launch r.task c w e.src
        else modCore (noteTime d k e.src) k fun c =>
          { c with latch := c.latch.map fun l => { l with landing := l.landing.map fun q =>
              if q.valid && q.word == w && !q.arrived then { q with arrived := true, data := loadValue d k e.src }
              else q } }

/-- Whether no schedule cycle of core k passes: its stope is frozen, or it waits itself, and writes its results when it
goes on (R202), or it waits at the boundary of a forced pre-emption that is due (R286). -/
def standsStill (d : Dev) (k : Nat) : Bool :=
  preemptDue d.now (coreAt d k) || frozenBy d k || (coreAt d k).stall.isSome || (lateLanding (coreAt d k)).isSome

/-! ## Check windows and replays (R150, R151) -/

/-- An atomic load is a load: one without release may be performed, and bring its result, while earlier entries of the
window still wait, where none of them is an acquire or an access to its granule (R91, R118). -/
def performEarly (d : Dev) (k word : Nat) : Dev :=
  let c := coreAt d k
  match c.window.find? fun w => w.word == word with
  | some w => match w.op with
    | .atomic a =>
      if a.fn = .ald ∧ !releases a.order ∧ !(c.window.any (blocksLoad word (granules a.loc (if a.half then 4 else 8)))) ∧
          !byteBlocks d word false a.loc then
        let d := performItem (putCore d k { c with window := c.window.filter fun v => v.word != word }) k w
        ((coreAt d k).acks.filter fun a => a.word == word).foldl (fun d a => takeAck d k a) d
      else d
    | .store _ | .agentStore _ _ _ | .arm _ _ | .continuation _ _ _ _ | .copy _ | .fabric _ | .launch _ => d
  | none => d

/-- The entries of the oldest clause in core k's window leave, as far as they can. -/
def closeOldest (d : Dev) (k : Nat) : Nat → Nat → Dev
  | 0, _ => d
  | n + 1, seq =>
    match (coreAt d k).window with
    | [] => d
    | w :: _ => if w.seq = seq then closeOldest (closeWindow d k (7 * d.issues + 8)) k n seq else d

/-- The oldest clause's entries leave; none does in a replay (R150). -/
def windowClose (d : Dev) (k : Nat) : Dev :=
  match (coreAt d k).window with
  | [] => d
  | w :: r => if replaying d (stopeOf k) then d else closeOldest d k (r.length + 1) w.seq

/-- 20 mV more on MX and VX, to at most 700 mV (R151). -/
def addMv (p : Power) : Power := if mxMv p < 700 then { p with extraMv := p.extraMv + 20 } else p

/-- The voltage that a stope waits for has been added. -/
def settleVolts (d : Dev) (stope : Nat) : Dev :=
  if (stopeAt d stope).settling.isSome then
    modStope { d with power := addMv d.power } stope fun x => { x with settling := none }
  else d

/-- A replay is counted; a stope that still replays with MX and VX at 700 mV is reported (R151).
DESIGN CHOICE (log 44). -/
def countReplay (d : Dev) (st : Nat) : Dev :=
  let d := modStope d st fun x => { x with replays := x.replays + 1, period := x.period + 1 }
  if 700 ≤ mxMv d.power then reportStope d st else d

/-- A replay of the clause of core k, which has no effect of its own: the domain stands still until the clause has
issued; after four in a row, until MX and VX have 20 mV more. DESIGN CHOICE (log 44). -/
def replay (d : Dev) (k : Nat) : Dev :=
  let st := stopeOf k
  let n := (coreAt d k).replays + 1
  let d := modStope (countReplay d st) st fun x => { x with replay := some (k % 4, d.now) }
  if n < 4 then modCore d k fun c => { c with replays := n }
  else
    let d := addLog (modCore d k fun c => { c with replays := 0 }) 0 noPart (detail [st, k % 4])
    modStope d st fun x => { x with settling := if mxMv d.power < 700 then some d.now else none }

/-- A replay of a step of a stope's array (R150). DESIGN CHOICE (log 44). -/
def replayStep (d : Dev) (st : Nat) : Dev := modStope (countReplay d st) st fun x => { x with replay := some (4, d.now) }

/-! ## The events -/

def coreNum (c : CoreId) : Nat := 4 * c.stope.toNat + c.core.toNat

def onCoreEvent (c : CoreId) (s : State) (f : Dev → Nat → Dev) : Out := .next (setDev s (f s.dev (coreNum c)))

def execResultWrite (core : CoreId) (s : State) : Out :=
  onCoreEvent core s fun d k => if standsStill d k then d else modCore d k (writeAhead fun f => f.fixed && due f)

def execLandingWrite (core : CoreId) (s : State) : Out :=
  onCoreEvent core s fun d k => if standsStill d k then d else modCore d k (writeAhead fun f => !f.fixed && due f)

def execLoadDataArrival (core : CoreId) (word : Nat) (ue : Bool) (s : State) : Out :=
  onCoreEvent core s fun d k => loadArrives d k word ue

def execFreezeTimeout (stope : BitVec 6) (s : State) : Out := .next (setDev s (freezeTimeout s.dev stope.toNat))

def execCheckWindowClose (core : CoreId) (s : State) : Out := onCoreEvent core s windowClose

def execTimingReplay (core : CoreId) (s : State) : Out :=
  onCoreEvent core s fun d k =>
    let x := stopeAt d (stopeOf k)
    let steps := x.arrayQ.any (·.started)
    if steps && (Config.arrayFlagged x.replays || !issuing d k) then replayStep d (stopeOf k)
    else if issuing d k && (lateLanding (coreAt d k)).isNone then replay d k else d

def execAtomicAcknowledgement (core : CoreId) (word : Nat) (s : State) : Out :=
  onCoreEvent core s fun d k =>
    match (coreAt d k).acks.find? fun a => a.word == word with
    | some a => takeAck d k a
    | none => performEarly d k word

def execDeadlineRiskInterrupt (core : CoreId) (s : State) : Out :=
  onCoreEvent core s fun d k =>
    if issuing d k && (coreAt d k).notice.isEmpty && cycleOver (coreAt d k) && !clauseReplays d k &&
        (coreAt d k).pend.isNone then (riskBoundary d k).getD d else d

end Sys2Proof.Machine
end

