-- ==== Sys2Proof/Machine/Governor.lean ====
section
/-! DEFINITION. The governor: sensors, demands, levels and DEADLINE_RISK; grants, energy samples and calibration
(spec/07_deadlines_power.md R139 to R157; spec/24_program_triggered_allreduce.md R380). -/

namespace Sys2Proof.Machine

/-! ## Sensors (R152 to R154) -/

/-- How many sensors there are: two at each of the 68 sites, from 0 on, and sixteen on each network die.
DESIGN CHOICE (log 47). -/
def sensorCount : Nat := 168

/-- A sensor's kind. DESIGN CHOICE (log 47). -/
def sensorKind (n : Nat) : SensorKind := if n % 2 = 0 then .thermal else .current

/-- Whether a sensor lies on a network die, which FB feeds. -/
def onFb (n : Nat) : Bool := 136 ≤ n

/-- The three fixed neighbours of a sensor, of its kind. DESIGN CHOICE (log 47). -/
def sensorNear (n : Nat) : List Nat := (List.range 3).map fun i => 2 * (Config.sensorNeighbour n i % 84) + n % 2

/-- A sensor before its first sample. DESIGN CHOICE (log 1). -/
def sensorReset (n : Nat) : Sensor :=
  let v : Int := match sensorKind n with
    | .thermal => 25
    | .current => 0
  { value := v, same := 0, beyond := 0, failed := false, holds := false, reading := v }

def sensorAt (ss : SMap Sensor) (n : Nat) : Sensor := mget (sensorReset n) ss n

/-- Whether a reading lies outside its range. -/
def outOfRange (k : SensorKind) (v : Int) : Bool :=
  match k with
  | .thermal => v < -40 || 150 < v
  | .current => v < 0 || 130 < v

def insertInt (x : Int) : List Int → List Int
  | [] => [x]
  | y :: r => if x ≤ y then x :: y :: r else y :: insertInt x r

def sortInts (xs : List Int) : List Int := xs.foldr insertInt []

/-- The median of readings: of two, their mean. DESIGN CHOICE (log 47). -/
def median (xs : List Int) : Option Int :=
  let ys := sortInts xs
  match ys with
  | [] => none
  | _ => some (if ys.length % 2 = 1 then ys.getD (ys.length / 2) 0
      else (ys.getD (ys.length / 2 - 1) 0 + ys.getD (ys.length / 2) 0) / 2)

/-- Whether a reading differs from the median of its neighbours by more than its threshold. -/
def tooFar (k : SensorKind) (v m : Int) : Bool :=
  match k with
  | .thermal => 8 < (v - m).natAbs
  | .current => 15 * m.natAbs < 100 * (v - m).natAbs

/-- A guard band on a substitute. DESIGN CHOICE (log 47). -/
def guardBand (k : SensorKind) (m : Int) : Int :=
  match k with
  | .thermal => m + 5
  | .current => m + 10

/-- The neighbours of a sensor that are not yet failed. -/
def healthyNear (old : SMap Sensor) (n : Nat) : List Nat := (sensorNear n).filter fun m => !(sensorAt old m).failed

/-- A sensor's sample in a period: one with no new reading reads as before. DESIGN CHOICE (log 47). -/
def sampleOf (old : SMap Sensor) (xs : List SensorSample) (n : Nat) : Int :=
  match xs.find? fun x => x.sensor == n with
  | some x => x.value
  | none => (sensorAt old n).value

/-- A sensor after a period's samples: its counts, whether it has failed, and the reading that governs its domain, which
is its own where it has failed and has no healthy neighbour. DESIGN CHOICE (log 47). -/
def sampleSensor (old : SMap Sensor) (xs : List SensorSample) (n : Nat) : Sensor :=
  let s := sensorAt old n
  let v := sampleOf old xs n
  let near := healthyNear old n
  let moved := near.any fun m => sampleOf old xs m != (sensorAt old m).value
  let same := if s.value = v then (if moved then s.same + 1 else s.same) else 0
  let beyond := match median (near.map (sampleOf old xs)) with
    | some m => if tooFar (sensorKind n) v m then s.beyond + 1 else 0
    | none => 0
  let top := (near.map (sampleOf old xs)).foldl (fun (m : Option Int) v => some (match m with
    | some a => max a v
    | none => v)) none
  { value := v, same := same, beyond := beyond,
    failed := s.failed || outOfRange (sensorKind n) v || 64 ≤ same || 3 ≤ beyond, holds := s.holds,
    reading := match s.failed, top with
      | true, some m => guardBand (sensorKind n) m
      | true, none | false, _ => v }

/-- Whether the n-th of the sensors is hot: a thermal one that reads t or more. -/
def isHot (t : Int) (e : Nat × Sensor) : Bool := sensorKind e.1 == .thermal && t ≤ e.2.reading

/-- Levels that heat takes from a rail: one more in each period with a sensor at 105 °C or above; none once every sensor
that took one reads below 100 °C. DESIGN CHOICE (log 47). -/
def heatLevels (ss : SMap Sensor) (n : Nat) : Nat :=
  if ss.any (isHot 105) then n + 1
  else if ss.any fun e => e.2.holds && isHot 100 e then n else 0

def holdMark (e : Nat × Sensor) (n : Nat) : Sensor := { e.2 with holds := n != 0 && (e.2.holds || isHot 105 e) }

/-- The cap that sensors put on a rail, below the grant: for those that had failed before the period's samples, and for
those with fewer than two healthy neighbours. -/
def sensorCap (grant : Nat) (old ss : SMap Sensor) : Nat :=
  let a := if ss.any fun e => (sensorAt old e.1).failed then grant - 1 else grant
  if ss.any fun e => (healthyNear old e.1).length < 2 then min a 2 else a

/-- The sensors of the compute dies, and those of the network dies. -/
def computeSensors (ss : SMap Sensor) : SMap Sensor := ss.filter fun e => !onFb e.1
def fbSensors (ss : SMap Sensor) : SMap Sensor := ss.filter fun e => onFb e.1

/-- Every sensor after a period's samples, and the log entries of those that have failed in it. Before the first reading
that changes, every sensor stands as at reset. A log entry names a sensor by the model's number of it.
DESIGN CHOICE (log 47). -/
def sampleAll (d : Dev) (xs : List SensorSample) : Dev :=
  let old := d.power.sensors
  if xs.isEmpty && old.isEmpty then { d with power := { d.power with hotC := 0, hotF := 0 } }
  else
    let ss : SMap Sensor := (List.range sensorCount).map fun n => (n, sampleSensor old xs n)
    let hc := heatLevels (computeSensors ss) d.power.hotC
    let hf := heatLevels (fbSensors ss) d.power.hotF
    let ss := ss.map fun e => (e.1, holdMark e (if onFb e.1 then hf else hc))
    let failedNow := ss.filter fun e => e.2.failed && !(sensorAt old e.1).failed
    failedNow.foldl (fun d e => addLog d 1 noPart
        (detail [e.1, (if sensorKind e.1 = .thermal then 0 else 1), (BitVec.ofInt 64 e.2.value).toNat]))
      { d with power := { d.power with sensors := ss, hotC := hc, hotF := hf } }

/-! ## DEADLINE_RISK (R146, R147, R380) -/

/-- Whether a task that is on no core enables the interrupt: as its snapshot has it, else as it will resume.
DEDUCED (log 48). -/
def riskEnabled (d : Dev) (x : Launch) (t : Task) : Bool :=
  match t.state, t.snap with
  | .snapshot, some sn => (snapNow d x t sn).core.riskEn
  | _, _ => x.record.riskInt

/-- The interrupt for one task of a launch: RiskPend is set, and outside D-mode the interrupt waits where the task
enables it. DEDUCED (log 48). -/
def riskTask (d : Dev) (l i : Nat) (slack : Dword) (dmode : Bool) : Dev :=
  let d := modTask d l i fun t => { t with riskPend := true }
  match d.cores.find? fun e => e.2.run == some ⟨l, i⟩ && !e.2.leaving with
  | some (k, _) => modCore d k fun c =>
      { c with riskPend := true, risk := if c.riskEn && !dmode then some slack else c.risk }
  | none => match launchAt d l with
    | some x => modTask d l i fun t => { t with risk := if !dmode && riskEnabled d x t then some slack else t.risk }
    | none => d

/-- Whether a launch runs: one that is to be pre-empted does until its cores have left it. -/
def underWay (x : Launch) : Bool := x.state == .running || x.state == .preempting

/-- Raise the risk of a launch whose slack at the grant is negative, once a step. DEDUCED (log 48). -/
def raiseRisk (d : Dev) (l : Nat) (x : Launch) : Dev :=
  match slackNs d.now x (stopeMhz d.power.grant.toNat) with
  | none => d
  | some v =>
    if 0 ≤ v || x.risked || !underWay x then d
    else
      let slack := BitVec.ofInt 64 v
      let dm := match partAt d x.part.toNat with
        | some p => p.dmode
        | none => false
      let d := addLog (modLaunch d l fun x => { x with risked := true }) 5 x.part.toNat
        (detail [(handleOf x).toNat, x.step, slack.toNat])
      x.tasks.foldl (fun d t =>
        if t.2.state == .exited || t.2.state == .faulted then d else riskTask d l t.1 slack dm) d

/-! ## Levels (R139, R140, R145, R151) -/

/-- Launches of a partition that run and have a deadline. -/
def deadlineLaunches (d : Dev) (part : Nat) : List Launch :=
  (d.launches.map (·.2)).filter fun x => x.part.toNat == part && underWay x && x.deadline.isSome

/-- The level that a partition demands. -/
def demandOf (d : Dev) (part : Nat) (p : Partition) : Nat :=
  let g := d.power.grant.toNat
  match deadlineLaunches d part with
  | [] => min p.deflt.toNat g
  | xs => ((List.range (g + 1)).find? fun l => xs.all fun x => hasSlack d.now x l).getD g

/-- The highest replay count of any stope in the period. -/
def worstReplays (d : Dev) : Nat := (d.stopes.map fun e => e.2.period).foldl max 0

/-- The response to replays in a period: a level, or at the grant, or at a cap below it, 20 mV; ten quiet periods end it,
with all the voltage that has been added (R151). DESIGN CHOICE (log 47). -/
def replayResponse (p : Power) (worst level cap : Nat) : Power :=
  if 64 < worst then
    if level + p.boost < cap then { p with boost := p.boost + 1, quiet := 0 } else { addMv p with quiet := 0 }
  else if worst < 8 then
    if 9 ≤ p.quiet then { p with boost := 0, extraMv := 0, quiet := 0 } else { p with quiet := p.quiet + 1 }
  else { p with quiet := 0 }

/-- The levels of the compute rails and of FB are set: a change of either begins (R140). -/
def setLevels (now : Nat) (p : Power) (l fb : Nat) : Power :=
  { p with level := BitVec.ofNat 3 l, moving := startMove now p.level p.moving l,
           fb := BitVec.ofNat 3 fb, fbMoving := startMove now p.fb p.fbMoving fb }

/-- The FB level for the next period, from the compute level. -/
def fbLevel (p : Power) (compute : Nat) (full : Bool) : Nat :=
  max (compute - 2) (if full then p.fb.toNat + 1 else p.fb.toNat - 1)

/-- One evaluation of the governor. -/
def evaluate (d : Dev) (inp : GovernorInput) : Dev :=
  let d := d.launches.foldl (fun d e => raiseRisk d e.1 e.2) d
  let old := d.power.sensors
  let d := sampleAll d inp.sensors
  let g := d.power.grant.toNat
  let ss := d.power.sensors
  let capC := sensorCap g old (computeSensors ss) - d.power.hotC
  let capF := sensorCap g old (fbSensors ss) - d.power.hotF
  let want := (d.parts.map fun e => demandOf d e.1 e.2).foldl max 0
  let worst := worstReplays d
  let p := replayResponse { d.power with highest := worst } worst (min want capC) capC
  let level := if ss.any (isHot 115) then 0 else min capC (min want capC + p.boost)
  let fb := if ss.any (isHot 115) then 0 else min capF (fbLevel p level inp.queueFull)
  { d with power := { setLevels d.now p level fb with nextEval := (d.now / 10000 + 1) * 10000 },
           stopes := d.stopes.map fun e => (e.1, { e.2 with period := 0 }) }

/-- Whether the governor evaluates: device time has reached a multiple of 10,000 ns that it has not evaluated at
(R143). -/
def evaluates (d : Dev) : Bool := d.power.nextEval ≤ d.now

def execGovernorEvaluation (inp : GovernorInput) (s : State) : Out :=
  .next (setDev s (if evaluates s.dev then evaluate s.dev inp else s.dev))

/-- The changes under way complete: the clocks and the voltages are those of the levels in force, and stopes that have
waited for 20 mV go on (R140, R151). -/
def levelsSettled (d : Dev) : Dev :=
  let d := { d with power := { d.power with moving := none, fbMoving := none } }
  d.stopes.foldl (fun d e => settleVolts d e.1) d

def execLevelChangeComplete (s : State) : Out := .next (setDev s (levelsSettled s.dev))

/-- What has taken its longest time is over (R140, R151). -/
def boundLevels (d : Dev) : Dev :=
  let d := { d with power := { d.power with moving := boundMove d.now d.power.moving,
                                            fbMoving := boundMove d.now d.power.fbMoving } }
  d.stopes.foldl (fun d e => match e.2.settling with
    | some t => if t + moveBound ≤ d.now then settleVolts d e.1 else d
    | none => d) d

def execPowerGrant (level : BitVec 3) (s : State) : Out :=
  .next (setDev s { s.dev with power := { s.dev.power with grant := level } })

/-! ## Energy samples (R155) -/

def ringSize : Nat := 65536

/-- The 32 bytes of a core's sample. -/
def sampleBytes (d : Dev) (k : Nat) (mw : Word) : List Byte :=
  let c := coreAt d k
  let busy := (launchOf d k).isSome && c.run.isSome
  let task := match c.run with
    | some r => r.task
    | none => 0
  let num := match launchOf d k with
    | some x => x.number.getD 0
    | none => 0
  natBytes 32 (d.now % 2 ^ 64 * 2 ^ 192 +
    (if busy then c.pc.toNat * 2 ^ 144 + c.gpc.toNat * 2 ^ 96 + task % 2 ^ 24 * 2 ^ 72 + num % 16 * 2 ^ 68 else 0) +
    stopeOf k % 64 * 2 ^ 62 + k % 4 * 2 ^ 60 + mw.toNat * 2 ^ 28 + bitIf (stopeFrozen d (stopeOf k)) 27 + bitIf (!busy) 26 +
    d.power.level.toNat * 2 ^ 23)

/-- A sample enters a context's ring while sampling runs, or is dropped and counted where the ring is full. -/
def addSample (d : Dev) (ctx : Nat) (bs : List Byte) : Dev :=
  match ctxAt d ctx with
  | none => d
  | some c => match c.sampling with
    | none => d
    | some q =>
      if q.k = 0 then d
      else if ringSize ≤ q.ring.length then
        { d with ctxs := minsert d.ctxs ctx { c with sampling := some { q with dropped := q.dropped + 1 } },
                 foreman := { d.foreman with sampleDrops := d.foreman.sampleDrops + 1 } }
      else { d with ctxs := minsert d.ctxs ctx { c with sampling := some { q with ring := q.ring ++ [bs] } } }

/-- The 2^k stope cycles of a context's sampling period have passed, in ns · MHz (R155). DESIGN CHOICE (log 81). -/
def Sampling.due (q : Sampling) : Bool := q.k ≠ 0 && 1000 * 2 ^ q.k ≤ q.spent

/-- The sample of a context is due. -/
def sampleDue (d : Dev) (ctx : Nat) : Bool := ((ctxAt d ctx).bind (·.sampling)).any (·.due)

/-- The next period of a context's sampling begins where the last one ended. DESIGN CHOICE (log 81). -/
def nextPeriod (d : Dev) (ctx : Nat) : Dev :=
  { d with ctxs := mmod d.ctxs ctx fun c =>
      { c with sampling := c.sampling.map fun q => { q with spent := q.spent - 1000 * 2 ^ q.k } } }

/-- One period's samples of a context: of every core of its partition's stopes, with the power that each stope draws.
The samples are taken at the first such event of a period's end, and none before it (R155). DESIGN CHOICE (log 81). -/
def execEnergySample (ctx : Nat) (mw : List (Nat × Word)) (s : State) : Out :=
  if !sampleDue s.dev ctx then .next s else
  let d := nextPeriod s.dev ctx
  let stopes := match ctxAt d ctx with
    | some c => (match partAt d c.part.toNat with
      | some p => p.stopes
      | none => [])
    | none => []
  let power := fun (n : Nat) => match mw.find? fun e => e.1 == n with
    | some e => e.2
    | none => 0
  .next (setDev s (stopes.foldl (fun d n =>
    (List.range 4).foldl (fun d q => addSample d ctx (sampleBytes d (4 * n + q) (power n))) d) d))

/-! ## Calibration (R156) -/

/-- The Foreman calibrates a die; the values of ND1 stand once its counter is device time. A calibration holds while its
readings lie within 2 ns of device time (R156). -/
def execTimeCalibration (die : BitVec 3) (offset rate : Dword) (s : State) : Out :=
  if die = 7 ∧ s.dev.lost.getLsbD 3 then .next s
  else .next (setDev s { s.dev with dies := minsert s.dev.dies die.toNat ⟨offset, rate, s.dev.clock⟩ })

end Sys2Proof.Machine
end

