-- ==== Sys2Proof/Machine/Array.lean ====
section
/-! DEFINITION. The bit-serial array: operand descriptors, checks at issue, matrix commands, drains, banks and leases
(spec/16_array_machine.md R287 to R301; spec/17_array_instructions.md R302 to R315). -/

namespace Sys2Proof.Machine

/-! ## Descriptors (R292, R293) -/

/-- A scratchpad operand, from its register pair. -/
structure Operand where
  even  : Dword
  odd   : Dword
  deriving DecidableEq, Repr

def opRot (q : Operand) : Nat := bitField q.even.toNat 60 4
def opEdge (q : Operand) : Nat := bitField q.even.toNat 48 8
def opRowPitch (q : Operand) : Nat := bitField q.even.toNat 24 24
def opBase (q : Operand) : Nat := bitField q.even.toNat 0 24
def opSteps (q : Operand) : Nat := bitField q.odd.toNat 56 8
def opTilePitch (q : Operand) : Nat := bitField q.odd.toNat 24 24
def opSide (q : Operand) : Nat := bitField q.odd.toNat 0 24

/-- Whether an operand breaks a limit of R294 of its own. -/
def operandBad (q : Operand) (weight : Bool) : Bool :=
  bitField q.even.toNat 56 4 != 0 || bitField q.odd.toNat 48 8 != 0 || opEdge q == 0 || 128 < opEdge q ||
    opSteps q == 0 || 128 < opSteps q || (!weight && (opRot q != 0 || opSide q != 0)) ||
    (weight && opRot q != 0 && opEdge q % 16 != 0)

/-- The edge position of column c (R293). -/
def edgeAt (rot c : Nat) : Nat := 16 * (c / 16) + (c % 16 + rot) % 16

/-- The gloss word's fields (R192). -/
def glWf (g : Word) : Nat := bitField g.toNat 0 4
def glAf (g : Word) : Nat := bitField g.toNat 4 4
def glBudget (g : Word) : Nat := bitField g.toNat 8 5
def glRate (g : Word) : Bool := g.getLsbD 13
def glRound (g : Word) : Bool := g.getLsbD 14
def glBank (g : Word) : Nat := bitField g.toNat 15 2
def glAcc (g : Word) : Bool := g.getLsbD 17
def glSkip (g : Word) : Bool := g.getLsbD 18
def glSynth (g : Word) : Nat := bitField g.toNat 24 4

/-- Whether a gloss word is reserved (R193). -/
def glossBad (g : Word) : Bool :=
  bitField g.toNat 28 4 != 0 || bitField g.toNat 19 5 != 0 || 7 < glWf g || 1 < glAf g || 6 < glSynth g ||
    (glSynth g != 0 && (glWf g != 7 || glAf g != 1))

/-- Stored magnitude planes of a format code (R76), and the bytes of a block (R77). -/
def planesOf (wf : Nat) : Nat := [1, 4, 6, 9, 8, 16, 16, 16].getD wf 16
def blockBytes (wf : Nat) : Nat := 4 * (1 + planesOf wf)

/-- The terms of a synthesised product: of the activation and of the weight (R310). -/
def termsOf (synth : Nat) : Nat × Nat :=
  [(0, 0), (0, 0), (0, 1), (1, 0), (0, 2), (1, 1), (2, 0)].getD synth (0, 0)

/-- A matrix command with its operands moved to the terms that MMAW selects. -/
structure Product where
  w     : Operand
  a     : Operand
  uw    : Int
  ua    : Int
  g     : Word
  /-- Bytes, and entries, by which a term stands beyond the operand's base. -/
  wOff  : Int
  eOff  : Int
  aOff  : Int
  deriving DecidableEq, Repr

def productOf (w0 w1 a0 a1 : Dword) (uw ua : BitVec 24) (g : Word) (wide : Bool) : Product :=
  let w : Operand := ⟨w0, w1⟩
  let a : Operand := ⟨a0, a1⟩
  let t := if wide then termsOf (glSynth g) else (0, 0)
  { w := w, a := a, uw := uw.toInt, ua := ua.toInt, g := g,
    wOff := ((t.2 * opSteps w * opTilePitch w : Nat) : Int), eOff := ((8 * t.2 * opSteps w * opEdge w : Nat) : Int),
    aOff := ((t.1 * opSteps a * opTilePitch a : Nat) : Int) }

/-- Offsets of a weight block, of its side entry and of an activation block (R293, R310). -/
def weightAt (q : Product) (k c : Nat) : Int :=
  ((opBase q.w + edgeAt (opRot q.w) c * opRowPitch q.w + k * opTilePitch q.w : Nat) : Int) +
    (blockBytes (glWf q.g) : Int) * q.uw + q.wOff

def entryAt (q : Product) (k c : Nat) : Int :=
  (opSide q.w : Int) + 8 * (((k * opEdge q.w + edgeAt (opRot q.w) c : Nat) : Int) + q.uw) + q.eOff

def actAt (q : Product) (k m : Nat) : Int :=
  ((opBase q.a + m * opRowPitch q.a + k * opTilePitch q.a : Nat) : Int) + 4 * q.ua + q.aOff

def slicesOf (g : Word) : Nat := 1 + glAf g

/-- Every pair of a step and an edge index. -/
def grid (steps edge : Nat) : List (Nat × Nat) :=
  (List.range steps).flatMap fun k => (List.range edge).map fun c => (k, c)

def wGrid (q : Product) : List (Nat × Nat) := grid (opSteps q.w) (opEdge q.w)
def aGrid (q : Product) : List (Nat × Nat) := grid (opSteps q.a) (opEdge q.a)

def actBytes (g : Word) : Nat := 40 * slicesOf g

/-- The checks of R294 at issue: a cause and its information. -/
def productFault (d : Dev) (ctx stope : Nat) (q : Product) : Option (Nat × Dword) :=
  let info := fun (x : Int) => BitVec.ofInt 64 x
  let inData := fun (x : Int) (n : Nat) => rangeGranted d ctx stope 0xC00000 x n
  let inSide := fun (x : Int) => 0xC00000 ≤ x && rangeGranted d ctx stope 0xD80000 x 8
  let ws := wGrid q
  let as := aGrid q
  if operandBad q.w true then some (causeAccess, q.w.even)
  else if operandBad q.a false then some (causeAccess, q.a.even)
  else if opSteps q.w ≠ opSteps q.a then some (causeAccess, q.w.even)
  else match ws.find? fun e => weightAt q e.1 e.2 % 4 != 0 with
    | some e => some (causeMisaligned, info (weightAt q e.1 e.2))
    | none => match as.find? fun e => actAt q e.1 e.2 % 8 != 0 with
      | some e => some (causeMisaligned, info (actAt q e.1 e.2))
      | none =>
        if opSide q.w % 8 ≠ 0 then some (causeMisaligned, BitVec.ofNat 64 (opSide q.w))
        else match ws.find? fun e => !inData (weightAt q e.1 e.2) (blockBytes (glWf q.g)) with
          | some e => some (causeAccess, info (weightAt q e.1 e.2))
          | none => match ws.find? fun e => !inSide (entryAt q e.1 e.2) with
            | some e => some (causeAccess, info (entryAt q e.1 e.2))
            | none => match as.find? fun e => !inData (actAt q e.1 e.2) (actBytes q.g) with
              | some e => some (causeAccess, info (actAt q e.1 e.2))
              | none => none

/-! ## Banks and leases (R289, R291) -/

def bankAt (d : Dev) (stope b : Nat) : Bank := mget bankReset (stopeAt d stope).banks b

def putBank (d : Dev) (stope b : Nat) (x : Bank) : Dev :=
  modStope d stope fun q => { q with banks := minsert q.banks b x }

/-- Whether another task owns a bank. -/
def bankTaken (d : Dev) (stope b l i : Nat) : Bool :=
  match (bankAt d stope b).owner with
  | some o => o != (l, i)
  | none => false

/-- Whether a bank of the task is still to be restored (R290); or the task has given the bank up and a restore takes it
before any other claim (R289, R290). -/
def bankPending (d : Dev) (stope b l i : Nat) : Bool :=
  let given := fun (x : Bank) => x.owner == some (l, i) && x.released.isSome
  (stopeAt d stope).restores.any fun r =>
    r.bank == b && (r.launch == l && r.task == i || given (bankAt d stope b))

/-- Take an unowned bank: after a task of another context it is scrubbed (R289). -/
def claimBank (d : Dev) (stope b l i ctx : Nat) : Dev :=
  let x := bankAt d stope b
  if x.owner = some (l, i) then
    if x.released.isSome then putBank d stope b { x with released := none } else d
  else if x.last = some ctx then putBank d stope b { x with owner := some (l, i), released := none }
  else putBank d stope b { owner := some (l, i), last := some ctx, released := none, flags := 0, cells := [] }

/-- The lease of core k ends (R291). -/
def endLease (d : Dev) (k : Nat) : Dev :=
  let d := modCore d k fun c => { c with lease := false, leaseRem := 0, leaseOk := false }
  modStope d (stopeOf k) fun x => { x with holder := if x.holder = some (k % 4) then none else x.holder }

/-- One counted word of the lease is used; the 64th ends it. -/
def useLease (d : Dev) (k : Nat) : Dev :=
  let c := coreAt d k
  if c.leaseRem.toNat ≤ 1 then endLease d k else putCore d k { c with leaseRem := c.leaseRem - 1 }

/-- Grant the lease of a stope to the request placed first, where no core holds it (R291). -/
def grantLease (d : Dev) (stope : Nat) : Dev :=
  let x := stopeAt d stope
  match x.holder, x.leaseQ with
  | none, q :: r =>
    let d := putStope d stope { x with holder := some q, leaseQ := r }
    modCore d (4 * stope + q) fun c =>
      { c with lease := true, leaseRem := c.leaseNext, leaseNext := 64, leaseReq := false, leaseOk := !c.leaseBack,
               leaseBack := false }
  | _, _ => d

/-- Place a lease request of core k behind those that wait; a lease it holds ends (R304). DEDUCED (log 36). -/
def requestLease (d : Dev) (k : Nat) : Dev :=
  let d := endLease d k
  let d := modCore d k fun c => { c with leaseReq := true }
  modStope d (stopeOf k) fun x => { x with leaseQ := x.leaseQ ++ [k % 4] }

/-! ## What a command reads and does (R288, R308) -/

/-- A block of weights as a command uses it: exponent, NaNBlock, and the signed effective weights. -/
structure WBlock where
  exp   : Int
  nan   : Bool
  w     : List Int
  time  : Nat
  deriving DecidableEq, Repr

/-- The side entry at a vault offset. -/
def sideAt (d : Dev) (stope : Nat) (off : Int) : SideEntry :=
  sideOf (BitVec.ofNat 64 (readN d.mem (vaultLoc stope off.toNat) 8))

/-- Read a weight block under its entry (R78, R130). -/
def readWeights (d : Dev) (stope : Nat) (g : Word) (ent : SideEntry) (off : Int) : WBlock :=
  let n := planesOf (glWf g)
  let word := fun (j : Nat) => (BitVec.ofNat 32 (readN d.mem (vaultLoc stope (off.toNat + 4 * j)) 4) : Word)
  let planes := (List.range n).map fun j => word (j + 1)
  let sign := word 0
  let occ := ent.occ.toNat
  let eff := fun (i : Nat) =>
    let m := effWeight ent.top.toNat (glBudget g) (glRound g) (planeMag occ planes i)
    if sign.getLsbD i then -((m : Nat) : Int) else ((m : Nat) : Int)
  { exp := ent.exp.toInt, nan := ent.nan, w := (List.range 32).map eff,
    time := blockTime n occ ent.top.toNat (glBudget g) (glRound g) (glSkip g) (glRate g) }

/-- The A9 block of a slice, where its bytes 38 and 39 are zero. -/
def readAct (d : Dev) (stope : Nat) (off : Int) (slice : Nat) : Option A9 :=
  readA9 (readN d.mem (vaultLoc stope (off.toNat + 40 * slice)) 40)

/-- Granules that step k of a product reads. -/
def stepGranules (stope : Nat) (q : Product) (k : Nat) : List Nat :=
  let locs :=
    ((List.range (opEdge q.w)).flatMap fun c =>
      granules (vaultLoc stope (weightAt q k c).toNat) (blockBytes (glWf q.g)) ++
        granules (vaultLoc stope (entryAt q k c).toNat) 8) ++
    ((List.range (opEdge q.a)).flatMap fun m => granules (vaultLoc stope (actAt q k m).toNat) (actBytes q.g))
  (locs.foldl (fun (m : SMap Unit) g => minsert m g ()) []).map (·.1)

/-- Check a step when it is fed (R294, R308): entries in ascending column, activation blocks in ascending row.
DEDUCED (log 39). -/
def stepFault (d : Dev) (stope : Nat) (q : Product) (k : Nat) : Option (Nat × Dword) :=
  let bad := fun (c : Nat) =>
    let e := sideAt d stope (entryAt q k c)
    if !sideOk e || e.fmt.toNat != glWf q.g then some causeFormat
    else if e.swz.toNat != opRot q.w then some causeSwizzle
    else none
  match (List.range (opEdge q.w)).find? fun c => (bad c).isSome with
  | some c => (bad c).map fun cause => (cause, BitVec.ofInt 64 (entryAt q k c))
  | none =>
    match (grid (opEdge q.a) (slicesOf q.g)).find? fun e => (readAct d stope (actAt q k e.1) e.2).isNone with
    | some e => some (causeFormat, BitVec.ofInt 64 (actAt q k e.1 + ((40 * e.2 : Nat) : Int)))
    | none => none

/-- The exact partial sum of a block and a slice (R288). -/
def dotBlock (a : A9) (w : WBlock) : Int := (a.lanes.zip w.w).foldl (fun acc p => acc + p.1 * p.2) 0

/-- One step of a product: every active element is promoted once for each slice, hi before lo (R299, R308). -/
def promoteStep (d : Dev) (stope : Nat) (q : Product) (k : Nat) (cells : SMap Xa) : SMap Xa :=
  let ws := (List.range (opEdge q.w)).map fun c =>
    readWeights d stope q.g (sideAt d stope (entryAt q k c)) (weightAt q k c)
  let rows := (List.range (opEdge q.a)).map fun m =>
    (List.range (slicesOf q.g)).filterMap fun sl => readAct d stope (actAt q k m) sl
  (rows.zip (List.range rows.length)).foldl (fun cells rm =>
    (ws.zip (List.range ws.length)).foldl (fun cells wc =>
      let key := 128 * rm.2 + wc.2
      let old := if k = 0 && !glAcc q.g then xaZero else mget xaZero cells key
      mset xaZero cells key
        (rm.1.foldl (fun x a => promoteXa x wc.1.nan (dotBlock a wc.1) (wc.1.exp + a.exp)) old)) cells) cells

/-- Steps 0 … n − 1 of a product. -/
def promoteSteps (d : Dev) (stope : Nat) (q : Product) (n : Nat) (cells : SMap Xa) : SMap Xa :=
  (List.range n).foldl (fun cells k => promoteStep d stope q k cells) cells

/-! ## Drains (R312, R313) -/

structure DrainDesc where
  rows  : Nat
  cols  : Nat
  pitch : Nat
  base  : Nat
  shift : Int
  clear : Bool
  row0  : Nat
  col0  : Nat
  deriving DecidableEq, Repr

def drainDesc (d0 d1 : Dword) : DrainDesc :=
  { rows := bitField d0.toNat 56 8, cols := bitField d0.toNat 48 8, pitch := bitField d0.toNat 24 24,
    base := bitField d0.toNat 0 24, shift := signedOf 8 (bitField d1.toNat 40 8), clear := d1.getLsbD 32,
    row0 := bitField d1.toNat 16 8, col0 := bitField d1.toNat 8 8 }

def drainSize (f : DrainFmt) : Nat :=
  match f with
  | .bf16 => 2
  | .fp32 | .int32 => 4

def drainOff (q : DrainDesc) (f : DrainFmt) (i j : Nat) : Nat := q.base + i * q.pitch + j * drainSize f

/-- The checks of a drain at issue (R312). -/
def drainFault (d : Dev) (ctx stope : Nat) (d0 d1 : Dword) (f : DrainFmt) : Option (Nat × Dword) :=
  let q := drainDesc d0 d1
  let n := drainSize f
  let reserved := bitField d1.toNat 48 16 != 0 || bitField d1.toNat 33 7 != 0 || bitField d1.toNat 24 8 != 0 ||
    bitField d1.toNat 0 8 != 0
  if reserved || q.rows == 0 || 128 < q.rows || q.cols == 0 || 128 < q.cols || 128 < q.row0 + q.rows ||
      128 < q.col0 + q.cols then some (causeAccess, d0)
  else if q.base % n ≠ 0 ∨ q.pitch % n ≠ 0 then some (causeMisaligned, BitVec.ofNat 64 q.base)
  else match (grid q.rows q.cols).find? fun e => !rangeGranted d ctx stope 0xC00000 (drainOff q f e.1 e.2) n with
    | some e => some (causeAccess, BitVec.ofNat 64 (drainOff q f e.1 e.2))
    | none => none

/-- The bits and flags that an element drains as (R313). -/
def drainValue (f : DrainFmt) (mode : Mode) (seed : Dword) (shift : Int) (x : Xa) : Nat × Flags :=
  let v := { xaValue x with exp := (xaValue x).exp + shift }
  match f with
  | .fp32 => if x.nan then (0x7FC00000, 0) else if isZeroExact v then (0, 0) else roundFloat fmtFp32 mode seed false v
  | .bf16 => if x.nan then (0x7FC0, 0) else if isZeroExact v then (0, 0) else roundFloat fmtBf16 mode seed false v
  | .int32 =>
    if x.nan then (0, flagNV)
    else
      let r := roundInteger mode seed v
      let c := satInt 32 r
      (wrapInt 32 c, (if inexactAt v 0 then flagNX else 0) ||| (if c = r then 0 else flagNV))

/-- Drain elements in order: bank and memory after them. -/
def drainCells (stope : Nat) (q : DrainDesc) (f : DrainFmt) (mode : Mode) (seed : Dword) :
    List (Nat × Nat) → Bank → Memory → Bank × Memory
  | [], b, m => (b, m)
  | e :: r, b, m =>
    let key := 128 * (q.row0 + e.1) + q.col0 + e.2
    let y := drainValue f mode seed q.shift (mget xaZero b.cells key)
    let b := { b with flags := b.flags ||| y.2,
                      cells := if q.clear then mset xaZero b.cells key xaZero else b.cells }
    drainCells stope q f mode seed r b (writeN m (vaultLoc stope (drainOff q f e.1 e.2)) (drainSize f) y.1)

/-- The granules of row i of a drain. -/
def rowGranules (stope : Nat) (q : DrainDesc) (f : DrainFmt) (i : Nat) : List Nat :=
  granules (vaultLoc stope (drainOff q f i 0)) (q.cols * drainSize f)

/-! ## Commands of the array (R298, R314) -/

/-- Take a command off the array's queue, with its scoreboard entries. -/
def dropCmd (d : Dev) (stope id : Nat) : Dev :=
  freeEntries (modStope d stope fun x => { x with arrayQ := x.arrayQ.filter fun c => c.id != id }) id

/-- Check and race-check steps k, k + 1, … of a product: the first that fails, or none; and the tags. -/
def feedSteps (d : Dev) (stope ctx : Nat) (i : Issue) (q : Product) (k : Nat) :
    Nat → Option (Nat × Nat × Dword) × Dev
  | 0 => (none, d)
  | n + 1 =>
    match stepFault d stope q k with
    | some (cause, info) => (some (k, cause, info), d)
    | none =>
      match engineRaces d ctx i false false (stepGranules stope q k) with
      | (some g, d) => (some (k, causeRace, addrOf d ctx i (32 * g)), d)
      | (none, d) => feedSteps d stope ctx i q (k + 1) n

/-- Race-check rows i, i + 1, … of a drain: the racing granule's row and number, or none; and the tags. -/
def drainRows (d : Dev) (stope ctx : Nat) (iss : Issue) (q : DrainDesc) (f : DrainFmt) (i : Nat) :
    Nat → Option (Nat × Nat) × Dev
  | 0 => (none, d)
  | n + 1 =>
    match engineRaces d ctx iss true false (rowGranules stope q f i) with
    | (some g, d) => (some (i, g), d)
    | (none, d) => drainRows d stope ctx iss q f (i + 1) n

/-- The oldest command of a stope's array starts, where it can: a matrix product is checked step by step, and stops
before a step that fails; a drain stops at a racing granule (R294, R308, R313). DESIGN CHOICE (log 56). -/
def startCmd (d : Dev) (stope : Nat) : Dev :=
  match (stopeAt d stope).arrayQ with
  | [] => d
  | c :: _ =>
    if c.started || !boardClear d c.id c.issue.core c.issue.word then d
    else
      let go := fun (d : Dev) => modStope d stope fun x =>
        { x with arrayQ := x.arrayQ.map fun e => if e.id = c.id then { e with started := true } else e }
      match c.op with
      | .clear => go d
      | .mma w0 w1 a0 a1 uw ua g wide =>
        let q := productOf w0 w1 a0 a1 uw ua g wide
        match feedSteps d stope c.ctx c.issue q 0 (opSteps q.w) with
        | (none, d) => go d
        | (some (k, cause, info), d) =>
          let b := bankAt d stope c.bank
          let d := putBank d stope c.bank { b with cells := promoteSteps d stope q k b.cells }
          notify (dropCmd d stope c.id) c.issue.launch c.issue.task cause info
      | .drain d0 d1 mode seed f =>
        let q := drainDesc d0 d1
        match drainRows d stope c.ctx c.issue q f 0 q.rows with
        | (none, d) => go d
        | (some (i, g), d) =>
          let before := (grid q.rows q.cols).filter fun e =>
            e.1 < i || (e.1 == i && granuleOf (vaultLoc stope (drainOff q f e.1 e.2)) < g)
          let r := drainCells stope q f mode seed before (bankAt d stope c.bank) d.mem
          let d := putBank { d with mem := r.2 } stope c.bank r.1
          settle (notify (dropCmd d stope c.id) c.issue.launch c.issue.task causeRace (addrOf d c.ctx c.issue (32 * g)))

/-- Whether the owner of a bank owns it no longer: its launch is complete, or it has reached a suspension point, and the
commands that it had issued by then are done (R289). DEDUCED (log 37). -/
def ownerGone (d : Dev) (stope b : Nat) : Bool :=
  match (bankAt d stope b).owner with
  | none => true
  | some (l, i) =>
    let done := fun (last : Option Nat) => (stopeAt d stope).arrayQ.all fun c =>
      !(c.issue.launch == l && c.issue.task == i) || (match last with
        | some w => w < c.issue.word
        | none => false)
    match (bankAt d stope b).released, launchAt d l with
    | some w, _ => done (some w)
    | none, some x => x.state == .complete && done none
    | none, none => done none

/-- Restore a saved bank into an unowned one (R290). -/
def restoreBank (d : Dev) (stope b : Nat) : Dev :=
  match (bankAt d stope b).owner, (stopeAt d stope).restores.find? fun r => r.bank == b with
  | none, some r =>
    let d := putBank d stope b { r.saved with owner := some (r.launch, r.task), released := none }
    modStope d stope fun x => { x with restores := x.restores.filter fun o => o != r }
  | _, _ => d

/-- DEDUCED (log 37). -/
def releaseBank (d : Dev) (stope b : Nat) : Dev :=
  if ownerGone d stope b then
    restoreBank (putBank d stope b { bankAt d stope b with owner := none, released := none }) stope b
  else d

/-- The command at work completes: the product's promotions are written, the bank is cleared, or the drain's elements
are read, cleared and written (R307, R308, R313). -/
def finishCmd (d : Dev) (stope : Nat) : Dev :=
  match (stopeAt d stope).arrayQ with
  | [] => d
  | c :: _ =>
    if !c.started then d
    else
      let b := bankAt d stope c.bank
      let d := match c.op with
        | .clear => putBank d stope c.bank { b with flags := 0, cells := [] }
        | .mma w0 w1 a0 a1 uw ua g wide =>
          let q := productOf w0 w1 a0 a1 uw ua g wide
          putBank d stope c.bank { b with cells := promoteSteps d stope q (opSteps q.w) b.cells }
        | .drain d0 d1 mode seed f =>
          let q := drainDesc d0 d1
          let r := drainCells stope q f mode seed (grid q.rows q.cols) b d.mem
          settle (putBank { d with mem := r.2 } stope c.bank r.1)
      dropCmd d stope c.id

/-! ## The time of a product (R298) -/

/-- The recurrence of R298 over steps: a(k) so far, e(g, ·) newest first for each group, and T(g, k). -/
def feedTimes (f : Nat) (a : Nat) (es : List (List Nat)) : List (List Nat) → List (List Nat)
  | [] => es
  | ts :: rest =>
    let first := es.all List.isEmpty
    let a := if first then a else a + f
    let a := if es.any fun e => 4 ≤ e.length then (es.map fun e => e.getD 3 0).foldl max a else a
    feedTimes f a ((es.zip ts).map fun p => (max a (p.1.headD a) + p.2) :: p.1) rest

/-- E − t0 of a product whose block times T(g, k) are given by step and group, with s slices and an activation edge. -/
def productTime (sl edge : Nat) (ts : List (List Nat)) : Nat :=
  let f := (40 * sl * edge + 8191) / 8192
  ((feedTimes f 6 (List.replicate (ts.headD []).length []) ts).map fun e => e.headD 0).foldl max 0

end Sys2Proof.Machine
end

