-- ==== Sys2Proof/Machine/Copy.lean ====
section
/-! DEFINITION. The copy engine: descriptors and their limits (spec/20_copy_instructions.md R334 to R338), sectors and
conversions (spec/19_copy_engine.md R320, R327, R335 to R338), pauses, stops and completion (R322 to R326). -/

namespace Sys2Proof.Machine

/-! ## Descriptors (R334 to R338) -/

/-- The bits of a descriptor word from lo on. -/
def dwField (ds : List Dword) (j lo n : Nat) : Nat := bitField (ds.getD j 0).toNat lo n

/-- An end of a copy: a context virtual address (Space 0) or an offset in the local vault (Space 1). -/
structure EndPt where
  space : Nat
  addr  : Nat
  deriving DecidableEq, Repr

def endOf (ds : List Dword) (j : Nat) : EndPt := ⟨dwField ds j 62 2, dwField ds j 0 48⟩

def endBad (ds : List Dword) (j : Nat) : Bool :=
  1 < dwField ds j 62 2 || dwField ds j 48 14 != 0

def planeBase (ds : List Dword) (j : Nat) : Nat := dwField ds j 0 24
def planeSide (ds : List Dword) (j : Nat) : Nat := dwField ds j 24 24

def planeBad (ds : List Dword) (j : Nat) : Bool :=
  dwField ds j 62 2 != 1 || dwField ds j 48 14 != 0 || planeSide ds j < 0xC00000 || 0xD7FFF8 < planeSide ds j ||
    0xC00000 ≤ planeBase ds j

/-- Which word holds the plane word of a conversion. -/
def planeWord (k : CopyKind) : Nat :=
  match k with
  | .cpye => 0
  | .cpy | .cpyh | .cpyp => 1

/-- Fields of CPY. -/
def cyRows (ds : List Dword) : Nat := dwField ds 2 0 16
def cyDst (ds : List Dword) : Nat := dwField ds 2 16 24
def cySrc (ds : List Dword) : Nat := dwField ds 2 40 24
def cyBytes (ds : List Dword) : Nat := dwField ds 3 0 33

/-- Fields of CPYH. -/
def chX0 (ds : List Dword) : Int := signedOf 16 (dwField ds 2 48 16)
def chY0 (ds : List Dword) : Int := signedOf 16 (dwField ds 2 32 16)
def chIw (ds : List Dword) : Nat := dwField ds 2 16 16
def chIh (ds : List Dword) : Nat := dwField ds 2 0 16
def chZ (ds : List Dword) : Nat := if dwField ds 3 61 1 = 1 then 80 else 40
def chWw (ds : List Dword) : Nat := dwField ds 3 40 8
def chWh (ds : List Dword) : Nat := dwField ds 3 32 8
def chPitch (ds : List Dword) : Nat := dwField ds 3 8 24

/-- Fields of CPYP and CPYE. -/
def cvRowPitch (ds : List Dword) : Nat := dwField ds 2 40 24
def cvTilePitch (ds : List Dword) : Nat := dwField ds 2 16 24
def cvEdge (ds : List Dword) : Nat := dwField ds 2 8 8
def cvSteps (ds : List Dword) : Nat := dwField ds 2 0 8
def cvRot (ds : List Dword) : Nat := dwField ds 3 58 4
def cvFmt (ds : List Dword) : Nat := dwField ds 3 54 4
def cvKelems (ds : List Dword) : Nat := dwField ds 3 41 13
def cvPitch (ds : List Dword) : Nat := dwField ds 3 21 20
def cvTile (ds : List Dword) : Nat := dwField ds 3 1 20

/-- Bytes of a block in element form (R168). -/
def elemBlock (fmt : Nat) : Nat :=
  match elemOfCode fmt with
  | some .bf16 => 64
  | some f => 4 * elemBits f + 8
  | none => 0

/-- The format of the blocks that CPYP writes, and its terms. DEDUCED (log 41). -/
def cvCode (ds : List Dword) : Nat := if cvFmt ds = 15 then 7 else cvFmt ds
def cvTerms (ds : List Dword) : Nat := if cvFmt ds = 15 then 3 else 1

/-- The first descriptor word that breaks a limit (R339). -/
def copyLimit (k : CopyKind) (ds : List Dword) : Option Nat :=
  let bad : List Bool := match k with
    | .cpy =>
      [endBad ds 0, endBad ds 1, cyRows ds == 0 || (1 < cyRows ds && cyDst ds < cyBytes ds),
       dwField ds 3 33 29 != 0 || cyBytes ds == 0 || 2 ^ 32 < cyBytes ds || 2 ^ 32 < cyRows ds * cyBytes ds]
    | .cpyh =>
      [endBad ds 0, endBad ds 1, chIw ds == 0 || chIh ds == 0,
       dwField ds 3 48 13 != 0 || dwField ds 3 0 8 != 0 || chWw ds == 0 || chWh ds == 0 || chPitch ds % 8 != 0]
    | .cpyp | .cpye =>
      let shape := cvEdge ds == 0 || 128 < cvEdge ds || cvSteps ds == 0 || 128 < cvSteps ds ||
        cvRowPitch ds % 4 != 0 || cvTilePitch ds % 4 != 0
      let rest := dwField ds 3 0 1 != 0 || (cvRot ds != 0 && cvEdge ds % 16 != 0) || (7 < cvFmt ds && cvFmt ds != 15) ||
        cvKelems ds == 0 || 32 * cvSteps ds < cvKelems ds || (cvFmt ds == 15 && cvTile ds != 0)
      if planeWord k = 1 then [endBad ds 0, planeBad ds 1, shape, rest] else [planeBad ds 0, endBad ds 1, shape, rest]
  bad.findIdx? id

/-- The first address or offset that breaks an alignment rule: Src, Dst, Base, SideBase (R339). -/
def copyMisaligned (k : CopyKind) (ds : List Dword) : Option Nat :=
  let a := fun (x n : Nat) => if x % n ≠ 0 then some x else none
  let n := if cvFmt ds = 15 then 4 else 8
  let j := planeWord k
  match k with
  | .cpy => none
  | .cpyh => (a (endOf ds 0).addr 8).or (a (endOf ds 1).addr 8)
  | .cpyp | .cpye => (a (endOf ds (1 - j)).addr n).or ((a (planeBase ds j) 4).or (a (planeSide ds j) 8))

/-! ## The stream (R335 to R338) -/

/-- B: the destination bytes of a command. -/
def copyBytes (k : CopyKind) (ds : List Dword) : Nat :=
  match k with
  | .cpy => cyRows ds * cyBytes ds
  | .cpyh => chWw ds * chWh ds * chZ ds
  | .cpyp => cvTerms ds * cvSteps ds * cvEdge ds * (blockBytes (cvCode ds) + 8)
  | .cpye =>
    if cvFmt ds = 15 then cvKelems ds * cvEdge ds * 4
    else cvEdge ds * ((cvKelems ds + 31) / 32) * elemBlock (cvFmt ds)

def copySectors (k : CopyKind) (ds : List Dword) : Nat := (copyBytes k ds + 255) / 256

/-- The place of an offset in an end's space. -/
def endAt (e : EndPt) (off : Nat) : Dword := BitVec.ofNat 64 (e.addr + off)

/-- The source and the destination of a stream byte of CPY. -/
def cySrcAt (ds : List Dword) (s : Nat) : Dword :=
  endAt (endOf ds 0) (s / cyBytes ds * cySrc ds + s % cyBytes ds)

def cyDstAt (ds : List Dword) (s : Nat) : Dword :=
  endAt (endOf ds 1) (s / cyBytes ds * cyDst ds + s % cyBytes ds)

/-- The source of a window position of CPYH, where it lies in the image. -/
def chPosAt (ds : List Dword) (pos : Nat) : Option Nat :=
  let x := chX0 ds + ((pos % chWw ds : Nat) : Int)
  let y := chY0 ds + ((pos / chWw ds : Nat) : Int)
  if 0 ≤ x ∧ x < chIw ds ∧ 0 ≤ y ∧ y < chIh ds then some (y.toNat * chPitch ds + x.toNat * chZ ds) else none

def chSrcAt (ds : List Dword) (s : Nat) : Option Dword :=
  (chPosAt ds (s / chZ ds)).map fun off => endAt (endOf ds 0) (off + s % chZ ds)

/-! ### Blocks of the conversions -/

/-- The indices t, k and c of a block in ascending order, and its edge position. -/
def blockT (ds : List Dword) (b : Nat) : Nat := b / (cvSteps ds * cvEdge ds)
def blockK (ds : List Dword) (b : Nat) : Nat := b / cvEdge ds % cvSteps ds
def blockE (ds : List Dword) (b : Nat) : Nat := edgeAt (cvRot ds) (b % cvEdge ds)

/-- Elements of a K-step within the extent. -/
def kCount (ds : List Dword) (k : Nat) : Nat := min 32 (cvKelems ds - 32 * k)

/-- Blocks of a command whose streams have the full length, their length, and the length of those after. -/
def fullBlocks (k : CopyKind) (ds : List Dword) : Nat :=
  match k with
  | .cpye => if cvFmt ds = 15 then cvKelems ds / 32 * cvEdge ds else (cvKelems ds + 31) / 32 * cvEdge ds
  | .cpy | .cpyh | .cpyp => cvTerms ds * cvSteps ds * cvEdge ds

def fullLen (k : CopyKind) (ds : List Dword) : Nat :=
  match k with
  | .cpye => if cvFmt ds = 15 then 128 else elemBlock (cvFmt ds)
  | .cpy | .cpyh | .cpyp => blockBytes (cvCode ds) + 8

def tailLen (ds : List Dword) : Nat := max 1 (4 * (cvKelems ds % 32))

/-- The first block whose stream begins at a stream byte or beyond. -/
def firstBlock (k : CopyKind) (ds : List Dword) (s : Nat) : Nat :=
  let n := fullBlocks k ds
  let l := fullLen k ds
  if s ≤ n * l then (s + l - 1) / l else n + (s - n * l + tailLen ds - 1) / tailLen ds

/-- Every block of a command. -/
def blockCount (k : CopyKind) (ds : List Dword) : Nat := firstBlock k ds (copyBytes k ds)

/-- The blocks whose streams begin in a sector. -/
def newBlocks (k : CopyKind) (ds : List Dword) (lo hi : Nat) : List Nat :=
  let a := firstBlock k ds lo
  (List.range (min (firstBlock k ds hi) (blockCount k ds) - a)).map (a + ·)

/-- The places of a block's planes and of its entry. -/
def planeAt (j : Nat) (ds : List Dword) (b : Nat) : Nat :=
  planeBase ds j + blockE ds b * cvRowPitch ds + (blockT ds b * cvSteps ds + blockK ds b) * cvTilePitch ds

def sideEntryAt (j : Nat) (ds : List Dword) (b : Nat) : Nat :=
  planeSide ds j + 8 * ((blockT ds b * cvSteps ds + blockK ds b) * cvEdge ds + blockE ds b)

/-- Offsets of a block's elements from an element end: in element form, or as FP32 rows. -/
def elemAt (ds : List Dword) (b : Nat) : List (Nat × Nat) :=
  let k := blockK ds b
  let c := b % cvEdge ds
  if cvFmt ds = 15 then (List.range (kCount ds k)).map fun i => (8 * (32 * k + i) * cvPitch ds + 4 * c, 4)
  else if cvKelems ds ≤ 32 * k then []
  else [(8 * (c * cvPitch ds + k * cvTile ds), elemBlock (cvFmt ds))]

/-- How many bytes ranges hold. -/
def rangesLen (rs : List (Nat × Nat)) : Nat := (rs.map (·.2)).foldl (· + ·) 0

/-- The bytes of ranges of an end. -/
def rangeBytes (e : EndPt) (rs : List (Nat × Nat)) : List Dword :=
  rs.flatMap fun r => (List.range r.2).map fun i => endAt e (r.1 + i)

/-! ## Conversion (R327, R337, R338) -/

def natOfBytes (bs : List Byte) : Nat := bytesNat bs

/-- CPYP on one block: the bytes read, to its planes and entry; with NX where the terms of a value lose bits (R133).
DEDUCED (log 41). -/
def toPlanes (ds : List Dword) (b : Nat) (bs : List Byte) : List Byte × Flags :=
  let f := (elemOfCode (cvCode ds)).getD .bf16
  let n := kCount ds (blockK ds b)
  let beyond := cvKelems ds ≤ 32 * blockK ds b
  let w := elemBits f
  let single := fun (i : Nat) => (BitVec.ofNat 32 (natOfBytes ((bs.drop (4 * i)).take 4)) : Word)
  let codes := (List.range 32).map fun i =>
    if n ≤ i then 0
    else if cvFmt ds = 15 then
      let x := splitFp32 (single i)
      [x.1, x.2.1, x.2.2].getD (blockT ds b) 0
    else natOfBytes bs >>> (w * i) % 2 ^ w
  let s := if beyond || cvFmt ds == 15 || cvFmt ds == 7 then 127 else (bs.getD (4 * w) 0).toNat
  let r := planeForm f s codes (BitVec.ofNat 4 (cvRot ds))
  let lost := cvFmt ds == 15 && (List.range n).any fun i => splitLoses (single i)
  (natBytes 4 r.1.sign.toNat ++ r.1.planes.flatMap (fun p => natBytes 4 p.toNat) ++ natBytes 8 (sideBits r.1.entry).toNat,
    r.2 ||| if lost then flagNX else 0)

/-- The lanes of a plane-form block as exact values: a zero magnitude is +0. -/
def planeLanes (n : Nat) (ent : SideEntry) (bs : List Byte) : List Exact :=
  let word := fun (j : Nat) => (BitVec.ofNat 32 (natOfBytes ((bs.drop (4 * j)).take 4)) : Word)
  let planes := (List.range n).map fun j => word (j + 1)
  (List.range 32).map fun i =>
    let m := planeMag ent.occ.toNat planes i
    ⟨(word 0).getLsbD i && m != 0, m, ent.exp.toInt, false⟩

/-- CPYE on one block: its entry and its planes, to its destination bytes. -/
def fromPlanes (ds : List Dword) (b : Nat) (ent : SideEntry) (bs : List Byte) : List Byte × Flags :=
  let n := kCount ds (blockK ds b)
  let lanes := ((planeLanes (planesOf ent.fmt.toNat) ent bs).zipIdx).map fun p =>
    if p.2 < n then p.1 else exactZero false
  let floats := fun (f : FloatFmt) (bytes : Nat) (nan : Nat) (count : Nat) =>
    let rs := (lanes.take count).map fun x => if ent.nan then (nan, (0 : Flags)) else roundFloat f .rne 0 false x
    (rs.flatMap fun r => natBytes bytes r.1, rs.foldl (fun acc r => acc ||| r.2) 0)
  if cvFmt ds = 15 then floats fmtFp32 4 0x7FC00000 n
  else match elemOfCode (cvFmt ds) with
    | some .bf16 => floats fmtBf16 2 0x7FC0 32
    | some f =>
      let q := if ent.nan then (lanes.map fun _ => 0, 0xFF, (0 : Flags)) else quantBlock f .rne 0 (lanes.map .fin)
      (natBytes (4 * elemBits f) (ofElems (elemBits f) q.1).toNat ++ natBytes 8 q.2.1, q.2.2)
    | none => ([], 0)

/-! ## Translation and memory of one sector (R320) -/

/-- Where a sector fails: a stop with its cause and information, or a pause on a page, with the touched address. -/
inductive Halt where
  | stop (cause : Nat) (info : Dword)
  | page (num : Nat) (va : Dword)
  deriving DecidableEq, Repr

/-- Translate addresses in order: the first that fails, or the places. -/
def endPlaces (d : Dev) (x : Launch) (stope : Nat) (space : Nat) (r : Right) : List Dword → Except Halt (List Place)
  | [] => .ok []
  | a :: as =>
    match (if space = 1 then Xlat.place (.vault stope a.toNat) else xlate d x stope .copy r a) with
    | .trap c => .error (.stop c a)
    | .page n => .error (.page n a)
    | .place p =>
      match endPlaces d x stope space r as with
      | .ok ps => .ok (p :: ps)
      | .error e => .error e

/-- A byte as a copy reads it: of memory, or of a host or a peer, whose contents are free. DESIGN CHOICE (log 38). -/
def copyRead (d : Dev) (p : Place) : Byte :=
  match locOf p with
  | some l => readByte d.mem l
  | none => match p with
    | .host c a => Config.outsideByte true c a d.names
    | .remote c a => Config.outsideByte false c a d.names
    | .vault _ _ | .hbm _ | .reduction _ _ | .agent _ _ | .sysreg _ => 0

/-- Write a byte: to memory, or out to a host or a peer. DESIGN CHOICE (log 38). -/
def copyWrite (d : Dev) (p : Place) (x : Byte) : Dev :=
  match locOf p with
  | some l => { d with mem := writeByte d.mem l x }
  | none => match p with
    | .host c a => { d with sent := d.sent ++ [.bytes true c a [x]] }
    | .remote c a => { d with sent := d.sent ++ [.bytes false c a [x]] }
    | .vault _ _ | .hbm _ | .reduction _ _ | .agent _ _ | .sysreg _ => d

/-- Granules of places, ascending by address: the address of each granule, its number, where it has one, and the bytes
of the list within it. -/
def byGranule {α : Type} (xs : List (Dword × Place × α)) : List (Nat × Option Nat × List (Place × α)) :=
  let m := xs.foldl (fun (m : SMap (Option Nat × List (Place × α))) e =>
    let va := match locOf e.2.1 with
      | some l => e.1.toNat - l % 32
      | none => e.1.toNat / 32 * 32
    let old := (mfind m va).getD ((locOf e.2.1).map granuleOf, [])
    minsert m va (old.1, old.2 ++ [(e.2.1, e.2.2)])) []
  m.map fun e => (e.1, e.2.1, e.2.2)

/-- The address of a granule of an end, for reports: of a place of the local vault, the one that the issuer's table gives
it (R108). -/
def endAddr (d : Dev) (ctx : Nat) (i : Issue) (space a : Nat) : Dword :=
  if space = 1 then addrOf d ctx i (vaultLoc (stopeOf i.core) a) else BitVec.ofNat 64 a

/-- Race-check granules of an end, and act on each after its check: the first that races stops. -/
def passGranules {α : Type} (ctx : Nat) (i : Issue) (space : Nat) (write : Bool) (act : Dev → Place → α → Dev) :
    List (Nat × Option Nat × List (Place × α)) → Dev → Except Halt Dev × Dev
  | [], d => (.ok d, d)
  | e :: es, d =>
    match e.2.1 with
    | none => passGranules ctx i space write act es (e.2.2.foldl (fun d b => act d b.1 b.2) d)
    | some g =>
      match engineRace d ctx i write false [g] with
      | .error _ => (.error (.stop causeRace (endAddr d ctx i space e.1)), d)
      | .ok d => passGranules ctx i space write act es (e.2.2.foldl (fun d b => act d b.1 b.2) d)

/-! ## What a sector reads and writes -/

/-- A sector's source addresses, by stream byte (none where nothing is read) or by block; its destination addresses;
both in order. -/
structure Sector where
  srcSpace : Nat
  srcs     : List Dword
  dstSpace : Nat
  dsts     : List Dword
  deriving DecidableEq, Repr

/-- Check the entry of a block of CPYE, and its planes' grants: the ranges of bytes to read (R338). -/
def entryCheck (d : Dev) (q : CopyCmd) (b : Nat) : Except Halt (List Dword) :=
  let at' := sideEntryAt 0 q.desc b
  let e := sideAt d q.stope at'
  let p := planeAt 0 q.desc b
  let n := blockBytes e.fmt.toNat
  if !sideOk e then .error (.stop causeFormat (BitVec.ofNat 64 at'))
  else if e.swz.toNat ≠ cvRot q.desc then .error (.stop causeSwizzle (BitVec.ofNat 64 at'))
  else if !rangeGranted d q.ctx q.stope 0xD80000 p n then .error (.stop causeAccess (BitVec.ofNat 64 p))
  else .ok (rangeBytes ⟨1, 0⟩ [(at', 8), (p, n)])

/-- DEDUCED (log 39). -/
def entryChecks (d : Dev) (q : CopyCmd) : List Nat → Except Halt (List Dword)
  | [] => .ok []
  | b :: bs =>
    match entryCheck d q b with
    | .error e => .error e
    | .ok xs => match entryChecks d q bs with
      | .ok ys => .ok (xs ++ ys)
      | .error e => .error e

/-- The stream positions of a sector. -/
def sectorRange (q : CopyCmd) : Nat × Nat := (256 * q.next, min (copyBytes q.kind q.desc) (256 * q.next + 256))

/-- The destination addresses of a block. -/
def blockDst (k : CopyKind) (ds : List Dword) (b : Nat) : List Dword :=
  match k with
  | .cpye => rangeBytes (endOf ds 1) (elemAt ds b)
  | .cpy | .cpyh | .cpyp => rangeBytes ⟨1, 0⟩ [(planeAt 1 ds b, blockBytes (cvCode ds)), (sideEntryAt 1 ds b, 8)]

/-- What the next sector of a command reads and writes. -/
def sectorOf (d : Dev) (q : CopyCmd) : Except Halt Sector :=
  let ds := q.desc
  let r := sectorRange q
  let pos := (List.range (r.2 - r.1)).map (r.1 + ·)
  let nb := newBlocks q.kind ds r.1 r.2
  let dsts := (q.carry.map (·.1) ++ nb.flatMap (blockDst q.kind ds)).take (r.2 - r.1)
  match q.kind with
  | .cpy => .ok ⟨(endOf ds 0).space, pos.map (cySrcAt ds), (endOf ds 1).space, pos.map (cyDstAt ds)⟩
  | .cpyh => .ok ⟨(endOf ds 0).space, pos.filterMap (chSrcAt ds), (endOf ds 1).space, pos.map (endAt (endOf ds 1))⟩
  | .cpyp =>
    .ok ⟨(endOf ds 0).space, nb.flatMap (fun b => rangeBytes (endOf ds 0) (elemAt ds b)), 1, dsts⟩
  | .cpye =>
    match entryChecks d q nb with
    | .error e => .error e
    | .ok srcs => .ok ⟨1, srcs, (endOf ds 1).space, dsts⟩

/-- Convert blocks in order from the bytes read. DEDUCED (log 41). -/
def convertBlocks (q : CopyCmd) : List Nat → List Byte → List (Dword × Byte) × Flags
  | [], _ => ([], 0)
  | b :: bs, xs =>
    let (n, r) := match q.kind with
      | .cpye =>
        let e := sideOf (BitVec.ofNat 64 (natOfBytes (xs.take 8)))
        let n := 8 + blockBytes e.fmt.toNat
        (n, fromPlanes q.desc b e ((xs.take n).drop 8))
      | .cpy | .cpyh | .cpyp =>
        let n := rangesLen (elemAt q.desc b)
        (n, toPlanes q.desc b (xs.take n))
    let rest := convertBlocks q bs (xs.drop n)
    ((blockDst q.kind q.desc b).zip r.1 ++ rest.1, r.2 ||| rest.2)

/-- Zero bytes where CPYH reads nothing, and the bytes read elsewhere. -/
def spread : List (Option Dword) → List Byte → List Byte
  | [], _ => []
  | none :: r, bs => 0 :: spread r bs
  | some _ :: r, bs => bs.headD 0 :: spread r bs.tail

/-- The bytes of a sector with their addresses, those that later sectors write, and flags. -/
def sectorData (q : CopyCmd) (sc : Sector) (bs : List Byte) : List (Dword × Byte) × List (Dword × Byte) × Flags :=
  let r := sectorRange q
  match q.kind with
  | .cpy => (sc.dsts.zip bs, [], 0)
  | .cpyh =>
    (sc.dsts.zip (spread ((List.range (r.2 - r.1)).map fun i => chSrcAt q.desc (r.1 + i)) bs), [], 0)
  | .cpyp | .cpye =>
    let c := convertBlocks q (newBlocks q.kind q.desc r.1 r.2) bs
    let all := q.carry ++ c.1
    (all.take (r.2 - r.1), all.drop (r.2 - r.1), c.2 &&& (flagNV ||| flagNX))

/-! ## Queues, stops and completion (R319, R322 to R326) -/

/-- Remove a command from its channel, with its scoreboard entries. -/
def dropCopy (d : Dev) (n : Nat) (q : CopyCmd) : Dev :=
  let d := freeEntries { d with copies := merase d.copies n } n
  modStope d q.stope fun x => { x with chans := minsert x.chans q.chan ((mget [] x.chans q.chan).filter (· != n)) }

/-- A schedule entry's command is over. -/
def entryDone (d : Dev) (q : CopyCmd) : Dev :=
  match q.entry with
  | some e => modLaunch d q.issue.launch fun x => { x with entries := minsert x.entries e .done }
  | none => d

/-- A command stops: its issuer traps at its next clause; for a schedule entry the launch faults (R326, R328). -/
def stopCopy (d : Dev) (n : Nat) (q : CopyCmd) (cause : Nat) (info : Dword) : Dev :=
  let d := entryDone (dropCopy d n q) q
  if q.issue.task = scheduleTask then stopLaunch d q.issue.launch ⟨none, cause, 0, none, none, 8⟩
  else notify d q.issue.launch q.issue.task cause info

/-- The oldest command of a channel. -/
def headCopy (d : Dev) (stope ch : Nat) : Option (Nat × CopyCmd) :=
  match mget [] (stopeAt d stope).chans ch with
  | [] => none
  | n :: _ => (mfind d.copies n).map fun q => (n, q)

/-- Whether an earlier store or atomic of the issuing core to a granule of these places has yet to be performed
(R341). -/
def ownPending (d : Dev) (i : Issue) (ps : List Place) : Bool :=
  let gs := granulesOf (ps.filterMap locOf)
  (coreAt d i.core).run == some ⟨i.launch, i.task⟩ &&
    (coreAt d i.core).window.any fun w => w.word < i.word && itemTouches w.op gs

/-- The dies that places touch. -/
def diesTouched (stope : Nat) (ps : List Place) : Byte := ps.foldl (fun acc p => acc ||| diesOf stope p) 0

/-- The command pauses on a page, whose waiting set it joins (R325). -/
def pauseCopy (d : Dev) (n : Nat) (q : CopyCmd) (page : Nat) (va : Dword) : Dev :=
  let d := { d with copies := minsert d.copies n { q with paused := some va } }
  pageTouched d q.issue.launch page (va.setWidth 48)

/-- An uncorrectable error on what the sector reads: the launch faults, and the address is logged (R326). -/
def copyError (d : Dev) (n : Nat) (q : CopyCmd) (ps : List Place) : Dev :=
  let d := logError d (partOfLaunch d q.issue.launch) (ps.filterMap locOf).head?
  stopLaunch (entryDone (dropCopy d n q) q) q.issue.launch
    ⟨if q.issue.task = scheduleTask then none else some q.issue.task, causeAccess, 0, none, none, 8⟩

/-- A sector with its places: dies, races, the read, which may meet an uncorrectable error, and the writes (R340).
DEDUCED (log 39). -/
def runSector (d : Dev) (n : Nat) (q : CopyCmd) (sc : Sector) (ps ts : List Place) (ue : Bool) : Dev :=
  match touchLost d q.ctx (diesTouched q.stope (ps ++ ts)) with
  | (d, some die) => stopCopy d n q causeDieLost (BitVec.ofNat 64 die)
  | (d, none) =>
    if ue then copyError d n q ps
    else match passGranules q.ctx q.issue sc.srcSpace false (fun d _ (_ : Unit) => d)
        (byGranule ((sc.srcs.zip ps).map fun e => (e.1, e.2, ()))) d with
    | (.error (.stop c v), d) => stopCopy d n q c v
    | (.error (.page _ _), d) => d
    | (.ok d, _) =>
      let data := sectorData q sc (ps.map (copyRead d))
      let d := (newName d).2
      match passGranules q.ctx q.issue sc.dstSpace true copyWrite
          (byGranule ((data.1.zip ts).map fun e => (e.1.1, e.2, e.1.2))) d with
      | (.error (.stop c v), d) => settle (stopCopy d n q c v)
      | (.error (.page _ _), d) => d
      | (.ok d, _) =>
        let q := { q with next := q.next + 1, paused := none, carry := data.2.1, flags := q.flags ||| data.2.2 }
        settle { d with copies := minsert d.copies n q }

/-- One sector of a channel's oldest command, where it need not wait (R320). -/
def copySector (d : Dev) (stope ch : Nat) (ue : Bool) : Dev :=
  match headCopy d stope ch with
  | none => d
  | some (n, q) =>
    match launchAt d q.issue.launch with
    | none => d
    | some x =>
      if copySectors q.kind q.desc ≤ q.next || !boardClear d n q.issue.core q.issue.word then d
      else match sectorOf d q with
        | .error (.stop c v) => stopCopy d n q c v
        | .error (.page p v) => pauseCopy d n q p v
        | .ok sc =>
          match endPlaces d x stope sc.srcSpace .read sc.srcs with
          | .error (.stop c v) => stopCopy d n q c v
          | .error (.page p v) => pauseCopy d n q p v
          | .ok ps =>
            match endPlaces d x stope sc.dstSpace .write sc.dsts with
            | .error (.stop c v) => stopCopy d n q c v
            | .error (.page p v) => pauseCopy d n q p v
            | .ok ts =>
              if ownPending d q.issue ps then d
              else runSector d n q sc ps ts ue

/-- The cycles of the stope clock since a device time. -/
def cyclesSince (d : Dev) (t : Nat) : Nat := (d.now - t) * clockNow d.power / 1000

/-- A command with every sector written completes: its counter, then its token (R322). The increment is an atomic access
of the engine to the counter (R87, R281): it waits at the scoreboard (R297), and where it fails a check the counter is
not raised and the issuer traps. DEDUCED (log 41). -/
def copyComplete (d : Dev) (stope ch : Nat) : Dev :=
  match headCopy d stope ch with
  | none => d
  | some (n, q) =>
    if q.next < copySectors q.kind q.desc || q.place.any (byteBlocks d q.issue.word true) then d
    else
      let b := copyBytes q.kind q.desc
      let done := fun (d : Dev) =>
        let d := entryDone (dropCopy d n q) q
        match q.token with
        | some _ => deliverTask d q.issue (BitVec.ofNat 1024 (q.flags.toNat * 2 ^ 48 + b))
        | none => d
      match q.place with
      | none => done d
      | some loc =>
        match touchLost d q.ctx (diesAt stope [loc]) with
        | (d, some die) => stopCopy d n q causeDieLost (BitVec.ofNat 64 die)
        | (d, none) =>
          match engineRace d q.ctx q.issue true true [granuleOf loc] with
          | .error _ => stopCopy d n q causeRace ((q.counter &&& ~~~31#48).setWidth 64)
          | .ok d => done (increment d loc (BitVec.ofNat 64 b) (engineMark q.issue .package stope))

end Sys2Proof.Machine
end

