-- ==== Sys2Proof/Machine/CopyWords.lean ====
section
/-! DEFINITION. The copy words of majors 24 and 25 (spec/20_copy_instructions.md R332 to R344), the static copy schedule
(spec/19_copy_engine.md R328, R329) and the events of the copy engine. -/

namespace Sys2Proof.Machine

/-! ## Ranges of a command (R321, R339) -/

/-- The ranges of bytes that a command reads or writes at its ends, exactly: source end, destination end, planes, side
entries. The planes that CPYE reads are not yet known. -/
structure CopyRanges where
  src    : List (Nat × Nat)
  dst    : List (Nat × Nat)
  planes : List (Nat × Nat)
  sides  : List (Nat × Nat)
  deriving DecidableEq, Repr

def allBlocks (k : CopyKind) (ds : List Dword) : List Nat := List.range (blockCount k ds)

def copyRanges (k : CopyKind) (ds : List Dword) : CopyRanges :=
  match k with
  | .cpy =>
    let rows := fun (pitch : Nat) => (List.range (cyRows ds)).map fun r => (r * pitch, cyBytes ds)
    ⟨rows (cySrc ds), rows (cyDst ds), [], []⟩
  | .cpyh =>
    ⟨((List.range (chWw ds * chWh ds)).filterMap (chPosAt ds)).map fun o => (o, chZ ds), [(0, copyBytes k ds)], [], []⟩
  | .cpyp =>
    ⟨(List.range (cvSteps ds * cvEdge ds)).flatMap (elemAt ds), [],
     (allBlocks k ds).map fun b => (planeAt 1 ds b, blockBytes (cvCode ds)),
     [(planeSide ds 1, 8 * cvTerms ds * cvSteps ds * cvEdge ds)]⟩
  | .cpye =>
    ⟨[], (allBlocks k ds).flatMap (elemAt ds), [], [(planeSide ds 0, 8 * cvSteps ds * cvEdge ds)]⟩

/-- The first offset of a range that reaches the vault's end or lies outside the grants. -/
def firstBad (d : Dev) (ctx stope : Nat) : Nat → Nat → Nat → Option Nat
  | 0, _, _ => none
  | n + 1, lo, hi =>
    if hi ≤ lo then none
    else if 0xD80000 ≤ lo then some lo
    else if !rangeGranted d ctx stope 0xD80000 lo 1 then some lo
    else firstBad d ctx stope n (min ((lo / 2 ^ 21 + 1) * 2 ^ 21) 0xD80000) hi

/-- The offsets of a command's ranges in its own vault. -/
def vaultRanges (k : CopyKind) (ds : List Dword) : List (Nat × Nat) :=
  let r := copyRanges k ds
  let at' := fun (j : Nat) (xs : List (Nat × Nat)) =>
    if (endOf ds j).space = 1 then xs.map fun e => ((endOf ds j).addr + e.1, e.2) else []
  at' 0 r.src ++ at' 1 r.dst ++ r.planes ++ r.sides

def badOffset (d : Dev) (ctx stope : Nat) (k : CopyKind) (ds : List Dword) : Option Nat :=
  (vaultRanges k ds).findSome? fun e => firstBad d ctx stope 9 e.1 (e.1 + e.2)

/-- The checks of R339 on a descriptor that need no counter: a cause and its information. -/
def copyFault (k : CopyKind) (ds : List Dword) : Option (Nat × Dword) :=
  match copyLimit k ds with
  | some j => some (causeAccess, ds.getD j 0)
  | none => (copyMisaligned k ds).map fun a => (causeMisaligned, BitVec.ofNat 64 a)

/-! ## Scoreboard entries (R321, R338) -/

/-- The lowest and the highest offset of ranges, by stope. -/
def addSpan (m : SMap (Nat × Nat)) (stope lo hi : Nat) : SMap (Nat × Nat) :=
  match mfind m stope with
  | some r => minsert m stope (min r.1 lo, max r.2 hi)
  | none => minsert m stope (lo, hi)

/-- The vault ranges that an end's byte ranges touch, page by page where they are translated. -/
def endSpans (d : Dev) (x : Launch) (stope : Nat) (e : EndPt) (r : Right) (rs : List (Nat × Nat)) : SMap (Nat × Nat) :=
  rs.foldl (fun m p =>
    let lo := e.addr + p.1
    let hi := lo + p.2 - 1
    if p.2 = 0 then m
    else if e.space = 1 then addSpan m stope lo hi
    else (List.range (hi / 2 ^ 21 - lo / 2 ^ 21 + 1)).foldl (fun m j =>
      let a := max lo ((lo / 2 ^ 21 + j) * 2 ^ 21)
      let b := min hi ((lo / 2 ^ 21 + j) * 2 ^ 21 + 2 ^ 21 - 1)
      match xlate d x stope .copy r (BitVec.ofNat 64 a) with
      | .place (.vault t o) => addSpan m t o (o + (b - a))
      | .place (.hbm _) | .place (.remote _ _) | .place (.reduction _ _) | .place (.host _ _) | .place (.agent _ _)
      | .place (.sysreg _) => m
      | .trap _ => m
      | .page _ => m) m) []

/-- The range of planes that CPYE is taken to read at issue. -/
def wideRange (ds : List Dword) : Nat × Nat :=
  let top := ((List.range (cvSteps ds * cvEdge ds)).map (planeAt 0 ds)).foldl max 0
  (planeBase ds 0, min (top + 68) 0xC00000 - planeBase ds 0)

/-- A command's scoreboard entries: stope, range, whether it writes. -/
def copyEntries (d : Dev) (x : Launch) (stope : Nat) (k : CopyKind) (ds : List Dword) : List (Nat × Nat × Nat × Bool) :=
  let r := copyRanges k ds
  let put := fun (e : EndPt) (right : Right) (w : Bool) (rs : List (Nat × Nat)) =>
    (endSpans d x stope e right rs).map fun s => (s.1, s.2.1, s.2.2, w)
  match k with
  | .cpy | .cpyh => put (endOf ds 0) .read false r.src ++ put (endOf ds 1) .write true r.dst
  | .cpyp => put (endOf ds 0) .read false r.src ++ put ⟨1, 0⟩ .write true r.planes ++ put ⟨1, 0⟩ .write true r.sides
  | .cpye =>
    put ⟨1, 0⟩ .read false [wideRange ds] ++ put ⟨1, 0⟩ .read false r.sides ++ put (endOf ds 1) .write true r.dst

/-- Whether every scoreboard has room for the entries. -/
def entriesFit (d : Dev) (es : List (Nat × Nat × Nat × Bool)) : Bool :=
  es.all fun e => (es.filter fun o => o.1 == e.1).length ≤ boardFree d e.1

def takeEntries (d : Dev) (cmd word : Nat) (es : List (Nat × Nat × Nat × Bool)) : Dev :=
  es.foldl (fun d e => takeEntry d e.1 cmd word e.2.1 e.2.2.1 e.2.2.2) d

/-! ## Queue room (R319) -/

/-- Copies issued on a channel whose windows have yet to close. -/
def windowCopies (d : Dev) (stope ch : Nat) : Nat :=
  ((List.range 4).flatMap fun q => (coreAt d (4 * stope + q)).window.filter fun w =>
    match w.op with
    | .copy n => (match mfind d.copies n with
      | some c => c.chan == ch
      | none => false)
    | .store _ | .agentStore _ _ _ | .atomic _ | .arm _ _ | .continuation _ _ _ _ | .fabric _ | .launch _ => false).length

def channelFull (d : Dev) (stope ch : Nat) : Bool :=
  16 ≤ (mget [] (stopeAt d stope).chans ch).length + windowCopies d stope ch

/-! ## The copy words (R333, R339, R340) -/

/-- Go on with the place of a completion counter, where one is named (R339). -/
def withCounter (s : State) (n : RegNum) (k : Option Nat → Out) : Out :=
  if n = 0 then k none
  else withPlace s ⟨.coreAtomic, .atomic, readG (src s) n, 8, true, false⟩ fun p => k (locOf p)

/-- The four registers of a descriptor quad. -/
def quadAt (q : BitVec 4) (j : Nat) : RegNum := BitVec.ofNat 6 (4 * q.toNat + j)

/-- A command as a word issues it. -/
def newCopy (s : State) (x : Launch) (k : CopyKind) (ds : List Dword) (t n : RegNum) (place : Option Nat) : CopyCmd :=
  { issue := issueOf s x (taskOf s), ctx := x.ctx, stope := stopeOf s.cur, chan := dwField ds 3 62 2, kind := k,
    desc := ds, token := if t = 0 then none else some (phys (src s) .g t.toNat),
    counter := if n = 0 then 0 else (readG (src s) n).setWidth 48, place := place, queued := false, next := 0,
    paused := none, flags := 0, carry := [], entry := none }

def copyWord (k : CopyKind) (t : RegNum) (q : BitVec 4) (n : RegNum) (u v : Bool) (s : State) : Out :=
  let c := src s
  let ds := (List.range 4).map fun j => readG c (quadAt q j)
  withSources s ((List.range 4).map (fun j => gSrc s (quadAt q j) u) ++ (if n = 0 then [] else [gSrc s n v]))
    (match copyFault k ds with
     | some e => trap s e.1 e.2
     | none =>
       withCounter s n fun place =>
         withLaunch s fun x =>
           let st := stopeOf s.cur
           match badOffset s.dev x.ctx st k ds with
           | some o => trap s causeAccess (BitVec.ofNat 64 o)
           | none =>
             let es := copyEntries s.dev x st k ds
             if channelFull s.dev st (dwField ds 3 62 2) || !entriesFit s.dev es then hold s
             else
               let m := newName s.dev
               let d := takeEntries { m.2 with copies := minsert m.2.copies m.1 (newCopy s x k ds t n place) } m.1
                 (wordId s) es
               let s := setDev s d
               let s := if t = 0 then s else issueLoad s .g t.toNat 63 .none
               .next (advance (enqueue s (.copy m.1))))

def execCpy (t : RegNum) (q : BitVec 4) (n : RegNum) (u v : Bool) (s : State) : Out := copyWord .cpy t q n u v s
def execCpyh (t : RegNum) (q : BitVec 4) (n : RegNum) (u v : Bool) (s : State) : Out := copyWord .cpyh t q n u v s
def execCpyp (t : RegNum) (q : BitVec 4) (n : RegNum) (u v : Bool) (s : State) : Out := copyWord .cpyp t q n u v s
def execCpye (t : RegNum) (q : BitVec 4) (n : RegNum) (u v : Bool) (s : State) : Out := copyWord .cpye t q n u v s

/-! ## The static copy schedule (R328, R329, R343) -/

/-- An entry of a schedule: its descriptor and the fields of its control word. -/
structure SchedEntry where
  desc    : List Dword
  counter : Dword
  start   : Nat
  dur     : Nat
  step    : Nat
  stage   : Nat
  stope   : Nat
  chan    : Nat
  kind    : Nat
  res     : Nat
  deriving DecidableEq, Repr

def parseEntry (bs : List Byte) : SchedEntry :=
  { desc := (List.range 4).map fun j => BitVec.ofNat 64 (fieldAt bs (8 * j) 8),
    counter := BitVec.ofNat 64 (bitsOf bs 511 448), start := bitsOf bs 447 416, dur := bitsOf bs 415 384,
    step := bitsOf bs 383 368, stage := bitsOf bs 367 360, stope := bitsOf bs 359 354, chan := bitsOf bs 353 352,
    kind := bitsOf bs 351 348, res := bitsOf bs 347 256 }

/-- Read bytes of a launch's schedule from its gang's first stope: the bytes, or the cause of a failed check, DIE_LOST
where a die that holds them is lost (R86). -/
def schedRead (d : Dev) (x : Launch) (off n : Nat) : Except Nat (List Byte) :=
  match placeBytes d x (x.gang.getD 0 0) .fetch .read (x.record.schedule.setWidth 64 + BitVec.ofNat 64 off) n with
  | .ok ls => if diesAt (x.gang.getD 0 0) ls &&& d.lost = 0 then .ok (ls.map (readByte d.mem)) else .error causeDieLost
  | .error e => .error e.1

/-- The number of entries of a schedule, or the cause for which its header fails. -/
def schedCount (d : Dev) (x : Launch) : Except Nat Nat :=
  if x.record.schedule = 0 then .ok 0
  else match schedRead d x 0 16 with
    | .error e => .error e
    | .ok bs =>
      if bitsOf bs 127 64 ≠ 0 ∨ bitsOf bs 31 16 ≠ 0 ∨ bitsOf bs 15 0 ≠ 1 then .error causeIllegalOpcode
      else .ok (bitsOf bs 63 32)

/-- Reading a launch's schedule touches the dies that hold it (R86). -/
def touchSched (d : Dev) (x : Launch) : Dev :=
  if x.record.schedule = 0 then d
  else
    let n := match schedCount d x with
      | .ok n => 16 + 64 * n
      | .error _ => 16
    match placeBytes d x (x.gang.getD 0 0) .fetch .read (x.record.schedule.setWidth 64) n with
    | .ok ls => touchDies d x.ctx (diesAt (x.gang.getD 0 0) ls)
    | .error _ => d

/-- Whether a read of a launch's schedule waits for a scoreboard (R297). -/
def schedHeld (d : Dev) (x : Launch) : Bool :=
  let held := fun (n : Nat) => match placeBytes d x (x.gang.getD 0 0) .fetch .read (x.record.schedule.setWidth 64) n with
    | .ok ls => readHeld d ls
    | .error _ => false
  x.record.schedule != 0 && (held 16 || (match schedCount d x with
    | .ok n => held (16 + 64 * n)
    | .error _ => false))

def schedEntry (d : Dev) (x : Launch) (i : Nat) : Except Nat SchedEntry :=
  match schedRead d x (16 + 64 * i) 64 with
  | .ok bs => .ok (parseEntry bs)
  | .error e => .error e

def kindOf (n : Nat) : Option CopyKind :=
  match n with
  | 0 => some .cpy | 1 => some .cpyh | 2 => some .cpyp | 3 => some .cpye | _ => none

/-- An entry that fails completes the launch FAULTED (R328). -/
def schedFault (d : Dev) (l cause : Nat) : Dev := stopLaunch d l ⟨none, cause, 0, none, none, 8⟩

/-- The place of an entry's counter (R339), or the cause of a failed check. -/
def entryCounter (d : Dev) (x : Launch) (stope : Nat) (va : Dword) : Except Nat (Option Nat) :=
  if va = 0 then .ok none
  else match xlate d x stope .coreAtomic .atomic va with
    | .trap c => .error c
    | .page _ => .error causeAbsent
    | .place p => if va.toNat % 8 ≠ 0 then .error causeMisaligned else .ok (locOf p)

/-- Check entry i of a launch's schedule, and let its command join its channel's queue, behind those already there, at
the next place in issue order; it waits where a scoreboard has too few entries (R296) or the channel is full (R319).
DESIGN CHOICE (log 40). -/
def startEntry (d : Dev) (l i core : Nat) : Dev :=
  match launchAt d l with
  | none => d
  | some x =>
    match schedEntry d x i with
    | .error c => schedFault d l c
    | .ok e =>
      let low := if i = 0 then false else match schedEntry d x (i - 1) with
        | .ok p => e.step < p.step
        | .error _ => true
      match kindOf e.kind with
      | none => schedFault d l causeIllegalOpcode
      | some k =>
        if e.res ≠ 0 ∨ low ∨ gangSize x.record ≤ e.stope then schedFault d l causeIllegalOpcode
        else
          let st := x.gang.getD e.stope 0
          match copyFault k e.desc with
          | some f => schedFault d l f.1
          | none =>
            match entryCounter d x st e.counter with
            | .error c => schedFault d l c
            | .ok place =>
              let es := copyEntries d x st k e.desc
              let word := 7 * d.issues + 7
              if (badOffset d x.ctx st k e.desc).isSome then schedFault d l causeAccess
              else if channelFull d st e.chan || !entriesFit d es then d
              else
                let m := newName { d with issues := d.issues + 1 }
                let q : CopyCmd :=
                  { issue := { launch := l, task := scheduleTask, core := core, word := word, seq := d.issues,
                               step := BitVec.ofNat 12 x.step, number := BitVec.ofNat 4 (x.number.getD 0),
                               interval := BitVec.ofNat 8 x.interval, epoch := 0, log := [] },
                    ctx := x.ctx, stope := st, chan := e.chan, kind := k, desc := e.desc, token := none,
                    counter := e.counter.setWidth 48, place := place, queued := true, next := 0, paused := none,
                    flags := 0, carry := [], entry := some i }
                let d := takeEntries { m.2 with copies := minsert m.2.copies m.1 q } m.1 word es
                let d := modStope d st fun y => { y with chans := minsert y.chans e.chan (mget [] y.chans e.chan ++ [m.1]) }
                modLaunch d l fun y => { y with entries := minsert y.entries i .released }

/-- Whether entry i of a launch's schedule is one of the current step that has not been released and whose stage its
gang stope has reached (R342). -/
def stageReached (d : Dev) (x : Launch) (i : Nat) (e : SchedEntry) : Bool :=
  e.step == x.step && e.stage != 0 && e.stage ≤ (stopeAt d (x.gang.getD e.stope 0)).stage && (mfind x.entries i).isNone

/-- Entries of a schedule, from entry i on, that are of a launch's step: an entry that cannot be read is one, with the
cause, where the last that could be read before it has no later Step; a later one is not read yet (R328). low is that
entry's Step. -/
def stepEntries (d : Dev) (x : Launch) : Nat → Nat → Nat → List (Nat × Except Nat SchedEntry)
  | 0, _, _ => []
  | n + 1, i, low =>
    match schedEntry d x i with
    | .error c => (if low ≤ x.step then [(i, .error c)] else []) ++ stepEntries d x n (i + 1) low
    | .ok e => (if e.step = x.step then [(i, .ok e)] else []) ++ stepEntries d x n (i + 1) e.step

/-- Release, in schedule order, entries of a gang stope whose stage is reached: one that waits holds back those after it
(R342). -/
def releaseStage (l g core : Nat) : List (Nat × Except Nat SchedEntry) → Dev → Dev
  | [], d => d
  | (i, e) :: es, d =>
    match launchAt d l, e with
    | none, _ => d
    | some _, .error c => schedFault d l c
    | some x, .ok e =>
      if e.stope = g ∧ stageReached d x i e then
        let d := startEntry d l i core
        if (launchAt d l).any fun x => (mfind x.entries i).isSome then releaseStage l g core es d else d
      else releaseStage l g core es d

/-- The first of a step's entries whose stage is reached and which has yet to join its queue. -/
def nextStaged (d : Dev) (x : Launch) : List (Nat × Except Nat SchedEntry) → Option Nat
  | [] => none
  | (_, .error _) :: _ => none
  | (i, .ok e) :: es => if e.stope < x.gang.length ∧ stageReached d x i e then some i else nextStaged d x es

/-- An entry whose stage is reached and which waits for room (R296, R319, R342). -/
def stagedEntry (d : Dev) (x : Launch) : Option Nat :=
  match schedCount d x with
  | .error _ => none
  | .ok n => nextStaged d x (stepEntries d x n 0 0)

def execStage (a : RegNum) (t : Bool) (s : State) : Out :=
  let x := readG (src s) a
  withSources s [gSrc s a t]
    (checked s (255 < x.toNat) causeAccess x
      (if x = 0 then .next s
       else withFlush s fun s => match (src s).run with
         | none => hold s
         | some r =>
           let st := stopeOf s.cur
           let n := max (stopeAt s.dev st).stage x.toNat
           let d := modStope s.dev st fun q => { q with stage := n }
           match launchAt d r.launch with
           | none => .next (setDev s d)
           | some l =>
             .next (setDev s (if schedHeld d l then d else match schedCount d l with
               | .error c => schedFault (touchSched d l) r.launch c
               | .ok m => releaseStage r.launch (gangIndex l st) s.cur (stepEntries d l m 0 0) (touchSched d l)))))

/-- The first of a step's entries that has not been released. -/
def nextEntry (x : Launch) : List (Nat × Except Nat SchedEntry) → Except Nat (Option Nat)
  | [] => .ok none
  | (_, .error c) :: _ => .error c
  | (i, .ok _) :: es => if (mfind x.entries i).isNone then .ok (some i) else nextEntry x es

/-- The entry that the replay of a launch starts next. DESIGN CHOICE (log 40). -/
def replayNext (d : Dev) (x : Launch) : Except Nat (Option Nat) :=
  match schedCount d x with
  | .error c => .error c
  | .ok n => nextEntry x (stepEntries d x n 0 0)

/-- The core that stands for the issuer of an entry's command. -/
def entryCore (d : Dev) (x : Launch) (i : Nat) : Nat :=
  match schedEntry d x i with
  | .ok e => 4 * x.gang.getD e.stope 0
  | .error _ => 0

/-- SCHEDULE_ENTRY_START: while a step's replay is open, its entries start in schedule order (R329); while the step is
open, an entry that STAGE has released starts once the scoreboard has room (R296). -/
def startReplay (d : Dev) (l i : Nat) : Dev :=
  match launchAt d l with
  | none => d
  | some x =>
    if x.state ≠ .running ∨ x.stop.isSome ∨ schedHeld d x then d
    else match x.phase with
      | .replay =>
        (let d := touchSched d x
         match replayNext d x with
         | .error c => schedFault d l c
         | .ok none => d
         | .ok (some j) => if i = j then startEntry d l i (entryCore d x i) else d)
      | .open => if stagedEntry d x = some i then startEntry (touchSched d x) l i (entryCore d x i) else d
      | .starting | .held => d

/-- An entry that has completed late in its replay is counted in telemetry (R329). -/
def countLate (d : Dev) (q : CopyCmd) : Dev :=
  match q.entry, launchAt d q.issue.launch with
  | some i, some x =>
    match schedEntry d x i with
    | .ok e =>
      if x.phase = .replay ∧ e.start + e.dur < cyclesSince d x.replayAt then
        { d with foreman := { d.foreman with lateEntries := d.foreman.lateEntries + 1 } }
      else d
    | .error _ => d
  | _, _ => d

/-- What has stopped a launch. -/
def stopOf (d : Dev) (l : Nat) : Option Stop := (launchAt d l).bind (·.stop)

/-! ## Events -/

def execCopySector (stope : BitVec 6) (chan : BitVec 2) (ue : Bool) (s : State) : Out :=
  .next (setDev s (copySector s.dev stope.toNat chan.toNat ue))

def execCopyCompletion (stope : BitVec 6) (chan : BitVec 2) (s : State) : Out :=
  let d := copyComplete s.dev stope.toNat chan.toNat
  .next (setDev s (match headCopy s.dev stope.toNat chan.toNat with
    | some e => if (mfind d.copies e.1).isNone && stopOf d e.2.issue.launch == stopOf s.dev e.2.issue.launch then countLate d e.2
        else d
    | none => d))

/-- DESIGN CHOICE (log 40). -/
def execScheduleEntryStart (launch entry : Nat) (s : State) : Out := .next (setDev s (startReplay s.dev launch entry))

end Sys2Proof.Machine
end

