-- ==== Sys2Proof/Machine/CopyImage.lean ====
section
/-! DEFINITION. The copy-queue images of a pre-empted launch (spec/19_copy_engine.md R330): what is written to the
snapshot region, and the commands as they stand there. -/

namespace Sys2Proof.Machine

/-! ## Writing -/

/-- Where in the snapshot region the copy-queue image of a launch's gang stope stands. DESIGN CHOICE (log 42). -/
def queueAddr (d : Dev) (l g : Nat) (x : Launch) : Dword :=
  (match ctxAt d x.ctx with
   | some c => c.snapBase
   | none => 0) + BitVec.ofNat 64 (Config.queueImageAddr l g / 64 * 64)

/-- The code of a kind of copy (R328). -/
def kindCode : CopyKind → Nat
  | .cpy => 0
  | .cpyh => 1
  | .cpyp => 2
  | .cpye => 3

/-- The 64-byte entry of a command in a copy-queue image (R330). -/
def queueEntry (ch : Nat) (q : CopyCmd) : List Byte :=
  natBytes 32 (bytesNat (q.desc.flatMap fun w => natBytes 8 w.toNat)) ++
    natBytes 32 (q.flags.toNat * 2 ^ 68 + (if q.paused.isSome then 2 ^ 73 else 0) + kindCode q.kind * 2 ^ 74 + ch * 2 ^ 78 +
      q.token.getD 0 * 2 ^ 80 + q.issue.interval.toNat * 2 ^ 86 + q.issue.step.toNat * 2 ^ 94 +
      q.issue.epoch.toNat * 2 ^ 106 + q.issue.task % 2 ^ 24 * 2 ^ 118 + copySectors q.kind q.desc % 2 ^ 25 * 2 ^ 142 +
      q.next % 2 ^ 25 * 2 ^ 167 + q.counter.toNat * 2 ^ 192)

/-- The copy-queue image of a stope for a launch: the header, and an entry for each command that has not completed, in
channel and then queue order (R330). DESIGN CHOICE (log 42). -/
def queueImage (d : Dev) (l st : Nat) : List Byte :=
  let es := (List.range 4).flatMap fun ch => (mget [] (stopeAt d st).chans ch).filterMap fun n =>
    (mfind d.copies n).bind fun q => if q.issue.launch = l then some (queueEntry ch q) else none
  (natBytes 64 (1 + es.length % 2 ^ 8 * 2 ^ 8) ++ es.flatten ++ List.replicate 4160 0).take 4160

/-! ## Reading back -/

/-- A command with the fields of an entry of a copy-queue image (R330). -/
def ofQueueEntry (q : CopyCmd) (bs : List Byte) : CopyCmd :=
  { q with
    desc := (List.range 4).map fun j => BitVec.ofNat 64 (fieldAt bs (8 * j) 8), flags := BitVec.ofNat 5 (bitsOf bs 328 324),
    paused := if (bitsOf bs 329 329) = 1 then some (q.paused.getD 0) else none, kind := (kindOf (bitsOf bs 333 330)).getD q.kind, chan := bitsOf bs 335 334,
    token := if bitsOf bs 341 336 = 0 then none else some (bitsOf bs 341 336),
    issue := { q.issue with interval := BitVec.ofNat 8 (bitsOf bs 349 342), step := BitVec.ofNat 12 (bitsOf bs 361 350),
                            epoch := BitVec.ofNat 12 (bitsOf bs 373 362), task := bitsOf bs 397 374 },
    next := bitsOf bs 447 423, counter := BitVec.ofNat 48 (bitsOf bs 511 448) }

/-- The commands of a gang stope that a launch keeps, in channel and then queue order. -/
def savedIds (x : Launch) (g : Nat) : List Nat := (x.saved.filter fun e => e.1 / 4 == g).flatMap (·.2)

/-- A command that only an image names. -/
def imageOnly (d : Dev) (l st : Nat) (x : Launch) : CopyCmd :=
  { issue := { launch := l, task := scheduleTask, core := 4 * st, word := 7 * d.issues + 7, seq := d.issues, step := 0,
               number := BitVec.ofNat 4 (x.number.getD 0), interval := 0, epoch := 0, log := [] },
    ctx := x.ctx, stope := st, chan := 0, kind := .cpy, desc := [], token := none, counter := 0, place := none,
    queued := true, next := 0, paused := none, flags := 0, carry := [], entry := none }

/-- How many commands an image holds: its Count, where it could be written and can be read; else those that were saved.
-/
def savedCount (d : Dev) (l g : Nat) (x : Launch) : Nat :=
  if x.imaged.contains g then
    match dispatchRead d x (queueAddr d l g x) 64 with
    | some bs => min 64 (fieldAt bs 1 1)
    | none => (savedIds x g).length
  else (savedIds x g).length

/-- The j-th saved command of a gang stope as its image has it, where the image could be written and can be read; else
as it was saved. DESIGN CHOICE (log 42). -/
def savedCopy (d : Dev) (l g j : Nat) (x : Launch) : Option Nat × CopyCmd :=
  let st := x.gang.getD g 0
  let id := (savedIds x g)[j]?
  let q := (id.bind fun n => mfind d.copies n).getD (imageOnly d l st x)
  let q := if x.imaged.contains g then
      match dispatchRead d x (queueAddr d l g x + BitVec.ofNat 64 (64 * (j + 1))) 64 with
      | some bs => ofQueueEntry q bs
      | none => q
    else q
  (id, { q with stope := st, issue := { q.issue with core := 4 * st + q.issue.core % 4 } })

/-- A saved copy goes back into a queue: its scoreboard entries are taken again, its counter is translated again, and
its page is checked again (R330). DESIGN CHOICE (log 42). -/
def restoreCopy (x : Launch) (d : Dev) (e : Option Nat × CopyCmd) : Dev :=
  let q := { e.2 with paused := none }
  let m := match e.1 with
    | some n => (n, d)
    | none => newName d
  let d := modStope m.2 q.stope fun y => { y with chans := minsert y.chans q.chan (mget [] y.chans q.chan ++ [m.1]) }
  let d := takeEntries d m.1 q.issue.word (copyEntries d x q.stope q.kind q.desc)
  match entryCounter d x q.stope (q.counter.setWidth 64) with
  | .ok place => { d with copies := minsert d.copies m.1 { q with place := place } }
  | .error c => stopCopy { d with copies := minsert d.copies m.1 q } m.1 q c (q.counter.setWidth 64)

/-- The commands to restore for a launch, in the order of its images. -/
def savedCopies (d : Dev) (l : Nat) (x : Launch) : List (Option Nat × CopyCmd) :=
  (List.range x.gang.length).flatMap fun g => (List.range (savedCount d l g x)).map fun j => savedCopy d l g j x

/-- The saved commands that an image does not count any more go. -/
def dropUncounted (d : Dev) (l : Nat) (x : Launch) : Dev :=
  (List.range x.gang.length).foldl (fun d g => ((savedIds x g).drop (savedCount d l g x)).foldl (fun d n =>
    match mfind d.copies n with
    | some q => entryDone { d with copies := merase d.copies n } q
    | none => d) d) d

/-- The dies that hold the copy-queue images of a launch (R86). -/
def queueImageDies (d : Dev) (l : Nat) (x : Launch) : Byte :=
  x.imaged.foldl (fun b g => b ||| dispatchDies d x .read (queueAddr d l g x) 4160) 0

/-- Whether a read of the copy-queue images of a launch waits for a scoreboard (R297). -/
def queueImageHeld (d : Dev) (l : Nat) (x : Launch) : Bool :=
  (boarded d || !d.late.isEmpty) && x.imaged.any fun g => dispatchHeld d x (queueAddr d l g x) 4160

/-- Copies of a launch that wait to be restored, of which a cancel abandons those that the images have paused; the others
are restored as the images have them (R331). DESIGN CHOICE (log 42). -/
def abandonSaved (d : Dev) (l : Nat) : Dev :=
  match launchAt d l with
  | none => d
  | some x =>
    if x.saved.isEmpty && x.imaged.isEmpty then d
    else
      let x := if queueImageHeld d l x then { x with imaged := [] } else x
      let keep : List Nat × Dev → Option Nat × CopyCmd → List Nat × Dev := fun r e =>
        match e.1, e.2.paused with
        | some n, some _ => (r.1, entryDone { r.2 with copies := merase r.2.copies n } e.2)
        | none, some _ => r
        | some n, none => (r.1 ++ [n], { r.2 with copies := minsert r.2.copies n e.2 })
        | none, none => let m := newName r.2
          (r.1 ++ [m.1], { m.2 with copies := minsert m.2.copies m.1 e.2 })
      let r := (List.range x.gang.length).foldl (fun (r : SMap (List Nat) × Dev) g =>
        let m := ((List.range (savedCount d l g x)).map fun j => savedCopy d l g j x).foldl keep ([], r.2)
        (if m.1.isEmpty then r.1 else minsert r.1 (4 * g) m.1, m.2)) ([], dropUncounted d l x)
      modLaunch r.2 l fun x => { x with saved := r.1, imaged := [] }

end Sys2Proof.Machine
end

