-- ==== Sys2Proof/Machine/Fabric.lean ====
section
/-! DEFINITION. The fabric engine and the memory agents: performing operations here, completing them, arrivals from other
packages, reduction windows, the switch barrier's release and posted operations (spec/22_fabric_links.md R351 to R361;
spec/23_fabric_instructions.md R366 to R378; spec/24_program_triggered_allreduce.md R381). -/

namespace Sys2Proof.Machine

/-! ## Status words (R356) -/

/-- A status word: the status, and bits [47:16] of the address that failed. -/
def statusWord (status : Nat) (va : Dword) : Dword :=
  BitVec.ofNat 64 (va.toNat % 2 ^ 48 / 2 ^ 16 * 2 ^ 16 + status)

/-- The status of a translation that fails at the target. -/
def statusOfCause (cause : Nat) : Nat :=
  if cause = causeAbsent ∨ cause = causeStage2 then 2 else if cause = causeMisaligned then 4 else 3

def okReply (x : Vec) (fl : Flags) : FabReply := ⟨0, x, fl⟩

def failReply (status : Nat) (va : Dword) : FabReply := ⟨statusWord status va, 0, 0⟩

/-! ## One operation on memory or on an agent (R353 to R355, R369 to R374) -/

/-- The atomic that an operation performs in memory; none for a plain read or write. -/
def atomOf (f : FabFn) : Option AtomFn :=
  match f with
  | .load | .store => none
  | .add | .redAdd | .trig => some .add
  | .and | .redAnd => some .and
  | .or | .redOr => some .or
  | .xor | .redXor => some .xor
  | .min | .redMin => some .min
  | .max | .redMax => some .max
  | .swap => some .swap
  | .cas => some .acas
  | .redFadd => some .fadd
  | .redFmin => some .fmin
  | .redFmax => some .fmax
  | .ticket => none

def isWrite (f : FabFn) : Bool := f != .load

/-- The flags that an operation's own operand raises at its agent (R243, R371). -/
def operandFlags (f : AtomFn) (x : Word) : Flags := if f = .fmin || f = .fmax then snanFlag x else 0

/-- Perform an operation at a place of memory: the data and flags of its reply. An 8-byte add is an increment, with the
record that the mark gives (R281). -/
def memPerform (d : Dev) (loc : Nat) (op : FabOp) (m : Option Mark) : FabReply × Dev :=
  match atomOf op.fn with
  | none =>
    if op.fn = .load then (okReply (BitVec.ofNat 1024 (readN d.mem loc op.size)) 0, d)
    else (okReply 0 0, settle { d with mem := writeN d.mem loc op.size op.data.toNat })
  | some f =>
    if f = .add ∧ op.size = 8 then
      (okReply ((counterValue d loc).setWidth 1024) 0, increment d loc (op.data.setWidth 64) m)
    else
      let r := performAtomic d 0
        { fn := f, loc := loc, va := 0, half := op.size == 4, x := op.data.setWidth 64, y := op.data2, z := 0, w := 0,
          scope := .package, order := .relaxed, task := 0, epoch := 0, loc2 := 0 }
      (okReply ((r.1.getD 0 0).setWidth 1024) (r.2.1 ||| operandFlags f (op.data.setWidth 32)), r.2.2)

/-- Perform an operation on the agent window of a stack; a ticket names its holder. -/
def agentPerform (d : Dev) (part stack : Nat) (op : FabOp) (here : Option TaskCounter) (conn : Nat) (va : Dword) :
    FabReply × Dev :=
  let off := op.addr.toNat
  let disp := (off - 0x8000) / 16
  match op.fn with
  | .load => (okReply ((agentRead d part stack off).setWidth 1024) 0, d)
  | .store => (okReply 0 0, agentStore d part stack off (op.data.setWidth 64))
  | .add =>
    if op.size = 8 ∧ 0x8000 ≤ off ∧ off % 16 = 0 then
      (okReply ((agentRead d part stack off).setWidth 1024) 0, addDispenser d part stack disp (op.data.setWidth 64))
    else (failReply 3 va, d)
  | .ticket =>
    if 0x8000 ≤ off ∧ off % 16 = 0 then
      let r := takeTicket d part stack disp here conn op.data2
      (okReply (r.1.setWidth 1024) 0, r.2)
    else (failReply 3 va, d)
  | .and | .or | .xor | .min | .max | .swap | .cas | .redAdd | .redAnd | .redOr | .redXor | .redMin | .redMax | .redFadd
  | .redFmin | .redFmax | .trig => (failReply 3 va, d)

/-- Count an operation at the agent of a stack (R354). -/
def countAgent (d : Dev) (part stack : Nat) (ok : Bool) : Dev :=
  modAgent d part stack fun a =>
    if ok then { a with performed := a.performed + 1 } else { a with refused := a.refused + 1 }

def replyOk (r : FabReply) : Bool := r.status == 0

/-! ## Reduction windows (R358, R359, R381) -/

/-- The join of a reduction at one node of the tree (R135). -/
def windowJoin (f : FabFn) (size : Nat) (a b : Dword) : Dword :=
  match atomOf f with
  | none => b
  | some g =>
    if size = 4 then ((newWord g (a.setWidth 32) (b.setWidth 32) 0).1).setWidth 64
    else newDword g a b 0

/-- The result of a generation, by rank: what a switch has merged stands at its lowest rank, and its other ranks are
absent (R359). -/
def windowResult (f : FabFn) (size : Nat) (xs : List (Option Dword)) : Dword :=
  (treeSum (fun a b => match a, b with
    | some a, some b => some (windowJoin f size a b)
    | some a, none => some a
    | none, b => b) none xs).getD 0

/-- A launch that stands for accesses of a context from elsewhere: from its partition's first stope, with no gang. -/
def guestLaunch (part ctx : Nat) : Launch := launchOfRecord (BitVec.ofNat 4 part) ctx 0 0 (parseRecord []) 0

def guestStope (d : Dev) (part : Nat) : Nat :=
  match partAt d part with
  | some p => p.stopes.getD 0 0
  | none => 0

/-- The context with an identifier. DESIGN CHOICE (log 12). -/
def ctxOf (d : Dev) (ident : Dword) : Option (Nat × Context) := d.ctxs.find? fun e => e.2.ident == ident

/-- The place of a counter that a target is to raise (R364). -/
def notifyPlace (d : Dev) (part ctx : Nat) (va : Dword) : Except Nat Nat :=
  match xlate d (guestLaunch part ctx) (guestStope d part) .coreAtomic .atomic va with
  | .trap c => .error c
  | .page _ => .error causeAbsent
  | .place p =>
    if va.toNat % 8 ≠ 0 then .error causeMisaligned
    else match locOf p with
      | some l => .ok l
      | none => .error causeAccess

/-- The data of a generation by rank. -/
def byRank (parts : List Contribution) : List (Option Dword) :=
  parts.flatMap fun q => some (q.op.data.setWidth 64) :: List.replicate (q.count - 1) none

/-- The context of a partition with an identifier. -/
def ctxIn (d : Dev) (part : Nat) (ident : Dword) : Option Nat :=
  (d.ctxs.find? fun e => e.2.part.toNat == part && e.2.ident == ident).map (·.1)

/-- Write the result of a generation at the home, and raise the counter of its lowest rank. -/
def writeWindow (d : Dev) (w : Window) (parts : List Contribution) : Dev :=
  let fail := fun (d : Dev) (cause : Nat) => addLog d 7 w.part (detail [w.group, w.addr.toNat, w.gen, cause])
  match parts with
  | [] => d
  | p :: _ =>
    if parts.any fun q => q.op.fn != p.op.fn || q.op.size != p.op.size then fail d 2
    else match ctxIn d w.part w.ident with
      | none => fail d 1
      | some ctx =>
        let part := w.part
        match xlate d (guestLaunch part ctx) (guestStope d part) .fabric .write w.addr with
        | .place (.hbm pa) =>
          let loc := hbmLoc pa
          let x := windowResult p.op.fn p.op.size (byRank parts)
          late d ⟨(List.range p.op.size).map (loc + ·) |>.zip (natBytes p.op.size x.toNat),
            match p.op.notify.map (notifyPlace d part ctx) with
            | some (.ok l) => some (l, BitVec.ofNat 64 p.op.size,
                p.owner.map fun o => ⟨o.owner, o.epoch, o.engine, .system, guestStope d part⟩)
            | some (.error _) | none => none, .zero, none, ctx, d.issues⟩
        | .place (.vault _ _) | .place (.remote _ _) | .place (.reduction _ _) | .place (.host _ _) | .place (.agent _ _)
        | .place (.sysreg _) => fail d 1
        | .trap _ => fail d 1
        | .page _ => fail d 1

/-- Whether two contributions name a rank in common. -/
def sharesRank (p q : Contribution) : Bool := p.rank < q.rank + q.count && q.rank < p.rank + p.count

/-- The contributions of the current generation, oldest first, and those that join a later one: the ones of members that
have already contributed (R358). -/
def splitGeneration (ps : List Contribution) : List Contribution × List Contribution :=
  ps.foldl (fun r p => if r.1.any (sharesRank p) then (r.1, r.2 ++ [p]) else (r.1 ++ [p], r.2)) ([], [])

/-- The current generation of n ranks in rank order, where all have contributed. -/
def generationOf (n : Nat) (ps : List Contribution) : Option (List Contribution) :=
  let xs := (List.range n).filterMap fun r => (splitGeneration ps).1.find? fun p => p.rank == r
  if (xs.map (·.count)).sum = n then some xs else none

/-- The partition of a context identifier. -/
def partOf (d : Dev) (ident : Dword) : Nat :=
  match ctxOf d ident with
  | some c => c.2.part.toNat
  | none => noPart

/-- Whether two entries are of one window address of one partition's context. -/
def Window.same (v w : Window) : Bool :=
  v.part == w.part && v.group == w.group && v.ident == w.ident && v.addr == w.addr

/-- A window address of a group, in the context of a partition with an identifier: each partition has its own. -/
def windowAt (d : Dev) (part group : Nat) (ident addr : Dword) : Window :=
  let w : Window := ⟨part, group, ident, addr, 0, [], []⟩
  (d.windows.find? w.same).getD w

def putWindow (d : Dev) (w : Window) : Dev := { d with windows := d.windows.filter (fun v => !v.same w) ++ [w] }

/-- What a window whose context was not there holds for a partition: what came after its assignment (R358). -/
def Window.since (w : Window) (part : Nat) : Window :=
  let m := mget (0, 0) w.marks part
  { w with part := part, gen := w.gen - m.1, parts := if w.gen = m.1 then w.parts.drop m.2 else w.parts, marks := [] }

/-- A context of a partition comes to be: what reached its windows while no context with the identifier was there is the
partition's, after what it held before. DESIGN CHOICE (log 12). -/
def bindWindows (d : Dev) (part : Nat) (ident : Dword) : Dev :=
  let came := fun (w : Window) => w.part == noPart && w.ident == ident
  let ws := (d.windows.filter came).map (·.since part)
  ws.foldl (fun d w =>
    let v := windowAt d part w.group ident w.addr
    putWindow d { v with gen := v.gen + w.gen, parts := if w.gen = 0 then v.parts ++ w.parts else w.parts })
    { d with windows := d.windows.filter fun w => !came w }

/-- A partition is assigned: its windows are forgotten, and those of contexts that are not there yet note what they hold,
for their generations are counted from the assignment of the context's partition (R358). -/
def dropWindows (d : Dev) (part : Nat) : Dev :=
  { d with windows := d.windows.filterMap fun w =>
      if w.part = part then none
      else if w.part = noPart then some { w with marks := minsert w.marks part (w.gen, w.parts.length) }
      else some w }

/-- A contribution reaches its window: a generation with one of every rank is merged (R358). -/
def contribute (d : Dev) (part group : Nat) (ident : Dword) (c : Contribution) : Dev :=
  match mfind d.groups group with
  | none => d
  | some g =>
    let w := windowAt d part group ident c.op.addr
    let ps := w.parts ++ [c]
    match generationOf g.members.length ps with
    | none => putWindow d { w with parts := ps }
    | some xs =>
      writeWindow (putWindow d { w with gen := w.gen + 1, parts := (splitGeneration ps).2 }) w xs

/-- A contribution of a package: refused where it holds no rank (R357), or where the lowest rank's counter cannot be
raised (R364). -/
def takeContribution (d : Dev) (part group : Nat) (ident : Dword) (rank : Option Nat) (op : FabOp)
    (owner : Option AcqEntry) : FabReply × Dev :=
  match rank with
  | none => (⟨7, 0, 0⟩, d)
  | some r =>
    let bad : Option Dword := match op.notify, ctxIn d part ident with
      | some va, some ctx =>
        (match notifyPlace d part ctx va with
         | .ok _ => none
         | .error _ => if r = 0 then some va else none)
      | _, _ => none
    match bad with
    | some va => (failReply 3 va, d)
    | none => (okReply 0 0, contribute d part group ident ⟨r, 1, op, owner⟩)

/-- Whether count ranks from one on are a node of the canonical tree of n leaves (R359). -/
def isNode (n rank count : Nat) : Bool :=
  (List.range 17).any fun k => rank % 2 ^ k == 0 && rank < n && count == min (2 ^ k) (n - rank)

/-- A contribution that a switch has merged reaches the home (R359). -/
def takeMerged (d : Dev) (group : Nat) (ident : Dword) (rank count : Nat) (op : FabOp) : Dev :=
  match mfind d.groups group with
  | some g => if isNode g.members.length rank count then contribute d (partOf d ident) group ident ⟨rank, count, op, none⟩ else d
  | none => d

/-! ## Performing an operation of this package here (R367, R372 to R374) -/

/-- The granules of memory that an operation here touches. -/
def fabGranules (r : FabRec) : List Nat :=
  granulesOf ((match r.loc with
    | some l => (granules l r.op.size).map (32 * ·)
    | none => []) ++ r.sets)

/-- The record that an operation's increment leaves (R105): a release of its task, or none. -/
def fabMark (r : FabRec) : Option Mark :=
  if releases r.order then
    some ⟨BitVec.ofNat 24 r.issue.task, advanceEpoch r.issue.epoch, false, r.scope, stopeOf r.issue.core⟩
  else none

/-- The identifier of a context. -/
def identOf (d : Dev) (ctx : Nat) : Dword :=
  match ctxAt d ctx with
  | some c => c.ident
  | none => 0

/-- The partition of a context. -/
def partOfCtx (d : Dev) (ctx : Nat) : Nat :=
  match ctxAt d ctx with
  | some c => c.part.toNat
  | none => noPart

/-- The stack of the agent that performs an operation here, where one does. -/
def agentFor (r : FabRec) : Option Nat :=
  match r.dest with
  | .channel stack _ => some stack
  | .agent stack => some stack
  | .conn _ | .window _ | .here => none

def fabPerform (d : Dev) (r : FabRec) : FabReply × Dev :=
  match r.dest with
  | .agent stack => agentPerform d r.part stack r.op (r.holder.map fun l => ⟨l, r.op.data2, r.ctx, r.issue⟩) noConn
      r.op.addr
  | .window g =>
    let owner : Option AcqEntry :=
      if r.issue.epoch = 4095 then none else some ⟨BitVec.ofNat 24 r.issue.task, r.issue.epoch, true⟩
    takeContribution d r.part g (identOf d r.ctx) (rankOf d g d.foreman.package) r.op owner
  | .channel _ _ | .here =>
    match r.loc with
    | some l => memPerform d l r.op (fabMark r)
    | none => (okReply 0 0, r.sets.foldl (fun d l => raiseMax d l (r.op.data.setWidth 64) (fabMark r)) d)
  | .conn _ => (⟨6, 0, 0⟩, d)

/-! ## Completion (R368, R378) -/

/-- An operation is over: it leaves every list. DEDUCED (log 43). -/
def dropFab (d : Dev) (n : Nat) : Dev :=
  { d with fabric := merase d.fabric n,
           cores := d.cores.map fun e =>
             (e.1, { e.2 with fabricQ := e.2.fabricQ.filter (· != n), opGate := e.2.opGate.filter (· != n) }),
           conns := d.conns.map fun e =>
             (e.1, if e.2.unacked.contains n then
               { e.2 with unacked := e.2.unacked.filter (· != n), expiries := 0 } else e.2) }

/-- The launch whose context and gang a posted operation uses. -/
def postLaunch (d : Dev) (p : Posted) : Launch := (launchAt d p.issue.launch).getD (guestLaunch p.part p.ctx)

/-- A fired operation completes: its status goes into its descriptor, then its counter is raised by n; a failure is
logged (R378), and so is a counter that a resize has taken from the partition (R18). -/
def finishPost (d : Dev) (pn : Nat) (status : Dword) (n : Nat) : Dev :=
  match mfind d.posted pn with
  | none => d
  | some p =>
    let status := if status = 0 ∧ p.counter.any (fun l => !placeIn d p.part l) then statusWord 1 0 else status
    let d := { d with posted := merase d.posted pn }
    let st := stopeOf p.issue.core
    let places := match placeBytes d (postLaunch d p) st .fetch .write (p.addr.setWidth 64 + 24) 8 with
      | .ok ls => ls
      | .error _ => []
    let raised := if status = 0 then p.counter else none
    let a := touchLost d p.ctx (diesAt st places)
    let b := touchLost a.1 p.ctx (diesAt st raised.toList)
    let d := match a.2, b.2 with
      | some die, _ | none, some die => notify b.1 p.issue.launch p.issue.task causeDieLost (BitVec.ofNat 64 die)
      | none, none => b.1
    let d := late d ⟨if a.2.isSome then [] else places.zip (natBytes 8 status.toNat),
      if b.2.isSome then none else raised.map fun loc => (loc, BitVec.ofNat 64 n, engineMark p.issue .package st),
      .zero, some (p.trigger, p.due.getD 0), p.ctx, p.issue.seq⟩
    if status = 0 then d else addLog d 8 p.part (detail [p.addr.toNat, status.toNat])

/-- Flags of a reply reach the issuer's sr.fflags, where its task still runs on the core (R371). -/
def raiseFlags (d : Dev) (i : Issue) (fl : Flags) : Dev :=
  if (coreAt d i.core).run = some ⟨i.launch, i.task⟩ then modCore d i.core fun c => { c with fflags := c.fflags ||| fl }
  else d

/-- The increment of an operation's counter: an access of the engine for its task, which RACE and DIE_LOST may stop
(R86, R101, R108, R281, R368). -/
def raiseCounter (d : Dev) (r : FabRec) (loc n : Nat) : Dev :=
  match touchLost d r.ctx (diesAt (stopeOf r.issue.core) [loc]) with
  | (d, some die) => notify d r.issue.launch r.issue.task causeDieLost (BitVec.ofNat 64 die)
  | (d, none) =>
    match engineRace d r.ctx r.issue true true [granuleOf loc] with
    | .error _ => notify d r.issue.launch r.issue.task causeRace (r.counterVa &&& ~~~31#64)
    | .ok d => increment d loc (BitVec.ofNat 64 n) (engineMark r.issue .package (stopeOf r.issue.core))

/-- An operation completes with its reply: result, then counter; or a trap at the task's next clause (R368). -/
def finishFab (d : Dev) (n : Nat) (r : FabRec) (reply : FabReply) : Dev :=
  let d := dropFab d n
  let d := if replyOk reply then d else { d with tickets := d.tickets.filter fun t => t.op != n }
  let size := r.op.size
  let d := match r.post with
    | some p => finishPost d p reply.status size
    | none =>
      let ok := replyOk reply
      let x : Vec := if ok then BitVec.ofNat 1024 (reply.data.toNat % 2 ^ (8 * size)) else 0
      let d := match r.result with
        | some _ => deliverTask d r.issue x
        | none => d
      if ok then
        let d := raiseFlags d r.issue reply.flags
        match r.counter with
        | some loc => raiseCounter d r loc size
        | none => d
      else notify d r.issue.launch r.issue.task causeRemote reply.status
  sendReady d

/-- Whether an earlier operation of the same task to the same channel is still to be performed (R367). -/
def earlierFab (d : Dev) (n : Nat) (r : FabRec) : Bool :=
  d.fabric.any fun e => e.1 < n && e.2.post.isNone && r.post.isNone && e.2.issue.launch == r.issue.launch &&
    e.2.issue.task == r.issue.task && e.2.dest == r.dest &&
    (match r.dest with
     | .channel _ _ => true
     | .conn _ | .agent _ | .window _ | .here => false)

/-- Whether an earlier command still holds a range of a vault that an operation's target or counter lies in (R296,
R297). -/
def fabBlocked (d : Dev) (r : FabRec) : Bool :=
  (r.loc.toList ++ r.sets ++ r.counter.toList).any fun l =>
    if r.post.isSome then placeHeld d true l else byteBlocks d r.issue.word true l

/-- Check and tag the accesses of an operation here, up to the granule that races (R101, R108, R367). A fired operation
is tagged as an arrival is. DEDUCED (log 43). -/
def fabRace (d : Dev) (r : FabRec) : Option Nat × Dev :=
  let gs := fabGranules r
  if r.post.isSome then
    (none, if isWrite r.op.fn then { d with tags := tagAll tagZero gs d.tags } else d)
  else engineRaces d r.ctx r.issue (isWrite r.op.fn) (atomOf r.op.fn).isSome gs

/-- The address of a granule of an operation here (R108). -/
def fabAddr (d : Dev) (r : FabRec) (g : Nat) : Dword :=
  match r.loc with
  | some l => (r.va &&& ~~~31#64) + BitVec.ofNat 64 (32 * (g - granuleOf l))
  | none => addrOf d r.ctx r.issue (32 * g)

/-- What an operation writes before the granule that races: it stands (R108). -/
def fabBefore (d : Dev) (r : FabRec) (g : Nat) : Dev :=
  match r.loc with
  | some l =>
    if r.op.fn = .store then settle { d with mem := writeN d.mem l (min r.op.size (32 * g - l)) r.op.data.toNat } else d
  | none => (r.sets.filter (· < 32 * g)).foldl (fun d l => raiseMax d l (r.op.data.setWidth 64) (fabMark r)) d

/-- An operation performed here, and completed. DEDUCED (log 43). -/
def runFab (d : Dev) (n : Nat) (r : FabRec) (ue : Bool) : Dev :=
  match fabRace d r with
  | (some g, d) => notify (sendReady (dropFab (fabBefore d r g) n)) r.issue.launch r.issue.task causeRace (fabAddr d r g)
  | (none, d) =>
    let p := if ue then (failReply 5 r.op.addr, logError d r.part r.loc) else fabPerform d r
    let d := match agentFor r with
      | some st => countAgent p.2 r.part st (replyOk p.1)
      | none => p.2
    finishFab d n r p.1

/-- An operation completes with a reply that an accepted flit has brought; one that none has brought is not there
(R386). DEDUCED (log 72). -/
def finishReply (d : Dev) (n : Nat) (r : FabRec) (a : FabReply) : Dev :=
  match takePacket d r.part (replyBytes r.op a) a.data.toNat with
  | some d => finishFab d n r a
  | none => d

/-- FABRIC_OP_COMPLETION: an operation on a connection completes with the reply that has come for the oldest one
(R386), or with status 6 where nothing can be sent (R352); one to another package's window with its acceptance; any
other is performed here. DEDUCED (log 43). -/
def fabComplete (d : Dev) (n : Nat) (reply : Option FabReply) : Dev :=
  match mfind d.fabric n with
  | none => d
  | some r =>
    match r.dest with
    | .conn k =>
      if r.counter.any (byteBlocks d r.issue.word true) then d
      else match mfind d.conns k with
      | none => if leftWindow d n r then finishFab d n r ⟨6, 0, 0⟩ else d
      | some c =>
        match reply with
        | some a => if c.unacked.head? = some n then finishReply d n r a else d
        | none => if c.down && leftWindow d n r then finishFab d n r ⟨6, 0, 0⟩ else d
    | .window g =>
      if r.counter.any (byteBlocks d r.issue.word true) then d
      else if windowHere d g then (if leftWindow d n r then runFab d n r false else d)
      else match reply with
        | some a => if r.seqNo.isSome then finishReply d n r a else d
        | none => d
    | .channel _ _ | .agent _ | .here =>
      if !leftWindow d n r || earlierFab d n r || fabBlocked d r then d
      else runFab d n r (match reply with
        | some a => a.status.toNat % 2 ^ 16 == 5
        | none => false)

/-! ## Arrivals (R351 to R353) -/

/-- Whether sequence a lies below b, within 2^31 (R352). -/
def seqBelow (a b : Nat) : Bool := let k := (b + 2 ^ 32 - a) % 2 ^ 32; 1 ≤ k && k ≤ 2 ^ 31

/-- The right that an arriving operation needs, and who it is. -/
def arrivalRight (f : FabFn) : User × Right :=
  match f with
  | .load => (.fabric, .read)
  | .store => (.fabric, .write)
  | .trig => (.coreAtomic, .atomic)
  | .add | .and | .or | .xor | .min | .max | .swap | .cas | .redAdd | .redAnd | .redOr | .redXor | .redMin | .redMax
  | .redFadd | .redFmin | .redFmax | .ticket => (.fabric, .atomic)

/-- Whether an operation other than those allowed reaches agent space (R369 to R371). -/
def agentBad (op : FabOp) : Bool :=
  match op.fn with
  | .load | .store => op.size != 8
  | .add | .ticket => false
  | .and | .or | .xor | .min | .max | .swap | .cas | .redAdd | .redAnd | .redOr | .redXor | .redMin | .redMax | .redFadd
  | .redFmin | .redFmax | .trig => true

/-- The reply of an operation whose translation fails: status 1 where its target lies outside the partition (R18, R356).
DEDUCED (log 43). -/
def trapReply (d : Dev) (x : Launch) (r : Right) (k : Nat) (va : Dword) : FabReply :=
  if k = causeAccess && outsidePart d x r va then ⟨1, 0, 0⟩ else failReply (statusOfCause k) va

/-- Perform an arriving operation in a context, where its data may be uncorrectable: the stack of the agent, its reply,
the device. The counter to notify is checked before the operation is performed. DEDUCED (log 43). -/
def arrivalPerform (d : Dev) (ctx : Nat) (c : Context) (conn : Nat) (op : FabOp) (ue : Bool) : Nat × FabReply × Dev :=
  let part := c.part.toNat
  let ur := arrivalRight op.fn
  match xlate d (guestLaunch part ctx) (guestStope d part) ur.1 ur.2 op.addr with
  | .trap k => (0, trapReply d (guestLaunch part ctx) ur.2 k op.addr, d)
  | .page _ => (0, failReply 2 op.addr, d)
  | .place p =>
    let note : Except Unit (Option Nat) := match op.notify with
      | none => .ok none
      | some va => match notifyPlace d part ctx va with
        | .ok l => .ok (some l)
        | .error _ => .error ()
    let raise := fun (r : FabReply × Dev) (l : Option Nat) =>
      match l with
      | some l => if replyOk r.1 then (r.1, arriveRaise r.2 ctx l (BitVec.ofNat 64 op.size) none) else r
      | none => r
    let onMem := fun (stack loc : Nat) =>
      if op.fn = .ticket then (stack, failReply 3 op.addr, d)
      else if op.addr.toNat % op.size ≠ 0 then (stack, failReply 4 op.addr, d)
      else match note with
        | .error _ => (stack, failReply 3 (op.notify.getD 0), d)
        | .ok l =>
          if ue then (stack, failReply 5 op.addr, logError d part (some loc))
          else
          let d := if isWrite op.fn then clearTags d loc op.size else d
          let r := raise (memPerform d loc op none) l
          (stack, r.1, r.2)
    match p with
    | .hbm pa => onMem (pa / 2 ^ 36) (hbmLoc pa)
    | .vault st o => onMem 0 (vaultLoc st o)
    | .agent stack off =>
      if agentBad op then (stack, failReply 3 op.addr, d)
      else if op.addr.toNat % op.size ≠ 0 then (stack, failReply 4 op.addr, d)
      else match note with
        | .error _ => (stack, failReply 3 (op.notify.getD 0), d)
        | .ok l =>
          let r := raise (agentPerform d part stack { op with addr := BitVec.ofNat 64 off } none conn op.addr) l
          (stack, r.1, r.2)
    | .remote _ _ | .reduction _ _ | .host _ _ | .sysreg _ => (0, failReply 3 op.addr, d)

/-- The connection that a packet names, made where it is new: nothing is sent on such a one before an LTT_LOAD. It
belongs to its context's partition once there is one. DESIGN CHOICE (log 12). -/
def arrivalConn (d : Dev) (p : Packet) : Nat × Dev :=
  let part := partOf d p.context
  match connOf d part p.context p.package.toNat with
  | some k => (k, { d with conns := mmod d.conns k fun c => { c with part := part } })
  | none =>
    let k := mfree d.conns 0
    let c : Conn :=
      { part := part, ident := p.context, package := p.package.toNat, down := true, sendSeq := 0, unacked := [],
        expiries := 0, expect := 0, cache := [] }
    (k, { d with conns := minsert d.conns k c })

/-- A RAck frees the entries below it (R353). -/
def freeCache (d : Dev) (k rack : Nat) : Dev :=
  { d with conns := mmod d.conns k fun c => { c with cache := c.cache.filter fun e => !seqBelow e.1 rack } }

/-- The operation of a packet in sequence: performed, and its reply kept; a duplicate: answered from the cache; any
other: discarded (R352, R353). -/
def arriveOp (d : Dev) (k : Nat) (ident : Dword) (s : Nat) (op : FabOp) (ue : Bool) : Dev :=
  match mfind d.conns k with
  | none => d
  | some c =>
    if s = c.expect then
      let r : Nat × FabReply × Dev := match ctxOf d ident with
        | some (ctx, x) => arrivalPerform d ctx x k op ue
        | none => (0, failReply 2 op.addr, d)
      let d := countAgent r.2.2 c.part r.1 (replyOk r.2.1)
      let d := { d with conns := mmod d.conns k fun c =>
        { c with expect := (s + 1) % 2 ^ 32, cache := minsert c.cache s (r.1, r.2.1) } }
      emitReply d c.part k s op r.2.1
    else if seqBelow s c.expect then
      match mfind c.cache s with
      | some e =>
        let d := modAgent d c.part e.1 fun a => { a with duplicates := a.duplicates + 1 }
        emitReply d c.part k s op e.2
      | none => emitReply d c.part k s op (okReply 0 0)
    else d

/-- The call of a ticket that was taken on a connection adds 1 to its holder counter, where the task that took it found
the counter (R355, R373). Of tickets with one address the oldest is called. DEDUCED (log 43). -/
def arriveCall (d : Dev) (k : Nat) (counter : Dword) : Dev :=
  match d.tickets.find? fun t => t.conn == k && t.counter.va == counter with
  | some t => callHolder { d with tickets := d.tickets.erase t } t.counter
  | none => d

/-- Whether an operation that arrives waits for a scoreboard at its target (R297), or for a packet of its connection that
does. DEDUCED (log 79). -/
def arrivalHeld (d : Dev) (k : Nat) (p : Packet) (op : FabOp) : Bool :=
  (d.arrivals.any fun q => q.1.package == p.package && q.1.context == p.context) ||
    (match ctxOf d p.context, mfind d.conns k with
     | some (ctx, c), some q =>
       let ur := arrivalRight op.fn
       p.seq.toNat == q.expect &&
         (match xlate d (guestLaunch c.part.toNat ctx) (guestStope d c.part.toNat) ur.1 ur.2 op.addr with
          | .place pl => (locOf pl).any fun l =>
            if isWrite op.fn then lateHeld d (granules l op.size) else readHeld d ((granules l op.size).map (32 * ·))
          | .trap _ | .page _ => false)
     | _, _ => false)

def packetArrival (d : Dev) (p : Packet) (ue : Bool) : Dev :=
  let q := arrivalConn d p
  let d := freeCache q.2 q.1 p.rack.toNat
  match p.body with
  | .ackOnly => d
  | .call counter => arriveCall d q.1 counter
  | .operation op =>
    if arrivalHeld d q.1 p op then { d with arrivals := d.arrivals ++ [(p, ue)] }
    else arriveOp d q.1 p.context p.seq.toNat op ue
  | .contribution g rank op =>
    let mine := rankOf d g.toNat p.package.toNat == some rank
    let r := takeContribution d (partOf d p.context) g.toNat p.context (if mine then some rank else none) op none
    emit r.2 (partOf d p.context) (.reply q.1 p.seq.toNat r.1)

/-- The packets that wait for a scoreboard are looked at again, in order (R297). DEDUCED (log 79). -/
def drainArrivals (d : Dev) : Dev := d.arrivals.foldl (fun d q => packetArrival d q.1 q.2) { d with arrivals := [] }

/-! ## Timers and acknowledgements (R352, R353) -/

/-- Send every unacknowledged packet of a connection again. -/
def resend (d : Dev) (k : Nat) (c : Conn) : Dev :=
  c.unacked.foldl (fun d' n => match mfind d.fabric n with
    | some r => emit d' c.part (.operation k (r.seqNo.getD 0) (rackOf d c) r.op)
    | none => d') d

/-- The operations of this package on a connection that have left their windows, in order. -/
def outstandingOn (d : Dev) (k : Nat) : List Nat :=
  (d.fabric.filter fun e => e.2.dest == .conn k && (e.2.seqNo.isSome || leftWindow d e.1 e.2)).map (·.1)

/-- The peer's connection to this package has gone down: the entries of its operations are freed, and the operations
that it sends once it has established the connection again start at sequence 0 (R352, R353). DESIGN CHOICE (log 12). -/
def peerDown (d : Dev) (ident : Dword) (package : Nat) : Dev :=
  match connOf d (partOf d ident) ident package with
  | some k => { d with conns := mmod d.conns k fun c => { c with expect := 0, cache := [] } }
  | none => d

/-- A connection goes down in this package's direction: what is outstanding on it completes with status 6. The entries
of the peer's operations belong to the peer's direction, and go with that one (peerDown). DESIGN CHOICE (log 12). -/
def connDown (d : Dev) (k : Nat) : Dev :=
  let d := { d with conns := mmod d.conns k fun c => { c with down := true } }
  (outstandingOn d k).foldl (fun d n => match mfind d.fabric n with
    | some r => finishFab d n r ⟨6, 0, 0⟩
    | none => d) d

def timeout (d : Dev) (k : Nat) : Dev :=
  match mfind d.conns k with
  | none => d
  | some c =>
    if c.down || c.unacked.isEmpty then d
    else if 8 ≤ c.expiries + 1 then connDown d k
    else resend { d with conns := minsert d.conns k { c with expiries := c.expiries + 1 } } k c

def ackPacket (d : Dev) (k : Nat) : Dev :=
  match mfind d.conns k with
  | some c => if c.down then d else emit d c.part (.rack k (rackOf d c))
  | none => d

/-! ## Posted operations (R360, R361, R376 to R378) -/

/-- Whether a posted operation has fired and left. -/
def inFlight (d : Dev) (n : Nat) : Bool := d.fabric.any fun e => e.2.post == some n

/-- Whether a posted operation is the next to fire of its trigger: in ascending threshold, then in posting order. -/
def firesNext (d : Dev) (n : Nat) (p : Posted) : Bool :=
  p.due.isSome && !inFlight d n && !d.posted.any fun e =>
    e.1 != n && e.2.trigger == p.trigger && e.2.due.isSome && !inFlight d e.1 &&
      (e.2.desc.getD 1 0 < p.desc.getD 1 0 || (e.2.desc.getD 1 0 == p.desc.getD 1 0 && e.1 < n))

def ctlSizes : List Nat := [8, 16, 32, 64, 128, 4]

def ctlSize (cw : Dword) : Nat := ctlSizes.getD (bitField cw.toNat 50 3) 8

def ctlScope (cw : Dword) : Scope :=
  match bitField cw.toNat 56 2 with
  | 0 => .stope | 1 => .die | 2 => .package | _ => .system

def ctlOrder (cw : Dword) : Order :=
  match bitField cw.toNat 53 3 with
  | 0 => .relaxed | 1 => .acquire | 2 => .release | 3 => .acqRel | _ => .sc

def ctlCounter (cw : Dword) : Dword := BitVec.ofNat 64 (bitField cw.toNat 0 48)

def ctlNotify (cw : Dword) : Bool := cw.getLsbD 58

/-- RRED's functions, in code order. -/
def redFn (n : Nat) : FabFn :=
  match n with
  | 0 => .redAdd | 1 => .redAnd | 2 => .redOr | 3 => .redXor | 4 => .redMin | 5 => .redMax | 6 => .redFadd
  | 7 => .redFmin | _ => .redFmax

/-- The functions of Kind 0 (R376). -/
def postFn (f : Nat) : Option FabFn :=
  if f = 1 then some .store else if 0x10 ≤ f ∧ f ≤ 0x18 then some (redFn (f - 0x10)) else none

/-- The counter that the target raises, of a control word. -/
def ctlTarget (cw : Dword) : Option Dword :=
  if ctlNotify cw && ctlCounter cw != 0 then some (ctlCounter cw) else none

/-- Where an operation at a place goes, and the place of its target here. -/
def destOf (d : Dev) (ctx : Nat) (p : Place) : FabDest × Option Nat :=
  match p with
  | .vault st o => (.here, some (vaultLoc st o))
  | .hbm pa => (.channel (pa / 2 ^ 36) (pa / 2 ^ 31 % 32), some (hbmLoc pa))
  | .remote pkg _ => (.conn ((connOf d (partOfCtx d ctx) (identOf d ctx) pkg).getD noConn), none)
  | .reduction g _ => (.window g, none)
  | .agent stack _ => (.agent stack, none)
  | .host _ _ => (.here, none)
  | .sysreg _ => (.here, none)

/-- The address of an operation at its target. -/
def destAddr (p : Place) : Dword :=
  BitVec.ofNat 64 (match p with
    | .vault _ o => o
    | .hbm pa => pa
    | .remote _ a => a
    | .reduction _ a => a
    | .agent _ o => o
    | .host _ a => a
    | .sysreg o => o)

/-- The places of a posted operation's source: none where it names none. -/
def postSource (d : Dev) (p : Posted) (size : Nat) : Except (Nat × Dword) (List Nat) :=
  let src := p.desc.getD 5 0
  if src = 0 then .ok [] else placeBytes d (postLaunch d p) (stopeOf p.issue.core) .fetch .read src size

/-- The data of a posted operation, read as it fires; Value where it names no source. -/
def postData (d : Dev) (p : Posted) (size : Nat) (ls : List Nat) : Nat :=
  if p.desc.getD 5 0 = 0 then (p.desc.getD 6 0).toNat % 2 ^ (8 * size) else bytesNat (ls.map (readByte d.mem))

/-- Go on with a fired operation that touches dies, of which none is lost; else it ends with status 6, and its task gets
DIE_LOST (R86, R362). DEDUCED (log 43). -/
def withPostDies (d : Dev) (n : Nat) (p : Posted) (size : Nat) (bits : Byte) (k : Dev → Dev) : Dev :=
  match touchLost d p.ctx bits with
  | (d, some die) => notify (finishPost d n 6 size) p.issue.launch p.issue.task causeDieLost (BitVec.ofNat 64 die)
  | (d, none) => k d

/-- Fire Kind 0 or 1: translate with the table then loaded, and send (R378). -/
def firePost (d : Dev) (n : Nat) (p : Posted) (fn : FabFn) (u : User) (r : Right) (size : Nat) (scope : Scope) : Dev :=
  let cw := p.desc.getD 7 0
  let va := p.desc.getD 4 0
  match xlate d (postLaunch d p) (stopeOf p.issue.core) u r va with
  | .trap c => finishPost d n (trapReply d (postLaunch d p) r c va).status size
  | .page _ => finishPost d n (statusWord 2 va) size
  | .place pl =>
    if va.toNat % size ≠ 0 then finishPost d n (statusWord 4 va) size
    else match postSource d p size with
      | .error e => finishPost d n (statusWord (statusOfCause e.1) e.2) size
      | .ok ls => withPostDies d n p size (diesOf (stopeOf p.issue.core) pl ||| diesAt (stopeOf p.issue.core) ls) fun d =>
        let m := newName d
        let dl := destOf d p.ctx pl
        let rec' : FabRec :=
          { issue := p.issue, part := p.part, ctx := p.ctx,
            op := ⟨fn, destAddr pl, size, BitVec.ofNat 1024 (postData d p size ls), 0, ctlTarget cw⟩,
            va := va, counterVa := 0, dest := dl.1, loc := dl.2, result := none, counter := none, scope := scope,
            order := if fn = .trig then .release else ctlOrder cw, seqNo := none, post := some n, holder := none,
            sets := [] }
        sendReady { m.2 with fabric := minsert m.2.fabric m.1 rec' }

/-- Fire Kind 2: the record is enqueued as LAUNCH does (R278). -/
def fireLaunch (d : Dev) (n : Nat) (p : Posted) : Dev :=
  let x := postLaunch d p
  match placeBytes d x (stopeOf p.issue.core) .fetch .read (p.desc.getD 4 0) 256 with
  | .error e => finishPost d n (statusWord (statusOfCause e.1) e.2) 1
  | .ok ls => withPostDies d n p 1 (diesAt (stopeOf p.issue.core) ls) fun d =>
    match enqueueLaunch d (BitVec.ofNat 4 p.part) p.ctx x.sender false (ls.map (readByte d.mem)) with
    | .ok (_, d) => finishPost d n 0 1
    | .error _ => finishPost d n (statusWord 3 (p.desc.getD 4 0)) 1

/-- Whether a posted operation's source, or the record that it enqueues, waits for a scoreboard (R297). -/
def postHeld (d : Dev) (p : Posted) : Bool :=
  let cw := p.desc.getD 7 0
  let x := postLaunch d p
  let kind := bitField (p.desc.getD 0 0).toNat 56 8
  match kind with
  | 0 | 1 => (match postSource d p (if kind = 1 then 8 else ctlSize cw) with
    | .ok ls => readHeld d ls
    | .error _ => false)
  | _ => (match placeBytes d x (stopeOf p.issue.core) .fetch .read (p.desc.getD 4 0) 256 with
    | .ok ls => readHeld d ls || enqueueHeld d (BitVec.ofNat 4 p.part) p.ctx x.sender (ls.map (readByte d.mem))
    | .error _ => false)

def postedFire (d : Dev) (n : Nat) : Dev :=
  match mfind d.posted n with
  | none => d
  | some p =>
    if !firesNext d n p || postHeld d p then d
    else
      let cw := p.desc.getD 7 0
      match bitField (p.desc.getD 0 0).toNat 56 8 with
      | 0 =>
        match postFn (bitField (p.desc.getD 0 0).toNat 48 8) with
        | some fn => firePost d n p fn .fabricReduce (if fn = .store then .write else .atomic) (ctlSize cw) (ctlScope cw)
        | none => d
      | 1 => firePost d n p .trig .trig .atomic 8 (ctlScope cw)
      | _ => fireLaunch d n p

/-! ## The switch barrier (R357, R375) -/

def groupKey (group gen : Nat) : Nat := 65536 * gen + group

/-- The oldest generation of a group, of the first launch, whose arrivals are complete and which waits for its
release. -/
def openGeneration (d : Dev) (group : Nat) : Option (Nat × Nat × Barrier) :=
  d.launches.findSome? fun e =>
    (e.2.gBarriers.find? fun b => b.1 % 65536 == group && b.2.size ≤ b.2.arrived.length && b.2.done.isEmpty).map
      fun b => (e.1, b.1, b.2)

/-- The release of a switch group reaches the package: the arrivers of the generation become ready; a status traps each
at its resumption. Where every task took part, the launch interval ends (R104). -/
def barrierRelease (d : Dev) (group status : Nat) : Dev :=
  match openGeneration d group with
  | none => d
  | some (l, key, b) =>
    match launchAt d l with
    | none => d
    | some x =>
      let whole := b.arrived.length == x.record.tasks && status == 0
      let d := modLaunch d l fun x =>
        { x with gBarriers := minsert x.gBarriers key { b with done := [0] },
                 interval := if whole then x.interval + 1 else x.interval }
      b.arrived.foldl (fun d i =>
        let d := modTask d l i fun t =>
          { t with opening := t.opening || whole,
                   notice := if status = 0 then t.notice
                     else t.notice ++ [⟨causeRemote, BitVec.ofNat 64 status⟩] }
        readyTask d l i) d

end Sys2Proof.Machine
end

