-- ==== Sys2Proof/Machine/Pages.lean ====
section
/-! DEFINITION. Pages of a context as they come and go: the waiting sets, refetch fills, stage-2 shoot-downs, scrubs and
the release of a context (spec/03_memory_translation.md R70 to R74, R82 to R84; spec/01_package.md R22). -/

namespace Sys2Proof.Machine

def pageNum (va : Dword) : Nat := va.toNat / 2 ^ 21

/-! ## The waiting set of a page (R54, R55, R84) -/

/-- The address by which a wait names a page. -/
def waitPage (w : WaitFor) : Option Dword :=
  match w with
  | .page va => some va
  | .nothing => none
  | .counter _ _ => none
  | .slot _ _ => none
  | .group _ _ => none

/-- Whether an address, where there is one, lies in a page. -/
def onPage (page : Nat) (va : Option Dword) : Bool :=
  match va with
  | some a => pageNum a == page
  | none => false

/-- The tasks of a context that wait on a page: launch, task, and the address touched. -/
def pageWaiters (d : Dev) (ctx page : Nat) : List (Nat × Nat × Dword) :=
  (d.launches.filter fun e => e.2.ctx == ctx && e.2.state != .complete).flatMap fun e =>
    (e.2.tasks.filter fun t => onPage page (waitPage t.2.wait)).map fun t =>
      (e.1, t.1, (waitPage t.2.wait).getD 0)

/-- The copies of a context that are paused on a page. -/
def pausedOn (d : Dev) (ctx page : Nat) : SMap CopyCmd :=
  d.copies.filter fun q => q.2.ctx == ctx && onPage page q.2.paused

/-- No launch has a page in its list of faulting pages any more. -/
def unlistPage (d : Dev) (ctx page : Nat) : Dev :=
  { d with launches := d.launches.map fun e =>
      (e.1, if e.2.ctx = ctx then { e.2 with pageQ := e.2.pageQ.filter fun q => q.1 != page } else e.2) }

/-- A page has become valid: the tasks that wait on it are ready, and the copies resume. DESIGN CHOICE (log 73). -/
def pageReady (d : Dev) (ctx page : Nat) : Dev :=
  let d := unlistPage (modPage d ctx page fun e => { e with state := 1 }) ctx page
  let d := (pageWaiters d ctx page).foldl (fun d w => readyTask d w.1 w.2.1) d
  { d with copies := d.copies.map fun q =>
      (q.1, if q.2.ctx = ctx ∧ onPage page q.2.paused then { q.2 with paused := none } else q.2) }

/-- Whether a copy stands in its launch's image, and not in an engine: its page is checked again at the restore (R330). -/
def savedAway (d : Dev) (n : Nat) (q : CopyCmd) : Bool :=
  (launchAt d q.issue.launch).any fun x => x.saved.any fun e => e.2.contains n

/-- A page fails for its waiters: each task traps at its faulting clause, and each copy of an engine stops, with a cause
and its information, the touched address where none is given. -/
def failWaiters (d : Dev) (ctx page cause : Nat) (info : Option Dword) : Dev :=
  let d := (pageWaiters d ctx page).foldl (fun d w =>
    readyTask (modTask d w.1 w.2.1 fun t => { t with notice := ⟨cause, info.getD w.2.2⟩ :: t.notice }) w.1 w.2.1)
    (unlistPage d ctx page)
  ((pausedOn d ctx page).filter fun q => !savedAway d q.1 q.2).foldl (fun d q => stopCopy d q.1 q.2 cause (info.getD (q.2.paused.getD 0))) d

/-- A page ends in TRANSLATION_ABSENT for its waiters. -/
def pageFailed (d : Dev) (ctx page : Nat) : Dev := failWaiters d ctx page causeAbsent none

/-! ## Refetch fills (R84) -/

/-- The place n bytes after a place. -/
def placePlus (p : Place) (n : Nat) : Place :=
  match p with
  | .vault s o => .vault s (o + n)
  | .hbm a => .hbm (a + n)
  | .remote k a => .remote k (a + n)
  | .reduction k a => .reduction k (a + n)
  | .host k a => .host k (a + n)
  | .agent k o => .agent k (o + n)
  | .sysreg o => .sysreg (o + n)

/-- Move n bytes of memory, as they stand, to a range that does not overlap them. -/
def moveRange (m : Memory) (src dst n : Nat) : Memory :=
  writeCells (scrub m dst n) ((m.filter fun c => src ≤ c.1 && c.1 < src + n).map fun c => (c.1 - src + dst, c.2))

/-- The memory after a 2 MiB fill from a place. -/
def fillFrom (d : Dev) (p : Place) (dst : Nat) : Memory :=
  match locOf p with
  | some l => moveRange d.mem l dst (2 ^ 21)
  | none => (List.range (2 ^ 21)).foldl (fun m i => writeByte m (dst + i) (copyRead d (placePlus p i))) d.mem

/-- The end of a refetch page's fill from its backing page, as a launch reaches it from a stope: the page is valid, or
its waiters fail, where a byte of the backing page fails a check or the fill touches a lost die (R84, R86).
DESIGN CHOICE (log 73). -/
def fillPage (d : Dev) (ctx page : Nat) (x : Launch) (stope : Nat) : Dev :=
  match pageOf d ctx page with
  | none => d
  | some e =>
    let va := BitVec.ofNat 64 (e.backing.toNat * 2 ^ 21)
    match e.phys, xlate d x stope .copy .read va, xlate d x stope .copy .read (va + BitVec.ofNat 64 (2 ^ 21 - 1)) with
    | some g, .place p, .place _ =>
      match touchLost d ctx (diesOf stope p ||| diesOf stope (.hbm (g * 2 ^ 21))) with
      | (d, some die) => failWaiters d ctx page causeDieLost (some (BitVec.ofNat 64 die))
      | (d, none) => settle (pageReady { (newName d).2 with mem := fillFrom d p (hbmLoc (g * 2 ^ 21)) } ctx page)
    | _, _, _ => pageFailed d ctx page

/-- Whether the read of a refetch page's backing page waits for a scoreboard (R297). -/
def fillHeld (d : Dev) (ctx page : Nat) (x : Launch) (stope : Nat) : Bool :=
  (pageOf d ctx page).any fun e => match xlate d x stope .copy .read (BitVec.ofNat 64 (e.backing.toNat * 2 ^ 21)) with
    | .place p => (locOf p).any fun l => rangeHeld d l (2 ^ 21)
    | .trap _ => false
    | .page _ => false

/-- The launch and the stope through which a page's fill reads: of the first task or copy that waits on it. -/
def fillUser (d : Dev) (ctx page : Nat) : Option (Launch × Nat) :=
  match pageWaiters d ctx page with
  | w :: _ =>
    (launchAt d w.1).map fun x => (x, match mfind x.tasks w.2.1 with
      | some t => stopeOf (coreOfGang x t.core.toNat)
      | none => firstStope d x)
  | [] => match pausedOn d ctx page with
    | q :: _ => (launchAt d q.2.issue.launch).map fun x => (x, q.2.stope)
    | [] => none

/-- The fill of a page ends, once no scoreboard holds what it reads: the page is valid, or its waiters fail. -/
def refetch (d : Dev) (ctx page : Nat) : Dev :=
  match pageOf d ctx page, fillUser d ctx page with
  | some e, some u =>
    if e.state ≠ 3 ∨ e.phys.isNone ∨ fillHeld d ctx page u.1 u.2 then d
    else fillPage d ctx page u.1 u.2
  | _, _ => d

def execRefetchFillComplete (ctx : Nat) (page : BitVec 27) (s : State) : Out :=
  .next (setDev s (refetch s.dev ctx page.toNat))

/-! ## Stage-2 shoot-downs (R71) -/

/-- The 2 MiB granule of an intermediate address. -/
def igran (a : Dword) : Nat := a.toNat / 2 ^ 21

/-- Whether a page entry is derived from a granule of a list: by its Output, or by the physical granule it has taken.
DESIGN CHOICE (log 73). -/
def pageFrom (gs ps : List Nat) (e : LttPage) : Bool :=
  e.target == 2 && ((e.state == 1 && e.phys.isNone && gs.contains (igran e.output)) ||
    (match e.phys with
     | some g => ps.contains g
     | none => false))

/-- Whether a whole region is derived from a granule of a list. -/
def regionFrom (gs : List Nat) (e : LttRegion) : Bool :=
  !e.paged && e.target == 2 && gs.any fun g => igran e.output ≤ g && g < igran e.output + 512

/-- A page entry that a shoot-down reaches: the Fallback state where it may be evicted and the shoot-down is one of R22
or R83, else invalid. -/
def shotPage (fallback : Bool) (e : LttPage) : LttPage :=
  if fallback && e.evictable then { e with state := if e.fallback then 3 else 2, phys := none }
  else { e with state := 0, phys := none }

/-- The pages of a context that a shoot-down reaches, and its whole regions. -/
def hitPages (gs ps : List Nat) (c : Context) : List Nat := (c.pages.filter fun e => pageFrom gs ps e.2).map (·.1)
def hitRegions (gs : List Nat) (c : Context) : List Nat := (c.regions.filter fun e => regionFrom gs e.2).map (·.1)

/-- A table that waits to be installed loses what a shoot-down reaches as well (R71). -/
def shootPending (gs : List Nat) (fallback : Bool) (l : PendingLoad) : PendingLoad :=
  { l with pages := l.pages.map fun e => (e.1, if pageFrom gs [] e.2 then shotPage fallback e.2 else e.2),
           regions := l.regions.filter fun e => !regionFrom gs e.2 }

/-- Shoot one context's entries down: what waits on a page that goes fails (R84). -/
def shootContext (d : Dev) (ctx : Nat) (gs ps : List Nat) (fallback : Bool) : Dev :=
  match ctxAt d ctx with
  | none => d
  | some c =>
    let pages := hitPages gs ps c
    let d := { d with ctxs := minsert d.ctxs ctx { c with
      pages := c.pages.map fun e => (e.1, if pages.contains e.1 then shotPage fallback e.2 else e.2),
      regions := c.regions.filter fun e => !(hitRegions gs c).contains e.1,
      pending := c.pending.map (shootPending gs fallback) } }
    pages.foldl (fun d n => pageFailed d ctx n) d

/-- Record an intermediate range in a partition's log of sixteen, under the next generation. -/
def noteShoot (d : Dev) (part first len : Nat) : Dev :=
  { d with parts := mmod d.parts part fun p =>
      let l := p.shootLog ++ [(first, len, (p.shootGen + 1).toNat)]
      { p with shootGen := p.shootGen + 1, shootLog := l.drop (l.length - 16) } }

/-- The contexts of a partition. -/
def contextsOf (d : Dev) (part : Nat) : List Nat := (d.ctxs.filter fun e => e.2.part.toNat == part).map (·.1)

/-- The intermediate granules that the touched pages of a partition name which hold physical granules of a list. -/
def touchedUnits (d : Dev) (part : Nat) (ps : List Nat) : List Nat :=
  (contextsOf d part).flatMap fun k => match ctxAt d k with
    | some c => (c.pages.filter fun e => pageFrom [] ps e.2).map fun e => igran e.2.output
    | none => []

/-- Shoot down intermediate granules of a partition, and physical granules that touched pages hold; their mappings go.
-/
def shootDown (d : Dev) (part : Nat) (gs ps : List Nat) (fallback : Bool) : Dev :=
  let d := (gs ++ touchedUnits d part ps).foldl (fun d g => noteShoot d part g 1) d
  let d := (contextsOf d part).foldl (fun d c => shootContext d c gs ps fallback) d
  { d with parts := mmod d.parts part fun p => { p with stage2 := p.stage2.filter fun e => !gs.contains e.1 } }

/-- The HBM channel of a physical granule, by 32 · stack + channel (R80). -/
def channelOf (g : Nat) : Nat := g / 1024

/-- The intermediate granules of a partition that map to channels, and the physical granules that its contexts' touched
pages hold there. -/
def granulesOn (p : Partition) (chans : List Nat) : List Nat :=
  (p.stage2.filter fun e => chans.contains (channelOf e.2)).map (·.1)

def touchedOn (d : Dev) (part : Nat) (chans : List Nat) : List Nat :=
  (contextsOf d part).flatMap fun k => match ctxAt d k with
    | some c => c.pages.filterMap fun e => e.2.phys.bind fun g => if chans.contains (channelOf g) then some g else none
    | none => []

/-- A partition keeps no granule of channels: free, reserved, or still to be free. -/
def dropGranules (d : Dev) (part : Nat) (chans : List Nat) : Dev :=
  { d with parts := mmod d.parts part fun p =>
      { p with free := p.free.filter fun g => !chans.contains (channelOf g),
               reserve := p.reserve.filter fun g => !chans.contains (channelOf g),
               leaving := p.leaving.filter fun g => !chans.contains (channelOf g.1) } }

/-- Shoot down all of a partition's granules of channels. -/
def shootChannels (d : Dev) (part : Nat) (chans : List Nat) (fallback : Bool) : Dev :=
  match partAt d part with
  | none => d
  | some p => dropGranules (shootDown d part (granulesOn p chans) (touchedOn d part chans) fallback) part chans

/-! ## Scrubs (R82) -/

/-- Scrub a physical granule: its bytes and its tags read zero. -/
def scrubRange (d : Dev) (loc n : Nat) : Dev :=
  { d with mem := scrub d.mem loc n, tags := d.tags.filter fun t => !(loc / 32 ≤ t.1 && t.1 < (loc + n) / 32) }

def scrubGranule (d : Dev) (g : Nat) : Dev := scrubRange d (hbmLoc (g * 2 ^ 21)) (2 ^ 21)

/-! ## Vault grants (R74) and the release of a context (R73, R82) -/

/-- The stopes of the partition, and the page of the vault, that a page entry grants. -/
def grantOf (p : Partition) (e : LttPage) : List (Nat × Nat) :=
  if e.state = 0 then []
  else if e.target = 0 then p.stopes.map fun s => (s, igran e.output)
  else if e.target = 1 then
    if e.info.getLsbD 6 then p.stopes.map fun s => (s, igran e.output)
    else if p.stopes.contains (e.info.toNat % 64) then [(e.info.toNat % 64, igran e.output)]
    else []
  else []

/-- The grants of a table of pages. -/
def grantsOf (p : Partition) (pages : SMap LttPage) : List (Nat × Nat) := (pages.flatMap fun e => grantOf p e.2).eraseDups

def scrubVaultPage (d : Dev) (g : Nat × Nat) : Dev := scrubRange d (vaultLoc g.1 (g.2 * 2 ^ 21)) (2 ^ 21)

/-- Scrub the banks whose last owner was of a context, and which no task of another owns. -/
def scrubBanks (d : Dev) (ctx : Nat) : Dev :=
  { d with stopes := d.stopes.map fun e =>
      (e.1, { e.2 with banks := e.2.banks.map fun b => (b.1, if b.2.last = some ctx then bankReset else b.2) }) }

/-- The intermediate granules that a context's entries use. DESIGN CHOICE (log 25). -/
def usedGranules (c : Context) : List Nat :=
  ((c.pages.filter fun e => e.2.target == 2 && e.2.state == 1 && e.2.phys.isNone).map fun e => igran e.2.output) ++
    (c.regions.filter fun e => !e.2.paged && e.2.target == 2).flatMap fun e =>
      (List.range 512).map (igran e.2.output + ·)

/-- Free what a context holds of HBM: the granules its touched pages have taken, and those mapped for it alone.
DESIGN CHOICE (log 25). -/
def freePages (d : Dev) (ctx : Nat) (c : Context) : Dev :=
  let part := c.part.toNat
  let others := ((contextsOf d part).filter (· != ctx)).flatMap fun k => match ctxAt d k with
    | some o => usedGranules o
    | none => []
  let mine := (usedGranules c).filter fun g => !others.contains g
  { d with parts := mmod d.parts part fun p =>
      let back := (p.stage2.filter fun e => mine.contains e.1).map (·.2)
      { p with stage2 := p.stage2.filter fun e => !mine.contains e.1,
               free := p.free ++ back ++ c.pages.filterMap fun e => e.2.phys } }

/-- The dispensers of a partition are reset (R355). -/
def resetDispensers (d : Dev) (part : Nat) : Dev :=
  { d with agents := d.agents.map fun e => (e.1, if e.1 / 8 = part then { e.2 with dispensers := [] } else e.2) }

/-- End a context whose launches are complete. DESIGN CHOICE (log 57). -/
def endContext (d : Dev) (ctx : Nat) : Dev :=
  match ctxAt d ctx with
  | none => d
  | some c =>
    let d := match partAt d c.part.toNat with
      | some p => (grantsOf p c.pages).foldl scrubVaultPage d
      | none => d
    let d := freePages (resetDispensers (scrubBanks d ctx) c.part.toNat) ctx c
    { d with ctxs := merase d.ctxs ctx,
             launches := d.launches.filter fun e => e.2.ctx != ctx,
             posted := d.posted.filter fun e => e.2.ctx != ctx,
             arms := d.arms.filter fun e => e.2.ctx != ctx,
             tickets := d.tickets.filter fun t => t.counter.ctx != ctx,
             conns := d.conns.filter fun e => !(e.2.ident == c.ident && (e.2.part == c.part.toNat || e.2.part == noPart)) }

end Sys2Proof.Machine
end

