-- ==== Sys2Proof/Machine/Replies.lean ====
section
/-! DEFINITION. The request header, its authentication, and replies (spec/01_package.md R25, R26, R30). -/

namespace Sys2Proof.Machine

/-- The operator's endpoint (R30). -/
def operatorEnd : Nat := 96

/-- The endpoint that a header names: 8 · partition + function, or the operator's. -/
def endpointOf (r : Request) : Option Nat :=
  if r.partition = 0xFF then (if r.function = 0 then some operatorEnd else none)
  else if r.partition.toNat < 12 ∧ r.function.toNat < 8 then some (8 * r.partition.toNat + r.function.toNat)
  else none

def endpointAt (d : Dev) (n : Nat) : Option Endpoint := mfind d.foreman.endpoints n

/-- The 32 bytes of a header (R25). -/
def headerBytes (auth context : Dword) (length seq : Nat) (status function partition type version reserved : Nat) :
    List Byte :=
  natBytes 1 version ++ natBytes 1 reserved ++ natBytes 2 type ++ natBytes 1 partition ++ natBytes 1 function ++
  natBytes 2 status ++ natBytes 4 seq ++ natBytes 4 length ++ natBytes 8 context.toNat ++ natBytes 8 auth.toNat

/-- A request's header, with an Auth field of a given value. -/
def requestHeader (r : Request) (auth : Dword) : List Byte :=
  headerBytes auth r.context r.length.toNat r.seq.toNat r.status.toNat r.function.toNat r.partition.toNat r.type.toNat
    r.version.toNat r.reserved.toNat

/-- The session key that a request's endpoint holds. -/
def sessionKey (d : Dev) (r : Request) : Option (List Byte) :=
  match endpointOf r with
  | some n => (endpointAt d n).bind (·.key)
  | none => none

/-- Whether a request's Auth holds: its digest under the session key, with the Auth field as zero, from the address
bound at the session's opening (R25). -/
def authHolds (d : Dev) (r : Request) : Bool :=
  match endpointOf r with
  | none => false
  | some n => match endpointAt d n with
    | none => false
    | some e => match e.key with
      | none => false
      | some k => e.address == r.source && Config.keyedDigest k (requestHeader r 0 ++ r.body) == r.auth

/-- The Auth of a reply: zero where no session key is held. DEDUCED (log 20). -/
def replyAuth (key : Option (List Byte)) (r : Request) (status : Nat) (body : List Byte) : Dword :=
  match key with
  | none => 0
  | some k => Config.keyedDigest k
      (headerBytes 0 r.context body.length r.seq.toNat status r.function.toNat r.partition.toNat r.type.toNat 1 0 ++ body)

/-- Whether a sequence number comes before another, within 2^31. -/
def earlierSeq (a b : Word) : Bool := a != b && (b - a).toNat < 2 ^ 31

/-- The requests that are still to be answered. -/
def outstanding (d : Dev) : List Request :=
  d.foreman.waiting.map (·.req) ++ (d.launches.flatMap fun e => e.2.waiters) ++
      d.ctxs.filterMap fun e => e.2.pending.map (·.req)

/-- Whether a reply of an endpoint must let an earlier one of the endpoint leave first, under reliable ordered delivery
(R26). -/
def replyWaits (d : Dev) (partition function : Byte) (seq : Word) : Bool :=
  (outstanding d).any (fun q => q.ordered && q.partition == partition && q.function == function && earlierSeq q.seq seq) ||
    d.foreman.held.any fun q => q.partition == partition && q.function == function && earlierSeq q.seq seq

/-- The replies that waited leave, where nothing earlier is left (R26). -/
def releaseHeld (d : Dev) : Dev :=
  d.foreman.held.foldl (fun d x =>
    if replyWaits d x.partition x.function x.seq then d
    else { d with foreman := { d.foreman with replies := d.foreman.replies ++ [x], held := d.foreman.held.erase x } }) d

/-- A reply leaves, under a key, or waits for those before it. -/
def replyKeyed (d : Dev) (key : Option (List Byte)) (r : Request) (status : Nat) (body : List Byte) : Dev :=
  let x : Reply :=
    { auth := replyAuth key r status body, context := r.context, seq := r.seq, status := BitVec.ofNat 16 status,
      function := r.function, partition := r.partition, type := r.type, body := body }
  if r.ordered && replyWaits d r.partition r.function r.seq then
    { d with foreman := { d.foreman with held := d.foreman.held ++ [x] } }
  else { d with foreman := { d.foreman with replies := d.foreman.replies ++ [x] } }

/-- A reply leaves, under its endpoint's session key. -/
def replyTo (d : Dev) (r : Request) (status : Nat) (body : List Byte) : Dev :=
  replyKeyed d (sessionKey d r) r status body

/-- A request's reply waits. DEDUCED (log 28). -/
def await (d : Dev) (r : Request) : Dev :=
  { d with foreman := { d.foreman with waiting := d.foreman.waiting ++ [⟨r, d.issues⟩] } }

/-- A request is dropped for its Auth, and counted (R25). -/
def dropRequest (d : Dev) : Dev := { d with foreman := { d.foreman with authDrops := d.foreman.authDrops + 1 } }

end Sys2Proof.Machine
end

