-- ==== Sys2Proof/Machine/Snapshots.lean ====
section
/-! DEFINITION. Forced pre-emption of a task, and its resumption from its snapshot (spec/02_execution.md R56, R57;
spec/10_core_state.md R209 to R215; spec/16_array_machine.md R290). -/

namespace Sys2Proof.Machine

/-! ## The record -/

/-- Write fields of a task's continuation record, where it can be reached: State, Cause, Epoch, Core and SnapPtr; the
task traps where the die is lost that holds it (R86). -/
def writeRecord (d : Dev) (l i : Nat) : Dev :=
  match launchAt d l with
  | none => d
  | some x =>
    match mfind x.tasks i, recordAt d x i .write with
    | some t, .ok loc =>
      match touchLost d x.ctx (diesAt (firstStope d x) [loc]) with
      | (d, some die) => notify d l i causeDieLost (BitVec.ofNat 64 die)
      | (d, none) =>
        let fields := natBytes 6
          (stateCode t.state + t.cause.toNat * 2 ^ 8 + t.place.toNat * 2 ^ 16 + t.core.toNat * 2 ^ 32)
        lateWrite d x.ctx (cellsAt ((List.range 6).map (loc + 32 + ·)) fields ++
          cellsAt ((List.range 8).map (loc + 56 + ·)) (natBytes 8 t.snapPtr.toNat))
    | _, _ => d

/-! ## Taking a snapshot (R213) -/

/-- The latched values of a snapshot: the core's own state at the clause boundary. -/
def snapLatch (now : Nat) (c : Core) : Latch :=
  { latchOf c c.pc with
    lease := c.lease || c.leaseBack,
    leaseRem := if c.lease then c.leaseRem else if c.leaseBack then c.leaseNext else 0,
    inHandler := c.inHandler,
    freezeNs := match c.stall with
      | some x => if x.kind = .freeze then BitVec.ofNat 32 (now - x.since) else 0
      | none => 0 }

/-- The banks of a stope that a task owns, but those that it has given up, its commands being done (R289); and those
that wait to be restored for it. -/
def ownedBanks (x : Stope) (l i : Nat) : SMap Bank :=
  x.restores.foldl (fun m r => if r.launch = l ∧ r.task = i then minsert m r.bank r.saved else m)
    (x.banks.filter fun b => b.2.owner == some (l, i) && b.2.released.isNone)

/-- A task's banks become unowned, and no restore waits for it. -/
def disownBanks (x : Stope) (l i : Nat) : Stope :=
  { x with banks := x.banks.map fun b =>
             (b.1, if b.2.owner = some (l, i) then { b.2 with owner := none, released := none } else b.2),
           restores := x.restores.filter fun r => !(r.launch == l && r.task == i) }

/-- A core that has lost its task. DESIGN CHOICE (log 13). -/
def freeCore (d : Dev) (k : Nat) : Dev :=
  modCore (dropLease d k) k (freed d.now)

/-- Snapshot the task of core k, which is free thereafter. DESIGN CHOICE (log 52). -/
def takeSnapshot (d : Dev) (k : Nat) (r : Running) : Dev :=
  match launchAt d r.launch with
  | none => d
  | some x =>
    let c := coreAt d k
    let sn : Snap := ⟨{ dropLatched c with flights := [] }, snapLatch d.now c,
      ownedBanks (stopeAt d (stopeOf k)) r.launch r.task, plevelSeen d k c, false⟩
    let a := snapAddr d x r.task
    let w := writeImages d x r.task sn true
    let d := modTask w.2 r.launch r.task fun t =>
      { t with state := .snapshot, cause := 6, place := t.place + 1, core := BitVec.ofNat 16 (gangCore x k),
               snap := some { sn with stored := w.1 }, snapPtr := a, notice := t.notice ++ c.notice, risk := c.risk,
               opening := false, gained := [] }
    let d := modStope d (stopeOf k) fun s => disownBanks s r.launch r.task
    let d := freeCore d k
    writeRecord d r.launch r.task

/-- Whether loads of a core are still to come; those latched at a trap entry are among them. DEDUCED (log 51). -/
def loadsLeft (c : Core) : Bool :=
  (c.flights.any fun f => isLoad f.src && !f.arrived) ||
    (match c.latch with
     | some l => c.inHandler && l.landing.any fun e => e.valid && isLoad e.src && !e.arrived
     | none => false)

/-- Whether matrix commands of a task are at a stope's array. DEDUCED (log 51). -/
def arrayBusy (d : Dev) (stope l i : Nat) : Bool :=
  (stopeAt d stope).arrayQ.any fun q => q.issue.launch == l && q.issue.task == i

/-- A core at its next clause boundary: a cycle after a transfer that has yet to pass does so (R195, R213). -/
def atBoundary (c : Core) : Core :=
  if c.bubble then tickFlights { writeDue c with bubble := false } else c

/-- Carry out a forced pre-emption that is due, where it can be, after a replay of the clause (R57): check windows
close, and every load, every result and acknowledgement of an atomic and every matrix command is awaited.
DEDUCED (log 51). -/
def tryPreempt (d : Dev) (k : Nat) : Dev :=
  let c := coreAt d k
  match c.run with
  | none => modCore d k fun c => { c with preempt := none }
  | some r =>
    if c.leaving || !preemptDue d.now c || clauseReplays d k || c.pend.isSome then d
    else
      let d := takeAcks (closeAll d k (7 * d.issues + 8) c.window.length) k
      let c := coreAt d k
      if storesLeft c || loadsLeft c || arrayBusy d (stopeOf k) r.launch r.task then d
      else takeSnapshot (modCore d k fun c => atBoundary (unwrite c)) k r

/-- A forced pre-emption reaches core k: a lease defers it for at most 10 µs. DESIGN CHOICE (log 13). -/
def preemptCore (d : Dev) (k : Nat) : Dev :=
  tryPreempt (modCore d k fun c =>
    { c with preempt := match c.preempt with
        | some t => some t
        | none => some (if c.lease then d.now + 10000 else d.now) }) k

/-! ## Resuming from a snapshot (R213, R215) -/

/-- The core that a snapshot restores, as of a device time. -/
def restoreSnap (now : Nat) (old : Core) (run : Running) (t : Task) (sn : Snap) : Core :=
  let l := sn.latch
  let c := { sn.core with
    run := some run, leaving := false, window := [], acks := [], flights := [], preempt := none,
    takenUntil := old.takenUntil, takeFor := 0, lastTime := old.lastTime, fabricQ := old.fabricQ, notice := t.notice,
    risk := t.risk, riskPend := t.riskPend, glink := l.glink, epoch := l.epoch, acq := logOf l,
    inHandler := l.inHandler, lease := false, leaseRem := 0, leaseReq := l.lease, leaseBack := l.lease,
    leaseNext := if l.lease then l.leaseRem else 64, leaseOk := false, swpt := none,
    latch := if l.inHandler then sn.core.latch else none,
    stall := match sn.core.stall with
      | some x => if x.kind = .freeze then some { x with since := now - l.freezeNs.toNat } else none
      | none => none }
  tickFlights (restoreLatch c l)

/-- Resume a task on core k from its snapshot: it waits for the fabric operations that it waited for and that are not
complete (R366), and its banks are restored where they are unowned, or wait.
DEDUCED (log 36). DESIGN CHOICE (log 52). -/
def resumeSnap (d : Dev) (k l i : Nat) (x : Launch) (t : Task) (sn : Snap) : Dev :=
  let st := stopeOf k
  let sn := { snapNow d x t sn with banks := banksNow d x t sn }
  let c := restoreSnap d.now (coreAt d k) ⟨l, i⟩ t sn
  let d := putCore d k { c with opGate := c.opGate.filter fun n => (mfind d.fabric n).isSome }
  let d := if sn.latch.lease then modStope d st fun x => { x with leaseQ := x.leaseQ ++ [k % 4] } else d
  let d := modStope d st fun x => { x with restores := x.restores ++ sn.banks.map fun b => ⟨b.1, l, i, b.2⟩ }
  sn.banks.foldl (fun d b => restoreBank d st b.1) d

end Sys2Proof.Machine
end

