-- ==== Sys2Proof/Machine/Launches.lean ====
section
/-! DEFINITION. How launches end and how their steps close and open (spec/02_execution.md R40, R41, R52 to R58;
spec/10_core_state.md R214; spec/19_copy_engine.md R329, R331). -/

namespace Sys2Proof.Machine

/-! ## What a launch has under way -/

/-- The cores that run tasks of a launch. -/
def coresOf (d : Dev) (l : Nat) : List Nat :=
  (d.cores.filter fun e => match e.2.run with
    | some r => r.launch == l
    | none => false).map (·.1)

/-- Whether copies of a launch are not complete; those of a pre-empted launch stand in its images. -/
def copiesLeft (d : Dev) (l : Nat) : Bool := d.copies.any fun q => q.2.issue.launch == l

def fabricLeft (d : Dev) (l : Nat) : Bool := d.fabric.any fun e => e.2.issue.launch == l && e.2.post.isNone

def arrayLeft (d : Dev) (l : Nat) : Bool := d.stopes.any fun e => e.2.arrayQ.any fun q => q.issue.launch == l

/-- Whether anything that a launch has issued is still under way. -/
def launchBusy (d : Dev) (l : Nat) : Bool :=
  !(coresOf d l).isEmpty || copiesLeft d l || fabricLeft d l || arrayLeft d l

/-- The regeneration launches of a launch that are not complete. DESIGN CHOICE (log 50). -/
def childrenOf (d : Dev) (l : Nat) : List Nat :=
  (d.launches.filter fun e => e.2.parent == some l && e.2.state != .complete).map (·.1)

/-! ## Completion (R40) -/

/-- The 32 bytes of a completion record. -/
def completionBytes (o : Completion) : List Byte :=
  natBytes 4 o.status ++ natBytes 4 o.steps ++ natBytes 8 o.time.toNat ++ natBytes 4 (o.task.getD 0xFFFFFFFF) ++
  natBytes 2 o.cause ++ natBytes 2 o.exit.toNat ++ natBytes 8 0

/-- The cells of a completion record, where it can be written; a write that cannot be made is logged (R41, R86). -/
def completionCells (d : Dev) (x : Launch) (bs : List Byte) : Dev × List Host.Cell :=
  let va : Dword := x.record.complRec.setWidth 64
  if va = 0 then (d, [])
  else match placeBytes d x (firstStope d x) .fetch .write va bs.length with
    | .error e => (skippedWrite d x va e.1, [])
    | .ok ls => match touchLost d x.ctx (diesAt (firstStope d x) ls) with
      | (d, some _) => (skippedWrite d x va causeDieLost, [])
      | (d, none) => (d, cellsAt ls bs)

/-- The completion counter of a launch, where it can be raised; the raise touches the die that holds it (R86). -/
def completionCounter (d : Dev) (x : Launch) : Dev × Option Nat :=
  let va : Dword := x.record.complCtr.setWidth 64
  if va = 0 then (d, none)
  else match xlate d x (firstStope d x) .coreAtomic .atomic va with
    | .place p => match locOf p with
      | some loc => match touchLost d x.ctx (diesOf (firstStope d x) p) with
        | (d, some _) => (skippedWrite d x va causeDieLost, none)
        | (d, none) => (d, some loc)
      | none => (skippedWrite d x va causeAccess, none)
    | .trap c => (skippedWrite d x va c, none)
    | .page _ => (skippedWrite d x va causeAbsent, none)

/-- A regeneration launch ends: its page becomes valid, or its waiters fail (R54, R55). DESIGN CHOICE (log 50). -/
def regenEnded (d : Dev) (x : Launch) (ok : Bool) : Dev :=
  if x.parent.isNone then d else if ok then pageReady d x.ctx x.page else pageFailed d x.ctx x.page

/-- Whether writes of a context up to a place in issue order wait for the scoreboards. DEDUCED (log 28). -/
def writesLeft (d : Dev) (ctx mark : Nat) : Bool := d.late.any fun o => o.ctx == ctx && o.place ≤ mark

/-- The reply to a cancel leaves once the completion is written (R41). DEDUCED (log 28). -/
def answerWritten (d : Dev) (ctx : Nat) (r : Request) : Dev :=
  if writesLeft d ctx d.issues then await d r else replyTo d r statusOk []

/-- Complete a launch: the record, then the counter; then the replies that waited for it. None of its tasks waits for
anything any more. DESIGN CHOICE (log 50, 57). -/
def completeLaunch (d : Dev) (l status steps : Nat) (task : Option Nat) (cause : Nat) (exit : BitVec 16) : Dev :=
  match launchAt d l with
  | none => d
  | some x =>
    let o : Completion := ⟨status, steps, BitVec.ofNat 64 d.now, task, cause, exit⟩
    let r := completionCells d x (completionBytes o)
    let d := modLaunch r.1 l fun x =>
      { x with state := .complete, outcome := some o, waiters := [], saved := [], imaged := [], pageQ := [], barriers := [],
               gBarriers := [], tasks := x.tasks.map fun t => (t.1, { t.2 with wait := .nothing }) }
    let d := { d with stopes := d.stopes.map fun e =>
      (e.1, { e.2 with restores := e.2.restores.filter fun r => r.launch != l }) }
    let c := completionCounter d x
    let d := late c.1 ⟨r.2, c.2.map fun loc => (loc, 1, none), .keep, none, x.ctx, d.issues⟩
    let d := regenEnded d x (status == statusOk)
    x.waiters.foldl (fun d r => answerWritten d x.ctx r) d

/-! ## Stopping (R41, R57, R58, R214, R331) -/

/-- Paused copies of a launch are abandoned, those that wait to be restored among them: what they have written stands,
and nothing else comes of them. -/
def abandonPaused (d : Dev) (l : Nat) : Dev :=
  let d := abandonSaved d l
  (d.copies.filter fun q => q.2.issue.launch == l && q.2.paused.isSome).foldl
    (fun d q => entryDone (dropCopy d q.1 q.2) q.2) d

/-- Copies of a pre-empted launch go with its images. -/
def dropSaved (d : Dev) (l : Nat) : Dev :=
  (d.copies.filter fun q => q.2.issue.launch == l).foldl (fun d q => dropCopy d q.1 q.2) d

/-- Unfired posted operations of a launch are removed (R361, R379). -/
def removePosted (d : Dev) (l : Nat) : Dev :=
  { d with posted := d.posted.filter fun e => !(e.2.issue.launch == l && e.2.due.isNone) }

/-- Whether the lost die holds a core: the control die of its half. -/
def coreLost (d : Dev) (k : Nat) : Bool := dieBit (4 * halfOf (stopeOf k)) &&& d.lost != 0

/-- Where the task that stopped a launch stands: its core's number, its core and the latched values. -/
def stoppedCore (d : Dev) (l i : Nat) (st : Stop) : Option (Nat × Core × Latch) :=
  let here := d.cores.find? fun e => e.2.run == some ⟨l, i⟩
  let k := match here with
    | some e => e.1
    | none => match launchAt d l with
      | some x => (match mfind x.tasks i with
        | some t => coreOfGang x t.core.toNat
        | none => 0)
      | none => 0
  match st.core with
  | some c => some (k, c, st.latch.getD (latchOf c c.pc))
  | none => match here with
    | some e => some (k, dropLatched e.2, latchOf e.2 e.2.pc)
    | none => (launchAt d l).bind fun x => (mfind x.tasks i).bind fun t => t.snap.map fun sn => (k, sn.core, sn.latch)

/-- The task that stopped a launch is faulted, and its snapshot is written (R214). -/
def saveFault (d : Dev) (l i : Nat) (st : Stop) : Dev :=
  match launchAt d l with
  | none => d
  | some x =>
    match mfind x.tasks i with
    | none => d
    | some t =>
      if t.state = .faulted then d
      else
        let sn : Option (Nat × Snap) := match stoppedCore d l i st with
          | some (k, c, la) =>
            if coreLost d k then none
            else some (k, ⟨c, { la with inHandler := false, lease := false, leaseRem := 0 }, [], plevelSeen d k c, false⟩)
          | none => none
        let a := match sn with
          | some _ => snapAddr d x i
          | none => 0
        let w := match sn with
          | some (_, s) => writeImages d x i s false
          | none => (false, d)
        let d := modTask w.2 l i fun t =>
          { t with state := .faulted, cause := 5, snap := sn.map fun e => { e.2 with stored := w.1 }, snapPtr := a,
                   wait := .nothing }
        writeRecord d l i

/-- A core of a stopped launch: its windows close, and it is free once they have. DEDUCED (log 58). -/
def stopCore (d : Dev) (k : Nat) : Dev :=
  let d := closeAll d k (7 * d.issues + 8) (coreAt d k).window.length
  if (coreAt d k).run.isSome && (coreAt d k).window.isEmpty then freeCore d k else d

/-- Carry a launch's stop on: copies in flight, fabric operations and matrix commands complete first (R41, R58). -/
def endStopped (d : Dev) (l : Nat) : Dev :=
  match launchAt d l with
  | none => d
  | some x =>
    match x.stop with
    | none => d
    | some st =>
      if x.state = .complete then d
      else
        let d := match st.task with
          | some i => if st.status = statusFaulted then saveFault d l i st else d
          | none => d
        let d := (coresOf d l).foldl stopCore (abandonPaused d l)
        if launchBusy d l then d
        else completeLaunch d l st.status x.step st.task (if st.status = statusFaulted then st.cause else 0) st.exit

/-- Carry a launch's stop on, after those of its regeneration launches, which are cancelled. DEDUCED (log 58). -/
def settleStop (d : Dev) (l : Nat) : Dev :=
  match (launchAt d l).bind (·.stop) with
  | none => d
  | some _ =>
    let cs := childrenOf d l
    let d := cs.foldl (fun d c => endStopped (stopLaunch d c ⟨none, 0, 0, none, none, statusCancelled⟩) c) d
    if (childrenOf d l).isEmpty then endStopped d l else d

/-- DEDUCED (log 58). -/
def execLaunchFault (launch : Nat) (s : State) : Out := .next (setDev s (settleStop s.dev launch))

/-! ## Cancels (R41, R53) -/

/-- Cancel a launch: whether the reply waits for the completion, and the device. -/
def cancelLaunch (d : Dev) (l : Nat) (force : Bool) : Dev :=
  let d := removePosted d l
  match launchAt d l with
  | none => d
  | some x =>
    match x.state with
    | .queued => completeLaunch d l statusCancelled 0 none 0 0
    | .preempted =>
      let cs := childrenOf d l
      let d := cs.foldl (fun d c => completeLaunch (dropSaved d c) c statusCancelled
        (match launchAt d c with
         | some y => y.step
         | none => 0) none 0 0) d
      let d := modLaunch (dropSaved d l) l fun x => { x with tasks := x.tasks.map fun t => (t.1, { t.2 with snap := none }) }
      completeLaunch d l statusCancelled x.step none 0 0
    | .running | .preempting =>
      if force then settleStop (stopLaunch d l ⟨none, 0, 0, none, none, statusCancelled⟩) l
      else modLaunch (abandonPaused d l) l fun x => { x with cancel := true }
    | .complete => d

/-- Cancel with Force every launch of a context that is not complete. -/
def cancelContext (d : Dev) (ctx : Nat) : Dev :=
  (d.launches.filter fun e => e.2.ctx == ctx && e.2.state != .complete && e.2.parent.isNone).foldl
    (fun d e => cancelLaunch d e.1 true) d

/-- Whether every launch of a context is complete, and every operation that has fired for it, and no write waits. -/
def contextIdle (d : Dev) (ctx : Nat) : Bool :=
  (d.launches.all fun e => e.2.ctx != ctx || e.2.state == .complete) && (d.fabric.all fun e => e.2.ctx != ctx) &&
    d.late.isEmpty

/-! ## Steps (R39, R52, R53, R72, R146) -/

/-- The deadline and the work of a step, from the deadline table; those of a regeneration launch are its parent's
(R54, R143). An error is the cause of a failed read. -/
def stepEntry (d : Dev) (x : Launch) (s : Nat) : Except Nat (Option Nat × Nat × Nat) :=
  match x.parent.bind (launchAt d) with
  | some p => .ok (p.deadline, p.work, p.spent)
  | none =>
    if x.record.deadlines = 0 then .ok (none, 0, 0)
    else match placeBytes d x (firstStope d x) .fetch .read (x.record.deadlines.setWidth 64 + BitVec.ofNat 64 (8 * s)) 8 with
      | .error e => .error e.1
      | .ok ls =>
        let bs := ls.map (readByte d.mem)
        let off := bitsOf bs 63 24
        .ok (if off = 0 then none else some (x.enqueued + off), 1024 * bitsOf bs 23 0, 0)

/-- The dies that hold the deadline entry of a step, where it is read (R86). -/
def entryDies (d : Dev) (x : Launch) (s : Nat) : Byte :=
  if x.parent.isSome || x.record.deadlines == 0 then 0
  else dispatchDies d x .read (x.record.deadlines.setWidth 64 + BitVec.ofNat 64 (8 * s)) 8

/-- Whether the read of a step's deadline entry waits for a scoreboard (R297). -/
def entryHeld (d : Dev) (x : Launch) (s : Nat) : Bool :=
  x.parent.isNone && x.record.deadlines != 0 && s < x.record.steps &&
    (match placeBytes d x (firstStope d x) .fetch .read (x.record.deadlines.setWidth 64 + BitVec.ofNat 64 (8 * s)) 8 with
     | .ok ls => readHeld d ls
     | .error _ => false)

/-- A task as a step opens for it. -/
def taskOpens (first : Bool) (t : Task) : Task :=
  { t with opening := t.opening || first || t.state == .stepEnd, gained := [], riskPend := false, risk := none }

/-- Step s of a launch opens: its tasks at a step's end become ready, and deadline entry s takes effect. -/
def openStep (d : Dev) (l s : Nat) : Dev :=
  match launchAt d l with
  | none => d
  | some x =>
    match touchLost d x.ctx (entryDies d x s), stepEntry d x s with
    | (d, some _), _ => stopLaunch d l ⟨none, causeDieLost, 0, none, none, statusFaulted⟩
    | (d, none), .error c => stopLaunch d l ⟨none, c, 0, none, none, statusFaulted⟩
    | (d, none), .ok (dl, work, spent) =>
      let d := x.gang.foldl (fun d g => modStope d g fun q => { q with stage := 0 }) d
      let d := modLaunch d l fun x =>
        { x with step := s, phase := .open, interval := 0, deadline := dl, work := work, spent := spent,
                 declared := false, declBy := none, risked := false, entries := [],
                 tasks := x.tasks.map fun t => (t.1, taskOpens (s == 0) t.2) }
      x.tasks.foldl (fun d t => if t.2.state = .stepEnd then setState d l t.1 .ready else d) d

/-- Whether a launch runs and nothing stops it. DESIGN CHOICE (log 56). -/
def goes (x : Launch) : Bool := x.state == .running && x.stop.isNone

/-- Whether every task of a launch has reached ENDSTEP or EXIT. -/
def stepOver (x : Launch) : Bool := x.tasks.all fun t => t.2.state == .stepEnd || t.2.state == .exited

/-- STEP_CLOSE: the gang barrier closes once every task has ended the step and everything issued in it is complete; the
replay of the static copies opens. -/
def closeStep (d : Dev) (l : Nat) : Dev :=
  match launchAt d l with
  | none => d
  | some x =>
    if goes x && x.phase == .open && stepOver x && !launchBusy d l && (stagedEntry d x).isNone then
      modLaunch d l fun x => { x with phase := .replay, replayAt := d.now }
    else d

/-- Whether a table of the context waits to be installed (R72). -/
def loadWaits (d : Dev) (ctx : Nat) : Bool :=
  match ctxAt d ctx with
  | some c => c.pending.isSome
  | none => false

/-- Item 4 of R52: the launch completes, or its next step opens. -/
def finishStep (d : Dev) (l : Nat) (x : Launch) : Dev :=
  if x.cancel then completeLaunch d l statusCancelled (x.step + 1) none 0 0
  else if x.step + 1 = x.record.steps || x.tasks.all (fun t => t.2.state == .exited) then
    completeLaunch d l statusOk (x.step + 1) none 0 0
  else openStep d l (x.step + 1)

/-- STEP_OPEN: the replay is complete; a load of the context's table holds the launch, else item 4 follows. -/
def stepOpens (d : Dev) (l : Nat) : Dev :=
  match launchAt d l with
  | none => d
  | some x =>
    if !goes x then d
    else match x.phase with
      | .replay =>
        if copiesLeft d l || schedHeld d x || entryHeld d x (x.step + 1) then d
        else match replayNext d x with
          | .error c => schedFault (touchSched d x) l c
          | .ok (some _) => d
          | .ok none =>
            if loadWaits d x.ctx then modLaunch d l fun x => { x with phase := .held } else finishStep d l x
      | .held => if loadWaits d x.ctx || entryHeld d x (x.step + 1) then d else finishStep d l x
      | .starting => if loadWaits d x.ctx || entryHeld d x 0 then d else openStep d l 0
      | .open => d

def execStepClose (launch : Nat) (s : State) : Out := .next (setDev s (closeStep s.dev launch))
def execStepOpen (launch : Nat) (s : State) : Out := .next (setDev s (stepOpens s.dev launch))

end Sys2Proof.Machine
end

