-- ==== Sys2Proof/Machine/Dispatcher.lean ====
section
/-! DEFINITION. The dispatcher: admission, gang reservation, back-off and drain, pre-emption, placement and resumption,
regeneration launches (spec/02_execution.md R42 to R57; spec/04_consistency.md R103, R104). -/

namespace Sys2Proof.Machine

/-- Bits [31:0] of a draw, with counter words a, b, c, e from high to low. -/
def draw (seed : Dword) (a b c e : Nat) : Nat :=
  (cbg seed (BitVec.ofNat 32 a) (BitVec.ofNat 32 b) (BitVec.ofNat 32 c) (BitVec.ofNat 32 e)).x0.toNat

/-! ## The head of a queue (R42, R46) -/

/-- A launch's absolute first-step deadline, where it has one. -/
def firstDeadline (x : Launch) : Option Nat := if x.dl0 = 0 then none else some (x.enqueued + x.dl0)

/-- Whether a queued launch stands ahead of another: a returned one ahead of records, the latest return first; then by
deadline; then in enqueue order. -/
def aheadOf (x y : Nat × Launch) : Bool :=
  if x.2.returned ≠ y.2.returned then y.2.returned < x.2.returned
  else match firstDeadline x.2, firstDeadline y.2 with
    | some a, some b => a < b || (a == b && x.1 < y.1)
    | some _, none => true
    | none, some _ => false
    | none, none => x.1 < y.1

/-- The first of a list by an order. -/
def firstBy {α : Type} (before : α → α → Bool) : List α → Option α
  | [] => none
  | x :: r => match firstBy before r with
    | some y => some (if before y x then y else x)
    | none => some x

/-- Whether a launch stands in its queue: as a record, or returned after a pre-emption. -/
def inQueue (x : Launch) : Bool := x.parent.isNone && (x.state == .queued || x.state == .preempted)

/-- The head of a level: of the launches that have returned, the one pre-empted last; else a record that drains, while
which no other of its level is considered (R46). DESIGN CHOICE (log 49). -/
def headOf (d : Dev) (part level : Nat) : Option (Nat × Launch) :=
  let q := d.launches.filter fun e => e.2.part.toNat == part && e.2.level == level && inQueue e.2
  let draining := q.filter fun e => 16 ≤ e.2.failures
  firstBy aheadOf (if draining.isEmpty || q.any (fun e => e.2.returned != 0) then q else draining)

/-! ## Reservation (R43, R44, R103) -/

/-- Whether a launch holds a stope. -/
def holdsStope (x : Launch) (s : Nat) : Bool := (x.state == .running || x.state == .preempting) && x.gang.contains s

/-- Whether a stope works: it has not failed, and its control, vault and array dies are not lost (R21, R24). -/
def stopeWorks (d : Dev) (s : Nat) : Bool :=
  !(stopeAt d s).failed && (homeDies s ||| dieBit (4 * halfOf s + 2)) &&& d.lost == 0

/-- Whether a stope can be claimed. -/
def stopeFree (d : Dev) (s : Nat) : Bool := stopeWorks d s && !d.launches.any fun e => holdsStope e.2 s

/-- The candidate ranges of a gang, in the order of the attempt. -/
def candidates (p : Partition) (x : Launch) : List (List Nat) :=
  let g := gangSize x.record
  let n := p.stopes.length / g
  let k0 := if p.dmode then draw x.record.seed 4 x.failures 0 0 % n else 0
  (List.range n).map fun j => (p.stopes.drop (g * ((k0 + j) % n))).take g

/-- The range that an attempt reserves. -/
def reserve (d : Dev) (p : Partition) (x : Launch) : Option (List Nat) :=
  (candidates p x).find? fun r => r.all (stopeFree d)

/-- The launch numbers of a context that are free. -/
def freeNumbers (d : Dev) (ctx : Nat) : List Nat :=
  (List.range 16).filter fun n => !heldNumber d ctx (BitVec.ofNat 4 n)

/-- The number of a launch as it is admitted: the one it keeps, or the lowest free one, of which a second must be free.
-/
def numberFor (d : Dev) (x : Launch) : Option Nat :=
  match x.number with
  | some n => some n
  | none => match freeNumbers d x.ctx with
    | n :: _ :: _ => some n
    | _ => none

/-! ## Admission (R47, R50) -/

/-- A task before its first resumption. -/
def freshTask : Task :=
  { state := .ready, core := 0xFFFF, place := 0, cause := 0, wait := .nothing, waitAddr := 0, waitVal := 0,
    opening := true, gained := [], riskPend := false, risk := none, arrivals := [], gArrivals := [], snap := none,
    snapPtr := 0, notice := [] }

/-- The frame pointer of task i (R47). -/
def frameOf (x : Launch) (i : Nat) : Dword :=
  x.record.frameBase.setWidth 64 + BitVec.ofNat 64 i * BitVec.ofNat 64 x.record.frameSize

/-- Write the continuation records of tasks i, i + 1, …, tagged as accesses of their tasks: an error is the cause of a
failed check, or of a lost die (R86). -/
def writeConts (x : Launch) (i : Nat) : Nat → Dev → Except Nat Dev
  | 0, d => .ok d
  | n + 1, d =>
    let bs := contBytes x.record.kernel x.record.gloss 0 0 0 (frameOf x i) 0 0 0 0xFFFF 0 0 0
    match placeBytes d x (firstStope d x) .fetch .write (x.record.cont.setWidth 64 + BitVec.ofNat 64 (64 * i)) 64 with
    | .error e => .error e.1
    | .ok ls =>
      match touchLost d x.ctx (diesAt (firstStope d x) ls) with
      | (_, some _) => .error causeDieLost
      | (d, none) => writeConts x (i + 1) n (lateWrite
        { d with tags := tagAll (tagOf (accessOf x i 0 true false false) 3 false) (granulesOf ls) d.tags } x.ctx (cellsAt ls bs))

/-- Start a launch on its gang: its tasks and their records; then step 0 opens, unless a load of the table, or the read
of its deadline, waits. -/
def startLaunch (d : Dev) (l : Nat) (x : Launch) : Dev :=
  let x := { x with tasks := (List.range x.record.tasks).map fun i => (i, freshTask) }
  let d := putLaunch d l x
  match writeConts x 0 x.record.tasks d with
  | .error c => stopLaunch (touchDies d x.ctx (dispatchDies d x .write (x.record.cont.setWidth 64) (64 * x.record.tasks))) l
      ⟨none, c, 0, none, none, statusFaulted⟩
  | .ok d =>
    if loadWaits d x.ctx || entryHeld d x 0 then modLaunch d l fun x => { x with phase := .starting }
    else openStep d l 0

/-- The waits of a launch on counters, at the places that its gang's stopes now give their addresses. -/
def replaceWaits (d : Dev) (x : Launch) (t : Task) : Task :=
  match t.wait with
  | .counter loc v =>
    match xlate d x (stopeOf (coreOfGang x t.core.toNat)) .coreAtomic .read t.waitAddr with
    | .place p => { t with wait := .counter ((locOf p).getD loc) v }
    | .trap _ | .page _ => t
  | .nothing | .slot _ _ | .group _ _ | .page _ => t

/-- Restore the copy queues of a launch, channel by channel, into the engines of the same gang stopes, once their images
can be read and the scoreboards have room for all of them (R296, R297, R330). An image on a lost die stops the launch
(R86). DESIGN CHOICE (log 42). -/
def restoreQueues (d : Dev) (l : Nat) (x : Launch) : Dev :=
  let qs := savedCopies d l x
  if queueImageHeld d l x then d
  else match touchLost d x.ctx (queueImageDies d l x) with
  | (d, some _) =>
    stopLaunch (modLaunch (dropSaved d l) l fun x => { x with saved := [], imaged := [] }) l
      ⟨none, causeDieLost, 0, none, none, statusFaulted⟩
  | (d, none) =>
  if !entriesFit d (qs.flatMap fun e => copyEntries d x e.2.stope e.2.kind e.2.desc) then d
  else
    let d := qs.foldl (restoreCopy x) (dropUncounted d l x)
    modLaunch d l fun x => { x with saved := [], imaged := [] }

/-- Running launches whose copy queues wait for room are looked at again. -/
def restoreWaiting (d : Dev) : Dev :=
  (d.launches.filter fun e => e.2.state == .running && !(e.2.saved.isEmpty && e.2.imaged.isEmpty)).foldl
    (fun d e => settle (restoreQueues d e.1 e.2)) d

/-- A pre-empted launch is back on a gang, with its regeneration launches. -/
def readmit (d : Dev) (l : Nat) (gang : List Nat) : Dev :=
  let d := modLaunch d l fun x => { x with state := .running, gang := gang, returned := 0 }
  match launchAt d l with
  | none => d
  | some x =>
    let d := modLaunch d l fun x => { x with tasks := x.tasks.map fun t => (t.1, replaceWaits d x t.2) }
    settle (restoreQueues d l x)

/-- Admit a launch on a range. -/
def admitLaunch (d : Dev) (l : Nat) (x : Launch) (num : Nat) (gang : List Nat) : Dev :=
  let m := newName d
  if x.state = .preempted then
    let cs := childrenOf m.2 l
    (l :: cs).foldl (fun d c => readmit (modLaunch d c fun y => { y with admitted := m.1 }) c gang) m.2
  else
    startLaunch m.2 l { x with state := .running, number := some num, admitted := m.1, gang := gang }

/-! ## Back-off and drain (R45, R46) -/

/-- Device time of a number of stope cycles, in ns, rounded up. -/
def cyclesNs (d : Dev) (n : Nat) : Nat := (1000 * n + clockNow d.power - 1) / clockNow d.power

/-- The back-off after failure a, in cycles. -/
def backoffCycles (seed : Dword) (a : Nat) : Nat := 64 * (1 + draw seed 2 a 0 0 % 2 ^ min a 6)

/-- Count a failure: the head is passed over until its back-off expires, or enters drain at the sixteenth. -/
def countFailure (d : Dev) (l : Nat) (x : Launch) : Dev :=
  let a := x.failures + 1
  modLaunch d l fun x =>
    { x with failures := a,
             passUntil := if 16 ≤ a then 0 else d.now + cyclesNs d (backoffCycles x.record.seed a) }

/-- Whether a launch is to be pre-empted before another in a drain: the lowest level first, then the latest admitted. -/
def victimBefore (x y : Nat × Launch) : Bool :=
  x.2.level < y.2.level || (x.2.level == y.2.level && y.2.admitted < x.2.admitted)

/-- The launch that a drain at a level pre-empts next. DESIGN CHOICE (log 49). -/
def victim (d : Dev) (part level : Nat) : Option (Nat × Launch) :=
  firstBy victimBefore (d.launches.filter fun e =>
    e.2.part.toNat == part && e.2.parent.isNone && goes e.2 && e.2.level < level)

/-- A forced pre-emption of a launch begins, and of its regeneration launches. -/
def beginPreempt (d : Dev) (l : Nat) : Dev :=
  (l :: childrenOf d l).foldl (fun d c => modLaunch d c fun x => { x with state := .preempting }) d

/-- A head in drain that has no range pre-empts one launch of a lower level at a time. DESIGN CHOICE (log 49). -/
def drain (d : Dev) (part level : Nat) : Dev :=
  if d.launches.any fun e => e.2.part.toNat == part && e.2.state == .preempting then d
  else match victim d part level with
    | some v => beginPreempt d v.1
    | none => d

/-! ## DISPATCH_ADMISSION (R42) -/

/-- Try the head of a level: the device, and whether the levels below are considered. A head in drain whose range is
free waits for a launch number, and pre-empts nothing more (R46). A launch that has returned is the head ahead of a
record in drain, and its back-off lets the lower levels be considered. DESIGN CHOICE (log 49). -/
def tryHead (d : Dev) (part level : Nat) (p : Partition) : Dev × Bool :=
  match headOf d part level with
  | none => (d, true)
  | some (l, x) =>
    if x.passUntil ≠ 0 then (d, true)
    else match numberFor d x, reserve d p x with
      | some n, some gang => (admitLaunch d l x n gang, false)
      | _, _ =>
        let d := if x.failures < 16 then countFailure d l x else d
        if 15 ≤ x.failures then (if (reserve d p x).isSome then d else drain d part level, false) else (d, true)

/-- Consider the heads in descending level. DESIGN CHOICE (log 49). -/
def considerLevels (part : Nat) (p : Partition) : Nat → Dev → Dev
  | 0, d => d
  | n + 1, d =>
    let r := tryHead d part n p
    if r.2 then considerLevels part p n r.1 else r.1

def admission (d : Dev) (part : Nat) : Dev :=
  match partAt d part with
  | some p => considerLevels part p 16 d
  | none => d

def execDispatchAdmission (part : BitVec 4) (s : State) : Out := .next (setDev s (admission s.dev part.toNat))

/-- BACKOFF_EXPIRY: once its back-off is over, a head is considered again. DESIGN CHOICE (log 49). -/
def expireBackoff (d : Dev) (l : Nat) : Dev :=
  modLaunch d l fun x => if x.passUntil ≤ d.now then { x with passUntil := 0 } else x

def execBackoffExpiry (launch : Nat) (s : State) : Out := .next (setDev s (expireBackoff s.dev launch))

/-! ## Pre-emption (R46, R56, R330) -/

/-- The copy queues of a stope's engine are saved, its commands leave their channels, and their entries free.
DESIGN CHOICE (log 42). -/
def saveQueues (l g : Nat) (d : Dev) (st : Nat) : Dev :=
  (stopeAt d st).chans.foldl (fun d e =>
    let mine := e.2.filter fun n => match mfind d.copies n with
      | some q => q.issue.launch == l
      | none => false
    let d := modLaunch d l fun x => if mine.isEmpty then x else { x with saved := minsert x.saved (4 * g + e.1) mine }
    let d := modStope d st fun y => { y with chans := minsert y.chans e.1 (e.2.filter fun n => !mine.contains n) }
    mine.foldl freeEntries d) d

/-- Write the copy-queue image of a gang stope into the context's snapshot region (R330). DESIGN CHOICE (log 42). -/
def writeQueue (l g : Nat) (d : Dev) (st : Nat) : Dev :=
  match launchAt d l with
  | none => d
  | some x =>
    match dispatchWrite d x (queueAddr d l g x) (queueImage d l st) with
    | (d, none) => modLaunch d l fun x => { x with imaged := x.imaged ++ [g] }
    | (d, some c) => skippedWrite d x (queueAddr d l g x) c

/-- Whether matrix commands of a launch are under way, or one of its cores still runs a task. -/
def leaving (d : Dev) (l : Nat) : Bool := !(coresOf d l).isEmpty || arrayLeft d l

/-- A pre-empted launch returns to the head of its level; its stopes are released. DESIGN CHOICE (log 49). -/
def returnLaunch (d : Dev) (l : Nat) : Dev :=
  match launchAt d l with
  | none => d
  | some x =>
    let m := newName d
    let d := x.gang.zipIdx.foldl (fun d g => saveQueues l g.2 (writeQueue l g.2 d g.1) g.1) m.2
    modLaunch d l fun x => { x with state := .preempted, gang := [], returned := m.1 + 1 }

/-- LAUNCH_PREEMPTION: every running task is snapshotted; then the copy queues are saved and the stopes released. -/
def preemptLaunch (d : Dev) (l : Nat) : Dev :=
  match launchAt d l with
  | none => d
  | some x =>
    if x.state ≠ .preempting ∨ x.stop.isSome then d
    else
      let ls := l :: childrenOf d l
      let d := (ls.flatMap (coresOf d)).foldl preemptCore d
      if ls.any (leaving d) then d else ls.foldl returnLaunch d

def execLaunchPreemption (launch : Nat) (s : State) : Out := .next (setDev s (preemptLaunch s.dev launch))

/-- TASK_PREEMPTION: the task on a core is snapshotted, and a Foreman launch takes the core for a time. -/
def preemptTask (d : Dev) (k ns : Nat) : Dev :=
  if issuing d k then preemptCore (modCore d k fun c => { c with takeFor := max c.takeFor ns }) k
  else modCore d k fun c => { c with takenUntil := max c.takenUntil (d.now + ns) }

def execTaskPreemption (core : CoreId) (ns : Nat) (s : State) : Out :=
  onCoreEvent core s fun d k => preemptTask d k ns

/-- PREEMPTION_DEFERRAL_BOUND: a pre-emption that a lease has deferred for 10 µs is taken, once the matrix commands in
flight are complete. -/
def execPreemptionDeferralBound (core : CoreId) (s : State) : Out :=
  onCoreEvent core s fun d k => if issuing d k then tryPreempt d k else d

/-! ## Placement and resumption (R48, R50, R51, R104, R199) -/

/-- The core on which a task of a D-mode partition runs. DEDUCED (log 51). -/
def homeCore (d : Dev) (x : Launch) (i : Nat) (t : Task) : Nat :=
  let w := match x.parent.bind (launchAt d) with
    | some p => draw p.record.seed 3 x.regens 0 i
    | none => draw x.record.seed 1 t.place.toNat 0 i
  coreOfGang x (w % (4 * x.gang.length))

/-- Whether a core is idle: it runs no task, no Foreman launch has it, and it works. DEDUCED (log 51). -/
def idleCore (d : Dev) (k : Nat) : Bool :=
  (coreAt d k).run.isNone && (coreAt d k).takenUntil ≤ d.now && !(stopeAt d (stopeOf k)).failed &&
    !coreLost d k

/-- A ready continuation: its launch and its index. -/
structure Ready where
  launch : Nat
  task   : Nat
  x      : Launch
  t      : Task

/-- The ready continuations that a core can take. -/
def readyFor (d : Dev) (k : Nat) : List Ready :=
  d.launches.flatMap fun e =>
    if goes e.2 && e.2.phase != .starting && e.2.gang.contains (stopeOf k) then
      let dm := match partAt d e.2.part.toNat with
        | some p => p.dmode
        | none => false
      (e.2.tasks.filter fun t =>
        (t.2.state == .ready || t.2.state == .snapshot) && (!dm || homeCore d e.2 t.1 t.2 == k)).map
        fun t => ⟨e.1, t.1, e.2, t.2⟩
    else []

/-- The order of R50, or of R51: by the current step's deadline, then the lowest task index, then the launch admitted
first. DEDUCED (log 51). -/
def readyBefore (dmode : Bool) (a b : Ready) : Bool :=
  let later := a.task < b.task || (a.task == b.task && a.x.admitted < b.x.admitted) ||
    (a.task == b.task && a.x.admitted == b.x.admitted && a.launch < b.launch)
  if dmode then later
  else match a.x.deadline, b.x.deadline with
    | some p, some q => p < q || (p == q && later)
    | some _, none => true
    | none, some _ => false
    | none, none => later

/-- The save area of a resuming task, as its bytes: none where there is none to read. An error is the failing check.
DEDUCED (log 53). -/
def readSave (d : Dev) (x : Launch) (stope : Nat) (frame : Dword) (core : Nat) : Except Nat (Option (List Nat)) :=
  if x.record.frameSize < 64 ∨ core = 0xFFFF then .ok none
  else match placeBytes d x stope .core .read frame 32 with
    | .error e => .error e.1
    | .ok ls => .ok (some ls)

/-- A core as a continuation loads it (R48, R271). -/
def contCore (old : Core) (x : Launch) (run : Running) (t : Task) (bs : List Byte) : Core :=
  let frame := BitVec.ofNat 64 (bitsOf bs 255 192)
  let c := { coreReset with
    run := some run, lastTime := old.lastTime, takenUntil := old.takenUntil, fabricQ := old.fabricQ,
    pc := BitVec.ofNat 48 (bitsOf bs 63 0), gpc := BitVec.ofNat 48 (bitsOf bs 127 64),
    lc := BitVec.ofNat 32 (bitsOf bs 159 128), ec := BitVec.ofNat 16 (bitsOf bs 175 160),
    rrb := BitVec.ofNat 8 (bitsOf bs 183 176), seed := x.record.seed, riskEn := x.record.riskInt,
    riskPend := t.riskPend, risk := if x.record.riskInt then t.risk else none, notice := t.notice,
    epoch := if t.opening then 0 else 4095, acq := t.gained.foldl addAcq [] }
  let put := fun (c : Core) (n : Nat) (v : Dword) => writeReg c .g n (v.setWidth 1024)
  let c := x.record.params.zipIdx.foldl (fun c p => put c (p.2 + 1) p.1) c
  let c := put (put (put c 56 (BitVec.ofNat 64 run.task)) 57 (BitVec.ofNat 64 x.record.tasks)) 58 (BitVec.ofNat 64 x.step)
  put (put c 60 frame) 63 (frame + BitVec.ofNat 64 x.record.frameSize)

/-- The loop registers from a save area (R199). DEDUCED (log 53). -/
def loadSave (c : Core) (bs : List Byte) : Core :=
  { c with active := bitsOf bs 0 0 == 1, lgpc := BitVec.ofNat 48 (bitsOf bs 159 112),
           lstart := BitVec.ofNat 48 (bitsOf bs 207 160), lend := BitVec.ofNat 48 (bitsOf bs 255 208) }

/-- The core with its save area, whose read is checked as the task's own. DEDUCED (log 53). -/
def withSave (d : Dev) (x : Launch) (i : Nat) (c : Core) (save : Option (List Nat)) : Dev × Core :=
  match save with
  | none => (d, c)
  | some ls =>
    let c' := loadSave c (ls.map (readByte d.mem))
    let a := accessOf x i c.epoch false false false
    match raceAll (heldNumber d x.ctx) c.acq a (granulesOf ls) d.tags with
    | .ok tags => ({ d with tags := tags }, c')
    | .error _ =>
      (d, { c' with notice := c'.notice ++
        [⟨causeRace, racedAt (heldNumber d x.ctx) c.acq a d.tags ls (physReadG c 60)⟩] })

/-- A task runs on core k. -/
def nowRunning (d : Dev) (k : Nat) (r : Ready) : Dev :=
  let d := modTask d r.launch r.task fun t =>
    { t with state := .running, core := BitVec.ofNat 16 (gangCore r.x k), opening := false, gained := [], notice := [],
             risk := none, snap := none, snapPtr := 0, wait := .nothing, waitAddr := 0, waitVal := 0 }
  writeRecord d r.launch r.task

/-- The places of a task's record as core k reads it. -/
def recordPlaces (d : Dev) (k : Nat) (r : Ready) : Except (Nat × Dword) (List Nat) :=
  placeBytes d r.x (stopeOf k) .fetch .read (r.x.record.cont.setWidth 64 + BitVec.ofNat 64 (64 * r.task)) 64

/-- A resumption's reads touch the dies that hold them; one that is lost traps at the task's first clause (R24, R86). -/
def touchResumed (d : Dev) (k ctx : Nat) (bits : Byte) : Dev :=
  match touchLost d ctx bits with
  | (d, some die) => modCore d k fun c => { c with notice := c.notice ++ [⟨causeDieLost, BitVec.ofNat 64 die⟩] }
  | (d, none) => d

/-- Tag the read of a task's record at its resumption, under the epoch in force (R47, R101). -/
def tagRecord (d : Dev) (x : Launch) (i : Nat) (epoch : BitVec 12) (log : List AcqEntry) (ls : List Nat) : Dev :=
  { d with tags := tagPast (heldNumber d x.ctx) log (accessOf x i epoch false false false) (granulesOf ls) d.tags }

/-- The operations of a task that its next clause waits for: those that acquire and are not complete (R366). -/
def gatesOf (d : Dev) (l i : Nat) : List Nat :=
  (d.fabric.filter fun e => e.2.post.isNone && e.2.issue.launch == l && e.2.issue.task == i && acquires e.2.order).map (·.1)

/-- Resume a task on core k from its continuation record. A record that cannot be read stops the launch, and so does a
save area, with the task as the record has it (R37, R199, R214). -/
def resumeCont (d : Dev) (k : Nat) (r : Ready) (ls : List Nat) : Dev :=
  let x := r.x
  let bs := ls.map (readByte d.mem)
  let c := { contCore (coreAt d k) x ⟨r.launch, r.task⟩ r.t bs with opGate := gatesOf d r.launch r.task }
  match readSave d x (stopeOf k) (BitVec.ofNat 64 (bitsOf bs 255 192)) (bitsOf bs 303 288) with
  | .error e => stopLaunch d r.launch ⟨some r.task, e, 0, some c, some (latchOf c c.pc), statusFaulted⟩
  | .ok save =>
    if readHeld d (save.getD []) then d else
    let p := withSave (tagRecord d x r.task c.epoch c.acq ls) x r.task c save
    touchResumed (nowRunning (putCore p.1 k p.2) k r) k x.ctx (diesAt (stopeOf k) (ls ++ save.getD []))

/-- Resume a task in State 7 on core k: the dispatcher reads its record, and the snapshot is restored (R47, R56). -/
def resumeSaved (d : Dev) (k : Nat) (r : Ready) (sn : Snap) (ls : List Nat) : Dev :=
  let bits := diesAt (stopeOf k) ls ||| imageDies d r.x r.t sn
  let d := tagRecord d r.x r.task sn.latch.epoch (logOf sn.latch) ls
  touchResumed (nowRunning (resumeSnap d k r.launch r.task r.x r.t sn) k r) k r.x.ctx bits

/-- The continuation that a core takes next. -/
def nextReady (d : Dev) (k : Nat) : Option Ready :=
  let rs := readyFor d k
  let dm := rs.any fun r => match partAt d r.x.part.toNat with
    | some p => p.dmode
    | none => false
  firstBy (readyBefore dm) rs

/-- TASK_RESUMPTION: an idle core takes the first ready continuation. Outside D-mode the idle core of the gang with the
lowest number is the first to take one. DEDUCED (log 51). -/
def resumeTask (d : Dev) (k : Nat) : Dev :=
  if !idleCore d k then d
  else match nextReady d k with
    | none => d
    | some r =>
      let dm := match partAt d r.x.part.toNat with
        | some p => p.dmode
        | none => false
      if !dm && (List.range (gangCore r.x k)).any fun q => idleCore d (coreOfGang r.x q) then d
      else if !(r.x.saved.isEmpty && r.x.imaged.isEmpty) then settle (restoreQueues d r.launch r.x)
      else match recordPlaces d k r with
        | .error e => stopLaunch d r.launch ⟨none, e.1, 0, none, none, statusFaulted⟩
        | .ok ls =>
          if readHeld d ls then d
          else match r.t.snap with
          | some sn =>
            if r.t.state ≠ .snapshot then resumeCont d k r ls
            else if snapHeld d r.x r.t sn then d
            else resumeSaved d k r sn ls
          | none => resumeCont d k r ls

def execTaskResumption (core : CoreId) (s : State) : Out := onCoreEvent core s resumeTask

/-! ## Regeneration launches (R54, R55, R103) -/

/-- The record of a context's regeneration launch, as a launch of it is admitted: its g1 and g2 hold the faulting
address and the page's base. None where the record is not 8-byte aligned, cannot be read or breaks a rule of R37; the
size of its gang does not count (R54). DESIGN CHOICE (log 50). -/
def regenRecord (d : Dev) (x : Launch) (page : Nat) (va : Va) : Option LaunchRec :=
  match ctxAt d x.ctx with
  | none => none
  | some c =>
    if c.regen = 0 ∨ c.regen.toNat % 8 ≠ 0 then none
    else match placeBytes d x (firstStope d x) .fetch .read c.regen 256 with
      | .error _ => none
      | .ok ls =>
        let bs := ls.map (readByte d.mem)
        if recordBad bs false true then none
        else
          let r := parseRecord bs
          some { r with params := va.setWidth 64 :: BitVec.ofNat 64 (page * 2 ^ 21) :: r.params.drop 2 }

/-- Whether a read for a page's regeneration launch waits for a scoreboard (R297). -/
def regenHeld (d : Dev) (x : Launch) (page : Nat) (va : Va) : Bool :=
  (match (ctxAt d x.ctx).map fun c => placeBytes d x (firstStope d x) .fetch .read c.regen 256 with
   | some (.ok ls) => readHeld d ls
   | some (.error _) | none => false) ||
    (match regenRecord d x page va with
     | some r => readHeld d (queueLocs d (launchOfRecord x.part x.ctx 0 x.sender r d.now))
     | none => false)

/-- The dies that the reads for a page's regeneration launch touch: of the record, of its range list and of its first
deadline (R86). -/
def regenDies (d : Dev) (x : Launch) (page : Nat) (va : Va) : Byte :=
  (match ctxAt d x.ctx with
   | some c => if c.regen = 0 then 0 else dispatchDies d x .read c.regen 256
   | none => 0) |||
    (match regenRecord d x page va with
     | some r =>
       dispatchDies d x .read (r.rangeList.setWidth 64) (16 * r.ranges) |||
         if r.deadlines = 0 then 0 else dispatchDies d x .read (r.deadlines.setWidth 64) 8
     | none => 0)

/-- Admit the regeneration launch of a page on a launch's gang; where its reads touch a lost die, the page's waiters trap
DIE_LOST (R86). DESIGN CHOICE (log 50). -/
def startRegen (d : Dev) (l : Nat) (x : Launch) (page : Nat) (va : Va) (num : Nat) : Dev :=
  match touchLost (unlistPage d x.ctx page) x.ctx (regenDies d x page va) with
  | (d, some die) => failWaiters d x.ctx page causeDieLost (some (BitVec.ofNat 64 die))
  | (d, none) =>
  match regenRecord d x page va with
  | none => pageFailed d x.ctx page
  | some rec' =>
    let m := newName d
    let y := { launchOfRecord x.part x.ctx 0 x.sender rec' d.now with
      level := x.level, state := .running, number := some num, admitted := m.1, gang := x.gang, parent := some l,
      page := page, regens := x.regens }
    match queueReads d y with
    | none => pageFailed d x.ctx page
    | some (es, dl) =>
      startLaunch (modLaunch m.2 l fun x => { x with regens := x.regens + 1 }) m.1 { y with ranges := es, dl0 := dl }

/-- REGENERATION_LAUNCH: the first faulting page of a running launch whose page has its granule is regenerated, where
the gang runs fewer than eight such launches and a number is free. DESIGN CHOICE (log 50). -/
def regenerate (d : Dev) (l page : Nat) : Dev :=
  match launchAt d l with
  | none => d
  | some x =>
    match x.pageQ, pageOf d x.ctx page with
    | (p, va) :: _, some e =>
      if !goes x || p != page || e.state != 2 || e.phys.isNone || 8 ≤ (childrenOf d l).length || regenHeld d x page va then d
      else match freeNumbers d x.ctx with
        | n :: _ => startRegen d l x page va n
        | [] => d
    | _, _ => d

def execRegenerationLaunch (launch : Nat) (page : BitVec 27) (s : State) : Out :=
  .next (setDev s (regenerate s.dev launch page.toNat))

end Sys2Proof.Machine
end

