-- ==== Sys2Proof/Machine/Loader.lean ====
section
/-! DEFINITION. The loader of the translation table: eviction and the fill reserve, the walk of the descriptors, grants,
installation and shoot-downs (spec/03_memory_translation.md R61, R63 to R65, R69 to R74, R82 to R84). -/

namespace Sys2Proof.Machine

/-! ## Accesses under way (R68, R71) -/

/-- The addresses and the places that an operation of the fabric was translated to: its target, its completion counter,
the holder counter of a TICKET, and the flags of a FLAGSET. -/
def fabAccesses (r : FabRec) : List (Option Dword × Option Nat) :=
  (some r.va, r.loc) :: (if r.counter.isSome then [(some r.counterVa, r.counter)] else []) ++
    (if r.holder.isSome then [(some r.op.data2, r.holder)] else []) ++ r.sets.map fun l => (none, some l)

/-- Whether accesses of a context from before a place in issue order are still under way that a test of address and
place picks (R68). The sectors of a copy are translated as they run; its counter is translated at its issue.
DEDUCED (log 28). -/
def accessesLeft (d : Dev) (ctx mark : Nat) (hits : Option Dword → Option Nat → Bool) : Bool :=
  (d.cores.any fun e => (match launchOf d e.1 with
    | some x => x.ctx == ctx
    | none => false) && (loadsBefore e.2 (7 * mark + 1) || e.2.window.any fun w => w.seq < mark)) ||
  (d.copies.any fun e => e.2.ctx == ctx && e.2.issue.seq < mark && e.2.place.isSome &&
    hits (some (e.2.counter.setWidth 64)) e.2.place) ||
  (d.fabric.any fun e => e.2.ctx == ctx && e.2.issue.seq < mark && (fabAccesses e.2).any fun a => hits a.1 a.2) ||
  d.late.any fun o => o.ctx == ctx && o.place < mark && (lateGranules o).any fun g => hits none (some (32 * g))

/-- Whether a place lies in a range of n bytes. -/
def inRange (lo n : Nat) (loc : Option Nat) : Bool := loc.any fun l => lo ≤ l && l < lo + n

/-- Whether the accesses of a context that has given a vault page up may still reach it: those under way, and those of
engine commands, which hold scoreboard entries, or are saved with a pre-empted launch (R68, R82, R296). -/
def cededBusy (d : Dev) (c : Ceded) : Bool :=
  let lo := c.page * 2 ^ 21
  let meets := fun (a b : Nat) => a < lo + 2 ^ 21 && lo ≤ b
  (stopeAt d c.stope).board.any (fun e => e.seq < 7 * c.mark + 8 && meets e.lo e.hi) ||
    (d.copies.any fun e => e.2.ctx == c.ctx && e.2.issue.seq < c.mark &&
      ((launchAt d e.2.issue.launch).any fun x => x.state == .preempted &&
        (copyEntries d x e.2.stope e.2.kind e.2.desc).any fun q => q.1 == c.stope && meets q.2.1 q.2.2.1)) ||
    accessesLeft d c.ctx c.mark fun _ loc => inRange (vaultLoc c.stope lo) (2 ^ 21) loc

/-- Granules that pages have given up are free once the accesses of the partition that were translated before are
complete, and so are vault pages that grants have given up (R68, R71, R82). DESIGN CHOICE (log 25). -/
def collect (d : Dev) (part : Nat) : Dev :=
  let busy := fun (g : Nat × Nat) => (contextsOf d part).any fun c =>
    accessesLeft d c g.2 fun _ loc => inRange (hbmLoc (g.1 * 2 ^ 21)) (2 ^ 21) loc
  { d with parts := mmod d.parts part fun p =>
      { p with free := p.free ++ ((p.leaving.filter fun g => !busy g).map (·.1)), leaving := p.leaving.filter busy,
               ceded := p.ceded.filter (cededBusy d) } }

/-- A partition's vault pages that a context's grants give up. DEDUCED (log 28). -/
def cede (d : Dev) (part ctx : Nat) (gs : List (Nat × Nat)) : Dev :=
  { d with parts := mmod d.parts part fun p => { p with ceded := p.ceded ++ gs.map fun g => ⟨g.1, g.2, ctx, d.issues⟩ } }

/-! ## Eviction (R83) -/

/-- Launches of a partition in predicted admission order: running ones in order of admission, then the queues by
descending level. DESIGN CHOICE (log 70). -/
def rankBefore (x y : Nat × Launch) : Bool :=
  match inQueue x.2, inQueue y.2 with
  | false, true => true
  | true, false => false
  | false, false => x.2.admitted < y.2.admitted
  | true, true => y.2.level < x.2.level || (x.2.level == y.2.level && aheadOf x y)

/-- Put a launch into a list in that order. -/
def rankIn (x : Nat × Launch) : List (Nat × Launch) → List (Nat × Launch)
  | [] => [x]
  | y :: r => if rankBefore x y then x :: y :: r else y :: rankIn x r

def rankedLaunches (d : Dev) (part : Nat) : List (Nat × Launch) :=
  (d.launches.filter fun e => e.2.part.toNat == part && e.2.state != .complete).foldl (fun l x => rankIn x l) []

/-- Whether a range covers a byte of a page. -/
def rangeCovers (e : RangeEntry) (page : Nat) : Bool :=
  e.base.toNat < (page + 1) * 2 ^ 21 && page * 2 ^ 21 < e.base.toNat + 4096 * e.len

/-- The step at which a launch is next to use a page, where its ranges cover it; only those of running launches are told
apart by it, and one whose ranges lie in past steps has none. DESIGN CHOICE (log 70). -/
def nextStep (x : Launch) (page : Nat) : Option Nat :=
  let rs := x.ranges.filter fun e => rangeCovers e page
  if inQueue x then (if rs.isEmpty then none else some 0)
  else ((rs.filter fun e => x.step ≤ e.last).map fun e => max e.first x.step).foldl
    (fun (m : Option Nat) n => some (match m with
      | some k => min k n
      | none => n)) none

/-- Whether a page lies in a running launch's current-step range. -/
def usedNow (d : Dev) (ctx page : Nat) : Bool :=
  d.launches.any fun e => e.2.ctx == ctx && (e.2.state == .running || e.2.state == .preempting) &&
    e.2.ranges.any fun r => rangeCovers r page && r.first ≤ e.2.step && e.2.step ≤ r.last

/-- The next use of a page of a context: the place of the launch in the order, and the step. -/
def nextUse (d : Dev) (part ctx page : Nat) : Option (Nat × Nat) :=
  (rankedLaunches d part).zipIdx.findSome? fun q =>
    if q.1.2.ctx = ctx then (nextStep q.1.2 page).map fun s => (q.2, s) else none

/-- Whether a use lies farther ahead than another. -/
def laterUse (a b : Option (Nat × Nat)) : Bool :=
  match a, b with
  | none, some _ => true
  | some p, some q => q.1 < p.1 || (p.1 == q.1 && q.2 < p.2)
  | none, none | some _, none => false

/-- Whether a page entry may be evicted, and holds a physical granule of a partition. -/
def canEvict (p : Partition) (e : LttPage) : Bool :=
  e.state == 1 && e.evictable && e.target == 2 && !e.denied &&
    (e.phys.isSome || (mfind p.stage2 (igran e.output)).isSome)

/-- The pages that may be evicted, with their next uses: context, page, use. -/
def evictable (d : Dev) (part : Nat) (p : Partition) : List (Nat × Nat × Option (Nat × Nat)) :=
  (contextsOf d part).flatMap fun k => match ctxAt d k with
    | some c => (c.pages.filter fun e => canEvict p e.2 && !usedNow d k e.1).map fun e =>
        (k, e.1, nextUse d part k e.1)
    | none => []

/-- The page evicted first: the farthest next use, then the higher address. DESIGN CHOICE (log 70). -/
def evictBefore (x y : Nat × Nat × Option (Nat × Nat)) : Bool :=
  laterUse x.2.2 y.2.2 || (!laterUse y.2.2 x.2.2 && (y.2.1 < x.2.1 || (y.2.1 == x.2.1 && y.1 < x.1)))

/-- Evict a page: a shoot-down of it, after which its physical granule is free (R71). DESIGN CHOICE (log 25). -/
def evictPage (d : Dev) (part : Nat) (p : Partition) (ctx page : Nat) : Dev :=
  match pageOf d ctx page with
  | none => d
  | some e =>
    let back := match e.phys with
      | some g => some g
      | none => mfind p.stage2 (igran e.output)
    let d := match e.phys with
      | some g => shootDown d part [] [g] true
      | none => shootDown d part [igran e.output] [] true
    { d with parts := mmod d.parts part fun p =>
        { p with leaving := p.leaving ++ back.toList.map fun g => (g, d.issues) } }

/-- Whether a partition has a free granule, and the device: where it has none, a page is evicted, unless granules are
still to come. An eviction that a walk itself needs is no further shoot-down, which the loader would hold (R71).
DEDUCED (log 24). -/
def makeFree (d : Dev) (part : Nat) : Dev × Bool :=
  let d := collect d part
  match partAt d part with
  | none => (d, false)
  | some p =>
    if !p.free.isEmpty then (d, true)
    else if !p.leaving.isEmpty then (d, false)
    else match firstBy evictBefore (evictable d part p) with
      | none => (d, false)
      | some v =>
        let d := collect (evictPage d part p v.1 v.2.1) part
        (d, (partAt d part).any fun p => !p.free.isEmpty)

/-- Take a free granule of a partition, the one that the Foreman chooses; or the device where there is none. -/
def takeFree (d : Dev) (part : Nat) : Except Dev (Nat × Dev) :=
  match makeFree d part with
  | (d, false) => .error d
  | (d, true) =>
    match (partAt d part).bind fun p => (p.free[Config.granuleChoice d.names part % p.free.length]?).map fun g => (p, g) with
    | none => .error d
    | some (p, g) => .ok (g, { (newName d).2 with parts := minsert d.parts part { p with free := p.free.erase g } })

/-! ## The fill reserve (R84) -/

/-- Move up to n granules into a partition's fill reserve. -/
def fillReserve (part : Nat) : Nat → Dev → Dev
  | 0, d => d
  | n + 1, d => match takeFree d part with
    | .ok (g, d) => fillReserve part n { d with parts := mmod d.parts part fun p => { p with reserve := p.reserve ++ [g] } }
    | .error d => d

/-- The touched pages of a partition that wait for a granule: context and page. -/
def waitingPages (d : Dev) (part : Nat) : List (Nat × Nat) :=
  (contextsOf d part).flatMap fun k => match ctxAt d k with
    | some c => (c.pages.filter fun e => (e.2.state == 2 || e.2.state == 3) && e.2.phys.isNone &&
        !((pageWaiters d k e.1).isEmpty && (pausedOn d k e.1).isEmpty)).map fun e => (k, e.1)
    | none => []

/-- Touched pages take granules from the reserve while it holds some. -/
def servePages (d : Dev) (part : Nat) : Dev := (waitingPages d part).foldl (fun d q => takeReserve d part q.1 q.2) d

def execFillReserveRefill (part : BitVec 4) (pages : Nat) (s : State) : Out :=
  .next (setDev s (servePages (fillReserve part.toNat pages s.dev) part.toNat))

/-! ## Stage 2 as the loader finds it (R70) -/

/-- What comes of an intermediate granule that the loader needs. -/
inductive Mapped where
  | mapped (d : Dev)
  | declined
  | full (d : Dev)

/-- Map an intermediate granule of a partition: it is mapped already, or the Foreman declines, or it maps the granule to
a free one, which is scrubbed. DEDUCED (log 24). -/
def mapGranule (d : Dev) (part g : Nat) : Mapped :=
  match partAt d part with
  | none => .declined
  | some p =>
    if (mfind p.stage2 g).isSome then .mapped d
    else if Config.granuleDeclined d.names part g then .declined
    else match takeFree d part with
      | .error d => .full d
      | .ok (q, d) => .mapped (scrubGranule
          { d with parts := mmod d.parts part fun p => { p with stage2 := minsert p.stage2 g q } } q)

/-- Map granules in order, up to the first that is declined: that one, or none. An error where the partition has no
granule left. DEDUCED (log 24). -/
def mapAll (part : Nat) : List Nat → Dev → Except Dev (Dev × Option Nat)
  | [], d => .ok (d, none)
  | g :: r, d => match mapGranule d part g with
    | .mapped d => mapAll part r d
    | .declined => .ok (d, some g)
    | .full d => .error d

/-- The n bytes at an intermediate address whose granules are mapped. -/
def readStage2 (d : Dev) (part : Nat) (a n : Nat) : List Byte :=
  (List.range n).map fun i => match (partAt d part).bind fun p => mfind p.stage2 ((a + i) / 2 ^ 21) with
    | some g => readByte d.mem (hbmLoc (g * 2 ^ 21 + (a + i) % 2 ^ 21))
    | none => 0

/-! ## Descriptors and page entries (R63 to R65) -/

/-- Whether Info holds bits that its target type does not list. DESIGN CHOICE (log 23). -/
def infoBad (target info : Nat) : Bool :=
  (match target with
   | 1 => 2 ^ 7 | 3 => 2 ^ 19 | 4 => 2 ^ 16 | 5 => 2 ^ 8 | 6 => 2 ^ 3 | _ => 1) ≤ info

/-- The target, rights, information and output fields that both descriptors share. -/
def entryTarget (bs : List Byte) : BitVec 3 × BitVec 3 × BitVec 24 × Dword :=
  let w := bitsOf bs 127 64
  (BitVec.ofNat 3 (w >>> 41), BitVec.ofNat 3 (w >>> 38), BitVec.ofNat 24 w, BitVec.ofNat 64 (bitsOf bs 63 0))

/-- A region descriptor: its VRegion and its entry, or none where it holds an invalid value. DESIGN CHOICE (log 23). -/
def parseRegion (bs : List Byte) : Option (Nat × LttRegion) :=
  let (target, perm, info, output) := entryTarget bs
  let kind := bitsOf bs 109 108
  let state := bitsOf bs 101 100
  let paged := kind == 1
  let bad := 1 < kind || 1 < state || bitsOf bs 99 88 != 0 ||
    (if paged then target != 0 || perm != 0 || info != 0 || output.toNat % 2 ^ 13 != 0
     else target.toNat < 2 || 5 < target.toNat || infoBad target.toNat info.toNat || output.toNat % 2 ^ 30 != 0)
  if bad then none else some (bitsOf bs 127 110, ⟨paged, target, perm, state == 1, false, info, output⟩)

/-- A page entry, or none where it holds an invalid value. DESIGN CHOICE (log 23). -/
def parsePage (bs : List Byte) : Option LttPage :=
  let w := bitsOf bs 127 64
  let e : LttPage :=
    { state := BitVec.ofNat 2 (w >>> 62), target := BitVec.ofNat 3 (w >>> 59), perm := BitVec.ofNat 3 (w >>> 56),
      evictable := w.testBit 55, fallback := w.testBit 54, denied := false, backing := BitVec.ofNat 27 (w >>> 24),
      info := BitVec.ofNat 24 w, output := BitVec.ofNat 64 (bitsOf bs 63 0), phys := none }
  let bad := w >>> 51 % 8 != 0 ||
    (e.target != 2 && (2 ≤ e.state.toNat || e.evictable || e.backing != 0)) ||
    (e.backing != 0 && e.state != 3 && !e.fallback) || infoBad e.target.toNat e.info.toNat ||
    (e.state == 1 && (e.output.toNat % 2 ^ 21 != 0 || (e.target.toNat ≤ 1 && 0xD80000 ≤ e.output.toNat)))
  if bad then none else some e

/-! ## The walk (R70) -/

/-- Why a load fails. -/
inductive LoadFail where
  | malformed | denied
  | full (d : Dev)

/-- A table as it is walked: its regions and pages, and its denied items, by address. -/
structure Walk where
  regions : SMap LttRegion
  pages   : SMap LttPage
  denied  : SMap Nat

/-- Walk the entries of a page table: those that are not wholly zero are listed. -/
def walkPages (part : Nat) (vr : Nat) : List (Nat × List Byte) → Dev × Walk → Except LoadFail (Dev × Walk)
  | [], w => .ok w
  | (k, bs) :: r, (d, w) =>
    match parsePage bs with
    | none => .error .malformed
    | some e =>
      let n := vr * 512 + k
      if e.state = 0 then walkPages part vr r (d, w)
      else if e.state = 1 ∧ e.target = 2 then
        match mapGranule d part (igran e.output) with
        | .full d => .error (.full d)
        | .mapped d => walkPages part vr r (d, { w with pages := minsert w.pages n e })
        | .declined => walkPages part vr r (d, { w with
            pages := minsert w.pages n { e with denied := true },
            denied := minsert w.denied (n * 2 ^ 21) e.output.toNat })
      else walkPages part vr r (d, { w with pages := minsert w.pages n e })

/-- Install a region as denied. -/
def denyRegion (w : Walk) (vr : Nat) (g : LttRegion) (a : Nat) : Walk :=
  { w with regions := minsert w.regions vr { g with denied := true }, denied := minsert w.denied (vr * 2 ^ 30) a }

/-- Walk one descriptor, with its page table or the granules that it spans. -/
def walkRegion (part : Nat) (d : Dev) (w : Walk) (vr : Nat) (g : LttRegion) : Except LoadFail (Dev × Walk) :=
  if g.paged then
    match mapGranule d part (igran g.output) with
    | .full d => .error (.full d)
    | .declined => .ok (d, denyRegion w vr g g.output.toNat)
    | .mapped d =>
      walkPages part vr ((List.range 512).map fun k => (k, readStage2 d part (g.output.toNat + 16 * k) 16))
        (d, { w with regions := minsert w.regions vr g })
  else if g.target = 2 then
    match mapAll part ((List.range 512).map (igran g.output + ·)) d with
    | .error d => .error (.full d)
    | .ok (d, none) => .ok (d, { w with regions := minsert w.regions vr g })
    | .ok (d, some a) => .ok (d, denyRegion w vr g (a * 2 ^ 21))
  else .ok (d, { w with regions := minsert w.regions vr g })

/-- Walk the descriptor at an address once: the walk after it, and the intermediate granules that it used.
DEDUCED (log 24). -/
def walkOnce (part root : Nat) (d : Dev) (w : Walk) : Except LoadFail (Dev × Walk × List Nat) :=
  match mapGranule d part (root / 2 ^ 21) with
  | .full d => .error (.full d)
  | .declined => .error .denied
  | .mapped d =>
    match parseRegion (readStage2 d part root 16) with
    | none => .error .malformed
    | some (vr, g) =>
      if (mfind w.regions vr).isSome then .error .malformed
      else match walkRegion part d w vr g with
        | .error e => .error e
        | .ok (d, w') =>
          let spanned := if g.target = 2 then (List.range 512).map (igran g.output + ·) else []
          let named := (w'.pages.filter fun e => e.1 / 512 == vr && e.2.state == 1 && e.2.target == 2).map fun e =>
            igran e.2.output
          .ok (d, w', root / 2 ^ 21 :: if g.paged then igran g.output :: named else spanned)

/-- Whether a shoot-down newer than a generation overlaps granules of a walk (R71). -/
def overtaken (p : Partition) (gen : Word) (used : List Nat) : Bool :=
  p.shootGen != gen && ((p.shootLog.head?.any fun e => gen.toNat < e.2.2) ||
    p.shootLog.any fun e => gen.toNat < e.2.2 && used.any fun u => e.1 ≤ u && u < e.1 + e.2.1)

def holdShoots (d : Dev) (part : Nat) (h : Bool) : Dev :=
  { d with parts := mmod d.parts part fun p => { p with shootHold := h } }

/-- Walk the descriptor at an address: a walk that a shoot-down overtakes is discarded and restarts; after so many,
further shoot-downs are held (R71). DEDUCED (log 24). -/
def walkOne (part root : Nat) : Nat → Dev × Walk → Except LoadFail (Dev × Walk)
  | 0, (d, w) =>
    match walkOnce part root (holdShoots d part true) w with
    | .ok (d, w, _) => .ok (holdShoots d part false, w)
    | .error (.full d) => .error (.full (holdShoots d part false))
    | .error .malformed => .error .malformed
    | .error .denied => .error .denied
  | n + 1, (d, w) =>
    match walkOnce part root d w with
    | .error e => .error e
    | .ok (d', w', used) =>
      if (partAt d' part).any fun p => overtaken p ((partAt d part).elim 0 (·.shootGen)) used then walkOne part root n (d', w)
      else .ok (d', w')

/-- Walk descriptors in ascending index, from an address on. DEDUCED (log 24). -/
def walkTable (part root : Nat) : Nat → Dev × Walk → Except LoadFail (Dev × Walk)
  | 0, w => .ok w
  | n + 1, w =>
    match walkOne part root 4 w with
    | .error e => .error e
    | .ok w => walkTable part (root + 16) n w

/-! ## What the dies hold (R61, R69, R74) -/

def pagedCount (m : SMap LttRegion) : Nat := (m.filter fun e => e.2.paged).length

/-- The tables of the contexts other than one, pending loads among them. DESIGN CHOICE (log 21). -/
def otherTables (d : Dev) (ctx : Nat) : List (BitVec 4 × SMap LttRegion × SMap LttPage) :=
  (d.ctxs.filter fun e => e.1 != ctx).flatMap fun e =>
    (e.2.part, e.2.regions, e.2.pages) :: match e.2.pending with
      | some l => [(e.2.part, l.regions, l.pages)]
      | none => []

/-- Whether a table fits beside those of the other contexts: the region entries, the page tables and the grants.
DESIGN CHOICE (log 21). -/
def tableFits (d : Dev) (ctx : Nat) (p : Partition) (w : Walk) : Bool :=
  let others := otherTables d ctx
  let mine := grantsOf p w.pages
  others.foldl (fun n o => n + o.2.1.length) w.regions.length ≤ 768 &&
    others.foldl (fun n o => n + pagedCount o.2.1) (pagedCount w.regions) ≤ 192 &&
    !others.any fun o => (match partAt d o.1.toNat with
      | some q => (grantsOf q o.2.2).any mine.contains
      | none => false)

/-! ## Connections (R351, R352) -/

/-- The packages that the remote entries of a table name. -/
def peersOf (regions : SMap LttRegion) (pages : SMap LttPage) : List Nat :=
  let whole : List (Nat × LttRegion) := regions.filter fun e => !e.2.paged && e.2.target == 3
  let paged : List (Nat × LttPage) := pages.filter fun e => e.2.state == 1 && e.2.target == 3
  (((whole.map fun e => e.2.info) ++ paged.map fun e => e.2.info).map fun i => i.toNat % 2 ^ 19).eraseDups

/-- Establish the connection of a context to a peer, where there is none or it is down; one that had gone down starts
again at sequence 0. DESIGN CHOICE (log 12, 16). -/
def connect (ident : Dword) (part : Nat) (d : Dev) (package : Nat) : Dev :=
  let away := !d.foreman.system.contains package
  match connOf d part ident package with
  | some k => { d with conns := mmod d.conns k fun c =>
      if c.down && !away then { c with down := false, part := part, sendSeq := 0, expiries := 0 } else c }
  | none =>
    let c : Conn := { part := part, ident := ident, package := package, down := away, sendSeq := 0, unacked := [],
                      expiries := 0, expect := 0, cache := [] }
    { d with conns := minsert d.conns (mfree d.conns 0) c }

/-- The packages that a context's table and its pending load name. -/
def contextPeers (c : Context) : List Nat :=
  (peersOf c.regions c.pages ++ match c.pending with
    | some l => peersOf l.regions l.pages
    | none => []).eraseDups

/-- Whether the package can hold the connections that a table needs beside those of the other contexts and of their
pending loads. DESIGN CHOICE (log 12). -/
def connsFit (d : Dev) (ctx : Nat) (w : Walk) : Bool :=
  (((d.ctxs.filter fun e => e.1 != ctx).map fun e => (contextPeers e.2).length).sum +
    (peersOf w.regions w.pages).length) ≤ 4096

/-! ## Installation (R72, R82) -/

/-- Install a table in a context: new grants are scrubbed, touched pages of the old table are free again, and what waits
on a page looks again. DESIGN CHOICE (log 25). -/
def install (d : Dev) (ctx : Nat) (regions : SMap LttRegion) (pages : SMap LttPage) (regen : Dword) : Dev :=
  match ctxAt d ctx with
  | none => d
  | some c =>
    let part := c.part.toNat
    let fresh : List (Nat × Nat) := match partAt d part with
      | some p => (grantsOf p pages).filter fun g => !(grantsOf p c.pages).contains g
      | none => []
    let gone : List (Nat × Nat) := match partAt d part with
      | some p => (grantsOf p c.pages).filter fun g => !(grantsOf p pages).contains g
      | none => []
    let d : Dev := cede (fresh.foldl scrubVaultPage d) part ctx gone
    let d : Dev := { d with
      ctxs := minsert d.ctxs ctx { c with regions := regions, pages := pages, regen := regen, pending := none },
      parts := mmod d.parts part fun p => { p with free := p.free ++ c.pages.filterMap fun e => e.2.phys } }
    let d : Dev := { d with
      launches := d.launches.map fun e => (e.1, if e.2.ctx = ctx then { e.2 with pageQ := [] } else e.2),
      copies := d.copies.map fun q => (q.1, if q.2.ctx = ctx then { q.2 with paused := none } else q.2) }
    let d : Dev := (peersOf regions pages).foldl (connect c.ident part) d
    (d.launches.flatMap fun e => if e.2.ctx = ctx ∧ e.2.state ≠ .complete then
        (e.2.tasks.filter fun t => (waitPage t.2.wait).isSome).map fun t => (e.1, t.1)
      else []).foldl (fun d t => readyTask d t.1 t.2) d

/-- A context at its creation (R27, R85, R157). -/
def newContext (d : Dev) (part : BitVec 4) (ident : Dword) (owner : Nat) : Nat × Dev :=
  let n := newName d
  let c : Context := { part := part, ident := ident, owner := owner, regions := [], pages := [], regen := 0, dmask := 0,
                       pending := none, since := d.now, sampling := none, snapBase := Config.snapshotRegion n.1 / 64 * 64 }
  (n.1, bindWindows { n.2 with ctxs := minsert d.ctxs n.1 c } part.toNat ident)

/-- Whether a launch of a context is running. -/
def runningIn (x : Launch) (ctx : Nat) : Bool :=
  x.ctx == ctx && (x.state == .running || x.state == .preempting)

/-- Whether every running launch of a context is held. DESIGN CHOICE (log 50). -/
def allHeld (d : Dev) (ctx : Nat) : Bool :=
  d.launches.all fun e => !runningIn e.2 ctx || e.2.phase == .held || e.2.phase == .starting

/-- The body of a load's reply: the denied items. DEDUCED (log 22). -/
def deniedBody (w : Walk) : List Byte :=
  natBytes 8 w.denied.length ++ (w.denied.take 4096).flatMap fun e => natBytes 8 e.2 ++ natBytes 8 e.1

/-- A load whose walk is complete: it is installed, or waits for the running launches of the context. -/
def finishWalk (d : Dev) (ctx : Nat) (w : Walk) (regen : Dword) (r : Request) : Dev :=
  if d.launches.any fun e => runningIn e.2 ctx then
    { d with ctxs := mmod d.ctxs ctx fun c => { c with pending := some ⟨w.regions, w.pages, regen, deniedBody w, r⟩ } }
  else replyTo (install d ctx w.regions w.pages regen) r statusOk (deniedBody w)

/-- Whether a grant of a table is to wait for accesses of a former grant of its page (R82). -/
def grantsWait (d : Dev) (part : Nat) (gs : List (Nat × Nat)) : Bool :=
  (partAt d part).any fun p => p.ceded.any fun c => gs.contains (c.stope, c.page)

/-- LTT_LOAD with a nonzero RegionCount, into a context of a partition or a new one. It waits where granules of evicted
pages are still to come (R71), or accesses to a vault page that it grants (R82). DESIGN CHOICE (log 21). -/
def loadTable (d : Dev) (r : Request) (part : BitVec 4) (ctx : Option Nat) : Dev :=
  let root := bitsOf r.body 255 192
  let count := bitsOf r.body 127 112
  let fail := fun (st : Nat) => replyTo d r st []
  match partAt d part.toNat with
  | none => fail statusDenied
  | some p =>
    if root % 16 ≠ 0 ∨ 768 < count then fail statusMalformed
    else if ctx.isNone ∧ 256 ≤ (contextsOf d part.toNat).length then fail statusNoResource
    else if (match ctx with
      | some c => loadWaits d c
      | none => false) then fail statusRetry
    else match walkTable part.toNat root count (d, ⟨[], [], []⟩) with
      | .error .malformed => fail statusMalformed
      | .error .denied => fail statusDenied
      | .error (.full d) =>
        if (partAt d part.toNat).any fun p => !p.leaving.isEmpty then await d r else fail statusNoResource
      | .ok (d, w) =>
        let m := match ctx with
          | some c => (c, d)
          | none => newContext d part r.context r.function.toNat
        if !tableFits d m.1 p w || !connsFit d m.1 w then fail statusNoResource
        else if grantsWait (collect d part.toNat) part.toNat (grantsOf p w.pages) then await d r
        else finishWalk m.2 m.1 w (BitVec.ofNat 64 (bitsOf r.body 191 128)) r

/-- LTT_INSTALL: once every running launch of the context is held, the new table is in force, and the reply leaves. -/
def installPending (d : Dev) (ctx : Nat) : Dev :=
  match (ctxAt d ctx).bind (·.pending) with
  | none => d
  | some l =>
    if allHeld d ctx then replyTo (install d ctx l.regions l.pages l.regen) l.req statusOk l.reply else d

def execLttInstall (ctx : Nat) (s : State) : Out := .next (setDev s (installPending s.dev ctx))

/-! ## Shoot-downs (R73) -/

/-- The ranges of a shoot-down: first page and pages. -/
def shootRanges (r : Request) : List (Nat × Nat) :=
  (List.range (fieldAt r.body 0 8)).map fun i => (fieldAt r.body (8 + 16 * i + 8) 8 / 2 ^ 21, fieldAt r.body (8 + 16 * i) 8)

/-- Whether a shoot-down's body breaks a rule. -/
def shootBad (r : Request) : Bool :=
  let n := fieldAt r.body 0 8
  r.body.length < 8 || n = 0 || 4096 < n || r.body.length != 8 + 16 * n ||
    (List.range n).any fun i => fieldAt r.body (8 + 16 * i + 8) 8 % 2 ^ 21 != 0 || fieldAt r.body (8 + 16 * i) 8 == 0

/-- Whether ranges cover a page. -/
def covered (rs : List (Nat × Nat)) (n : Nat) : Bool := rs.any fun q => q.1 ≤ n && n < q.1 + q.2

/-- Whether ranges remove a region: a whole one that they touch, or a paged one that they cover wholly. -/
def regionGoes (rs : List (Nat × Nat)) (vr : Nat) (g : LttRegion) : Bool :=
  if g.paged then (List.range 512).all fun k => covered rs (vr * 512 + k)
  else (List.range 512).any fun k => covered rs (vr * 512 + k)

/-- Invalidate ranges of a context's table; what waits on a page that goes fails (R84). A table whose load waits is left
whole. DESIGN CHOICE (log 73). -/
def shootTable (d : Dev) (ctx : Nat) (rs : List (Nat × Nat)) : Dev :=
  match ctxAt d ctx with
  | none => d
  | some c =>
    let gone := (c.pages.filter fun e => covered rs e.1 && e.2.state != 0).map (·.1)
    let back := (c.pages.filter fun e => covered rs e.1).filterMap fun e => e.2.phys
    let vault := match partAt d c.part.toNat with
      | some p => grantsOf p (c.pages.filter fun e => covered rs e.1)
      | none => []
    let d := cede d c.part.toNat ctx vault
    let d := { d with
      ctxs := minsert d.ctxs ctx { c with
        pages := c.pages.map fun e => (e.1, if covered rs e.1 then { e.2 with state := 0, phys := none } else e.2),
        regions := c.regions.filter fun e => !regionGoes rs e.1 e.2 },
      parts := mmod d.parts c.part.toNat fun p => { p with leaving := p.leaving ++ back.map fun g => (g, d.issues) } }
    gone.foldl (fun d n => pageFailed d ctx n) d

end Sys2Proof.Machine
end

