-- ==== Sys2Proof/Machine/Requests.lean ====
section
/-! DEFINITION. The requests that the Foreman serves (spec/01_package.md R14, R17 to R20, R25 to R34;
spec/02_execution.md R41; spec/03_memory_translation.md R69, R73; spec/10_core_state.md R212). -/

namespace Sys2Proof.Machine

/-! ## The checks that every request meets (R16, R25, R26) -/

/-- Whether a request breaks a rule on its header. DESIGN CHOICE (log 19). -/
def headerBad (r : Request) : Bool :=
  r.version != 1 || r.reserved != 0 || 1048576 < r.length.toNat || r.length.toNat != r.body.length ||
    !listedTypes.contains r.type

/-- The types that are not checked by their Auth (R25), and those that the recovery state answers (R16).
DEDUCED (log 20). -/
def authExempt (r : Request) : Bool := r.type == 0x0001 || r.type == 0x0002 || r.type == 0x0012
/-- DEDUCED (log 18). -/
def recoveryType (r : Request) : Bool := r.type == 0x0001 || r.type == 0x0002 || r.type == 0x0003

/-- An answer with an empty body. DEDUCED (log 18). DESIGN CHOICE (log 19). -/
def answer (d : Dev) (r : Request) (status : Nat) : Dev := replyTo d r status []

/-- Serve a request: the answers that its form and the device's state give, or what its type does.
DESIGN CHOICE (log 17, 19). -/
def serve (d : Dev) (r : Request) (k : Dev) : Dev :=
  let form := if headerBad r then answer d r statusMalformed else k
  if !d.foreman.booted then d
  else if 2 ≤ d.foreman.pairsLost then answer d r statusUnavailable
  else if d.foreman.recovery then (if recoveryType r then form else answer d r statusUnavailable)
  else if authExempt r || authHolds d r then form
  else dropRequest d

def isOperator (r : Request) : Bool := endpointOf r == some operatorEnd

/-- Only the operator may send. DESIGN CHOICE (log 19). -/
def withOperator (d : Dev) (r : Request) (k : Dev) : Dev := if isOperator r then k else answer d r statusDenied

/-- A body that breaks a rule is MALFORMED, and nothing changes (R27). DESIGN CHOICE (log 19). -/
def withBody (d : Dev) (r : Request) (bad : Bool) (k : Dev) : Dev := if bad then answer d r statusMalformed else k

/-- The context of the header's partition with an identifier. DESIGN CHOICE (log 35). -/
def contextIn (d : Dev) (part : Nat) (ident : Dword) : Option (Nat × Context) :=
  d.ctxs.find? fun e => e.2.part.toNat == part && e.2.ident == ident

/-- The context that a request names, which its sender must own (R19, R27). DESIGN CHOICE (log 19). -/
def withContext (d : Dev) (r : Request) (k : Nat → Context → Dev) : Dev :=
  if r.context = 0 then answer d r statusMalformed
  else match contextIn d r.partition.toNat r.context with
    | some (n, c) => if c.owner = r.function.toNat then k n c else answer d r statusDenied
    | none => answer d r statusDenied

/-- Whether a request's header names a context of its partition that another function owns (R19). -/
def othersContext (d : Dev) (r : Request) : Bool :=
  r.context != 0 && (contextIn d r.partition.toNat r.context).any fun e => e.2.owner != r.function.toNat

/-- The launch of a handle, whose context its sender must own, as it must one that the header names (R19, R41).
DESIGN CHOICE (log 27). -/
def withHandle (d : Dev) (r : Request) (h : Nat) (k : Nat → Launch → Dev) : Dev :=
  if othersContext d r then answer d r statusDenied
  else match launchByHandle d (BitVec.ofNat 64 h) with
  | none => answer d r statusMalformed
  | some (l, x) => match ctxAt d x.ctx with
    | some c => if c.part.toNat = r.partition.toNat ∧ c.owner = r.function.toNat then k l x else answer d r statusDenied
    | none => answer d r statusDenied

/-- Bytes made to fill a field of n bytes. -/
def fit (n : Nat) (bs : List Byte) : List Byte := (bs ++ List.replicate n 0).take n

def byteAt (bs : List Byte) (i : Nat) : Nat := (bs.getD i 0).toNat

/-- Whether bytes of a body are not all zero. -/
def nonzeroIn (bs : List Byte) (lo n : Nat) : Bool := fieldAt bs lo n != 0

/-! ## IDENTIFY, ATTEST, FIRMWARE_LOAD, SESSION_OPEN (R28 to R31) -/

def identifyBody (d : Dev) : List Byte :=
  let m := d.module
  let cert := m.cert.take 16384
  fit 64 (Config.sha3 Config.identityKey) ++ fit 2592 Config.identityKey ++ natBytes 4 cert.length ++
    natBytes 4 d.foreman.recovery.toNat ++ natBytes 8 (m.sites.getD 0 0 % 2 ^ 34) ++
    natBytes 8 (m.sites.getD 1 0 % 2 ^ 34) ++ natBytes 32 (m.retired.foldl (fun n c => n ||| 2 ^ c) 0) ++
    ((List.range 36).map fun p => mget 0 m.lambdas p) ++
    natBytes 4 (if d.foreman.recovery then 0 else d.foreman.version.toNat) ++ cert

def execIdentify (r : Request) (s : State) : Out :=
  let d := s.dev
  .next (setDev s (serve d r (withBody d r (!r.body.isEmpty) (replyKeyed d none r statusOk (identifyBody d)))))

/-- The quote of R17, without its signature. DESIGN CHOICE (log 33). -/
def quoteBytes (d : Dev) (r : Request) : List Byte :=
  let config := match partAt d (byteAt r.body 32) with
    | some p => Config.sha3 p.assign
    | none => []
  fit 64 d.module.digest ++ fit 64 (if d.foreman.recovery then [] else d.foreman.imageDigest) ++ fit 64 config ++
    r.body.take 32

def attestBad (r : Request) : Bool :=
  r.body.length != 40 || nonzeroIn r.body 33 7 || (11 < byteAt r.body 32 && byteAt r.body 32 != 0xFF)

def execAttest (r : Request) (s : State) : Out :=
  let d := s.dev
  let q := quoteBytes d r
  .next (setDev s (serve d r (withBody d r (attestBad r)
    (replyKeyed d none r statusOk (q ++ fit 4627 (Config.identitySign (Config.sha3 q)))))))

def firmwareBad (r : Request) : Bool :=
  let n := fieldAt r.body 0 4
  r.body.length != 4691 + n || n == 0 || 1043885 < n || nonzeroIn r.body 8 56

/-- Whether the signature of an image holds: over its header and itself (R31). -/
def imageHolds (image : List Byte) : Bool :=
  let n := image.length - 4627
  4691 ≤ image.length && Config.signatureHolds Config.lumturKey (Config.sha3 (image.take n)) (image.drop n)

def loadFirmware (d : Dev) (r : Request) : Dev :=
  if imageHolds r.body then answer { d with module := { d.module with image := r.body } } r statusOk
  else answer d r statusDenied

def execFirmwareLoad (r : Request) (s : State) : Out :=
  let d := s.dev
  .next (setDev s (serve d r (withOperator d r (withBody d r (firmwareBad r) (loadFirmware d r)))))

/-- Whether the three checks of a SESSION_OPEN hold for an endpoint. -/
def sessionHolds (r : Request) (e : Endpoint) : Bool :=
  let key := r.body.take 2592
  fit 64 (Config.sha3 key) == fit 64 e.digest &&
    Config.signatureHolds key (Config.sha3 (requestHeader r r.auth ++ r.body.take 4192)) (r.body.drop 4192) &&
    Config.kemValid ((r.body.drop 2592).take 1568)

/-- Open a session for an endpoint. -/
def openSession (d : Dev) (r : Request) (n : Nat) (e : Endpoint) : Dev :=
  let m := newName d
  let kem := (r.body.drop 2592).take 1568
  let nonce := (r.body.drop 4160).take 32
  let key := Config.sha3 (Config.kemSecret kem m.1 ++ nonce)
  let text := fit 1568 (Config.kemCiphertext kem m.1)
  let d := { m.2 with foreman := { m.2.foreman with
    endpoints := minsert m.2.foreman.endpoints n { e with key := some key, address := r.source } } }
  replyKeyed d (some key) r statusOk (text ++ fit 4627 (Config.identitySign (Config.sha3 (nonce ++ text))))

def execSessionOpen (r : Request) (s : State) : Out :=
  let d := s.dev
  .next (setDev s (serve d r (withBody d r (r.body.length != 8819)
    (match (endpointOf r).bind fun n => (endpointAt d n).map fun e => (n, e) with
     | some (n, e) => if sessionHolds r e then openSession d r n e else answer d r statusDenied
     | none => answer d r statusDenied))))

/-! ## PARTITION_ASSIGN (R18, R20, R32) -/

/-- DESIGN CHOICE (log 30). -/
def assignBad (r : Request) : Bool :=
  let b := r.body
  b.length != 720 || 11 < byteAt b 0 || byteAt b 1 == 0 || 64 < byteAt b 1 || 1 < byteAt b 2 || 7 < byteAt b 3 ||
    nonzeroIn b 4 4 || nonzeroIn b 76 4

/-- The channels that an assignment grants, by 32 · stack + channel. -/
def grantedChannels (r : Request) : List Nat := (List.range 256).filter fun c => (fieldAt r.body 8 32).testBit c

/-- The wavelengths of a port that an assignment grants. -/
def grantedShare (r : Request) (port : Nat) : Byte := r.body.getD (40 + port) 0

/-- Whether a partition has a launch that is not complete. -/
def partBusy (d : Dev) (part : Nat) : Bool := d.launches.any fun e => e.2.part.toNat == part && e.2.state != .complete

/-- Whether a channel, or a wavelength, is retired, or its die lost. -/
def channelGone (d : Dev) (c : Nat) : Bool := d.module.retired.contains c || d.lost.getLsbD (stackDie (c / 32))

def lambdaGone (d : Dev) (port : Nat) : Byte :=
  if d.lost.getLsbD (if port < 18 then 3 else 7) then 0xFF else mget 0 d.module.lambdas port

/-- Whether an assignment asks for what another partition holds, or for what is gone. -/
def assignClash (d : Dev) (part : Nat) (r : Request) : Bool :=
  let others := d.parts.filter fun e => e.1 != part
  (grantedChannels r).any (fun c => channelGone d c || others.any fun e => e.2.channels.contains c) ||
    (List.range 36).any fun p =>
      grantedShare r p &&& (others.foldl (fun m e => m ||| mget 0 e.2.shares p) (lambdaGone d p)) != 0

/-- The spare sites of a half that are left. -/
def spareSites (d : Dev) (half : Nat) : List Nat :=
  (List.range 34).filter fun t => !(d.module.sites.getD half 0).testBit t && !d.badSites.contains (34 * half + t) &&
    !d.sites.any fun e => halfOf e.1 == half && e.2 == t

/-- Put working sites under chosen stopes: a failed one takes a spare of its half, or falls away.
DESIGN CHOICE (log 30). -/
def repairSites : List Nat → Dev → List Nat × Dev
  | [], d => ([], d)
  | s :: r, d =>
    if stopeWorks d s then
      let m := repairSites r d
      (s :: m.1, m.2)
    else match spareSites d (halfOf s) with
      | t :: _ =>
        let e := modStope { d with sites := minsert d.sites s t,
                                   badSites := d.badSites ++ [34 * halfOf s + mget 0 d.sites s] } s
          fun x => { x with failed := false }
        if stopeWorks e s then
          let m := repairSites r e
          (s :: m.1, m.2)
        else repairSites r d
      | [] => repairSites r d

/-- Put a stope into a list by rank, then by number. DESIGN CHOICE (log 30). -/
def rankStope (n : Nat) (s : Nat) : List Nat → List Nat
  | [] => [s]
  | t :: r =>
    if Config.stopeRank n s < Config.stopeRank n t || (Config.stopeRank n s == Config.stopeRank n t && s < t) then
      s :: t :: r
    else t :: rankStope n s r

/-- The stopes that the Foreman chooses for a partition, ascending: of those that no other partition has.
DESIGN CHOICE (log 30). -/
def chooseStopes (d : Dev) (part want : Nat) : List Nat :=
  let free := (List.range 64).filter fun s => (mfind d.sites s).isSome &&
    !d.parts.any fun e => e.1 != part && e.2.stopes.contains s
  let chosen := (free.foldl (fun l s => rankStope d.names s l) []).take want
  (List.range 64).filter chosen.contains

/-- Scrub a stope for its partition: its vault, its banks and its counters. -/
def scrubStope (d : Dev) (s : Nat) : Dev :=
  let d := scrubRange d (vaultLoc s 0) 0xD80000
  let d := { d with arms := d.arms.filter fun e => !(vaultLoc s 0 ≤ e.1 && e.1 < vaultLoc (s + 1) 0) }
  putStope d s { stopeReset with failed := (stopeAt d s).failed }

/-- The granules of a channel. -/
def channelGranules (c : Nat) : List Nat := (List.range 1024).map (1024 * c + ·)

/-- Endpoint entry f of an assignment. -/
def endpointEntry (r : Request) (f : Nat) : List Byte := (r.body.drop (80 + 80 * f)).take 80

/-- An endpoint after an assignment: none where it is disabled; a digest that changes ends the session. -/
def newEndpoint (old : Option Endpoint) (bs : List Byte) : Option Endpoint :=
  if bytesNat bs = 0 then none
  else
    let fresh : Endpoint := { digest := bs.drop 16, key := none, address := BitVec.ofNat 128 (fieldAt bs 0 16) }
    match old with
    | some e => if e.digest = bs.drop 16 then some e else some fresh
    | none => some fresh

def setEndpoint (d : Dev) (n : Nat) (e : Option Endpoint) : Dev :=
  { d with foreman := { d.foreman with endpoints := match e with
      | some e => minsert d.foreman.endpoints n e
      | none => merase d.foreman.endpoints n } }

/-- A partition before its first assignment. -/
def emptyPart : Partition :=
  { stopes := [], channels := [], dmode := false, deflt := 5, stage2 := [], shootGen := 0, shootLog := [],
    shootHold := false, reserve := [], free := [], leaving := [], ceded := [], shares := [], since := 0, seqs := [], assign := [] }

/-- Give a partition the stopes, channels, shares and endpoints of an assignment. -/
def configure (d : Dev) (part : Nat) (r : Request) (stopes : List Nat) : Dev :=
  let old := (partAt d part).getD emptyPart
  let chans := grantedChannels r
  let d := dropWindows d part
  let d := shootChannels d part (old.channels.filter fun c => !chans.contains c) false
  let p := (partAt d part).getD emptyPart
  let p := { p with
    stopes := stopes, channels := chans, dmode := byteAt r.body 2 == 1, deflt := BitVec.ofNat 3 (byteAt r.body 3),
    free := p.free ++ (chans.filter fun c => !old.channels.contains c).flatMap channelGranules,
    shares := (List.range 36).map fun q => (q, grantedShare r q),
    since := d.now, assign := r.body.set 1 (BitVec.ofNat 8 stopes.length) }
  let d := stopes.foldl scrubStope { (newName d).2 with parts := minsert d.parts part p }
  let d := { d with agents := d.agents.filter fun e => e.1 / 8 != part,
                    arms := d.arms.filter fun e => e.2.part.toNat != part || placeIn d part e.1 }
  let d := (List.range 8).foldl (fun d f =>
    setEndpoint d (8 * part + f) (newEndpoint (endpointAt d (8 * part + f)) (endpointEntry r f))) d
  fillReserve part (min (8 - p.reserve.length) p.free.length) d

/-- Whether accesses of a partition are under way outside its launches: fired operations, and late writes.
DEDUCED (log 28). -/
def partLeft (d : Dev) (part : Nat) : Bool :=
  (d.fabric.any fun e => e.2.part == part) ||
    d.late.any fun o => (ctxAt d o.ctx).any fun c => c.part.toNat == part

/-- A resize shoots channels down, which completes only after the accesses that are under way (R32, R71): the request
waits for them. DESIGN CHOICE (log 30). -/
def assign (d : Dev) (r : Request) : Dev :=
  let part := byteAt r.body 0
  if partBusy d part || assignClash d part r then answer d r statusNoResource
  else if partLeft d part then await d r
  else
    let m := repairSites (chooseStopes d part (byteAt r.body 1)) d
    if m.1.isEmpty then answer d r statusNoResource
    else replyTo (configure m.2 part r m.1) r statusOk (natBytes 8 m.1.length)

def execPartitionAssign (r : Request) (s : State) : Out :=
  let d := s.dev
  .next (setDev s (serve d r (withOperator d r (withBody d r (assignBad r) (assign d r)))))

/-! ## Releases, and replies that wait (R32, R73) -/

/-- End a partition whose launches are complete. -/
def endPartition (d : Dev) (part : Nat) : Dev :=
  let d := (contextsOf d part).foldl (fun d c => endContext (installPending d c) c) d
  let d := match partAt d part with
    | some p => p.stopes.foldl scrubStope d
    | none => d
  let d := (List.range 8).foldl (fun d f => setEndpoint d (8 * part + f) none) d
  let d := dropWindows d part
  { d with parts := merase d.parts part, agents := d.agents.filter fun e => e.1 / 8 != part }

/-- Carry a release of a partition on: the device, and whether it is complete. -/
def releasePart (d : Dev) (part : Nat) : Dev × Bool :=
  let d := (contextsOf d part).foldl cancelContext d
  if (contextsOf d part).all (contextIdle d) then (endPartition d part, true) else (d, false)

/-- Carry a release of a context on. -/
def releaseContext (d : Dev) (ctx : Nat) : Dev × Bool :=
  let d := cancelContext d ctx
  if contextIdle d ctx then (endContext (installPending d ctx) ctx, true) else (d, false)

/-- Carry on what a waiting request asks for: the device, and whether its reply is due. DEDUCED (log 28). -/
def carryOn (d : Dev) (w : Waiting) : Dev × Bool :=
  let r := w.req
  if r.type = 0x0011 then releasePart d (byteAt r.body 0)
  else if r.type = 0x0032 then
    (d, !(launchByHandle d (BitVec.ofNat 64 (fieldAt r.body 0 8))).any fun e => writesLeft d e.2.ctx w.mark)
  else match contextIn d r.partition.toNat r.context with
    | none => (d, true)
    | some (n, _) => if r.type = 0x0020 then releaseContext d n
      else (d, !accessesLeft d n w.mark fun va _ => va.all fun a => covered (shootRanges r) (pageNum a))

/-- Whether a request that waits is a load of a table. -/
def isTableLoad (r : Request) : Bool := r.type == 0x0020 && bitsOf r.body 127 112 != 0

def noLonger (d : Dev) (w : Waiting) : Dev :=
  { d with foreman := { d.foreman with waiting := d.foreman.waiting.erase w } }

/-- Whether a request that waits accesses the memory of a context: LAUNCH, MEM_READ or MEM_WRITE, SNAPSHOT_READ or
SNAPSHOT_WRITE. -/
def usesMemory (r : Request) : Bool := [0x0030, 0x0040, 0x0041, 0x0050, 0x0051].any (r.type == ·)

/-- Carry the waiting requests on, in order. -/
def serveWaiting (d : Dev) : Dev :=
  d.foreman.waiting.foldl (fun d w =>
    if usesMemory w.req then d
    else if w.req.type = 0x0010 then assign (noLonger d w) w.req
    else if isTableLoad w.req then
      loadTable (noLonger d w) w.req (BitVec.ofNat 4 w.req.partition.toNat)
        ((contextIn d w.req.partition.toNat w.req.context).map (·.1))
    else
      let m := carryOn d w
      if m.2 then answer (noLonger m.1 w) w.req statusOk else m.1) d

def releaseBad (d : Dev) (r : Request) : Bool :=
  r.body.length != 8 || nonzeroIn r.body 1 7 || (partAt d (byteAt r.body 0)).isNone

def execPartitionRelease (r : Request) (s : State) : Out :=
  let d := s.dev
  .next (setDev s (serve d r (withOperator d r (withBody d r (releaseBad d r) (serveWaiting (await d r))))))

/-! ## Tables (R69, R73) -/

/-- Whether the body of an LTT_LOAD breaks a rule. -/
def loadBad (r : Request) : Bool := r.body.length != 32 || bitsOf r.body 111 0 != 0

/-- LTT_LOAD: RegionCount 0 releases the context; else its table is loaded, and the context is made where it is new. -/
def loadOrRelease (d : Dev) (r : Request) : Dev :=
  let count := bitsOf r.body 127 112
  if r.context = 0 then answer d r statusMalformed
  else match contextIn d r.partition.toNat r.context with
    | some (n, c) =>
      if c.owner ≠ r.function.toNat then answer d r statusDenied
      else withBody d r (loadBad r)
        (if count = 0 then serveWaiting (await d r) else loadTable d r c.part (some n))
    | none =>
      if (partAt d r.partition.toNat).isNone then answer d r statusDenied
      else withBody d r (loadBad r || count == 0) (loadTable d r (BitVec.ofNat 4 r.partition.toNat) none)

/-- DESIGN CHOICE (log 21). -/
def execLttLoad (r : Request) (s : State) : Out := .next (setDev s (serve s.dev r (loadOrRelease s.dev r)))

def execContextRelease (r : Request) (s : State) : Out := .next (setDev s (serve s.dev r (loadOrRelease s.dev r)))

def execLttShootdown (r : Request) (s : State) : Out :=
  let d := s.dev
  .next (setDev s (serve d r (withContext d r fun n _ =>
    withBody d r (shootBad r) (serveWaiting (await (shootTable d n (shootRanges r)) r)))))

/-! ## Launches (R41) -/

/-- LAUNCH; it waits while a scoreboard holds what the queue reads (R297). -/
def launchRequest (d : Dev) (r : Request) : Dev :=
  withContext d r fun n c =>
    withBody d r (r.body.length != 256)
      (if enqueueHeld d c.part n r.function.toNat r.body then await d r
       else match enqueueLaunch d c.part n r.function.toNat false r.body with
       | .error st => answer d r st
       | .ok (l, d) => replyTo d r statusOk (natBytes 8 (match launchAt d l with
         | some x => (handleOf x).toNat
         | none => 0)))

def execLaunchRequest (r : Request) (s : State) : Out := .next (setDev s (serve s.dev r (launchRequest s.dev r)))

/-- The state that LAUNCH_STATUS returns. -/
def launchState (x : Launch) : Nat :=
  match x.state with
  | .queued => 0
  | .running | .preempting => 1
  | .preempted => 2
  | .complete => 3

def statusBody (x : Launch) : List Byte :=
  natBytes 8 (launchState x) ++ match x.outcome with
    | some o => completionBytes o
    | none => List.replicate 32 0

def execLaunchStatus (r : Request) (s : State) : Out :=
  let d := s.dev
  .next (setDev s (serve d r (withBody d r (r.body.length != 8)
    (withHandle d r (fieldAt r.body 0 8) fun _ x => replyTo d r statusOk (statusBody x)))))

/-- LAUNCH_CANCEL: but for a running launch that is cancelled without Force, the reply waits until the completion is
written. -/
def cancelRequest (d : Dev) (r : Request) : Dev :=
  let force := byteAt r.body 8 == 1
  withBody d r (r.body.length != 16 || 1 < fieldAt r.body 8 8)
    (withHandle d r (fieldAt r.body 0 8) fun l x =>
      if force && launchState x == 1 then
        cancelLaunch (modLaunch d l fun x => { x with waiters := x.waiters ++ [r] }) l true
      else if launchState x == 1 then answer (cancelLaunch d l false) r statusOk
      else answerWritten (cancelLaunch d l false) x.ctx r)

def execLaunchCancel (r : Request) (s : State) : Out := .next (setDev s (serve s.dev r (cancelRequest s.dev r)))

def execLaunchCancelForce (r : Request) (s : State) : Out := .next (setDev s (serve s.dev r (cancelRequest s.dev r)))

/-! ## MEM_READ and MEM_WRITE (R33) -/

def memBad (d : Dev) (r : Request) (c : Context) (write : Bool) : Bool :=
  let n := fieldAt r.body 8 4
  let st := byteAt r.body 12
  let count := match partAt d c.part.toNat with
    | some p => p.stopes.length
    | none => 0
  r.body.length != (if write then 16 + n else 16) || n == 0 || (if write then 1048560 else 1048576) < n ||
    nonzeroIn r.body 13 3 || (if st = 0xFF then !write else count ≤ st)

/-- The launch that stands for a request's accesses: a gang-relative vault is that of a stope of the partition. -/
def requestLaunch (d : Dev) (c : Context) (ctx : Nat) : Launch :=
  { guestLaunch c.part.toNat ctx with gang := match partAt d c.part.toNat with
      | some p => p.stopes
      | none => [] }

/-- A page of a request's range is filled first, where it is a refetch page: none where no granule is left.
DESIGN CHOICE (log 34). -/
def fillFirst (right : Right) (d : Dev) (ctx page : Nat) (x : Launch) (stope : Nat) : Option Dev :=
  match xlate d x stope .fetch right (BitVec.ofNat 64 (page * 2 ^ 21)), pageOf d ctx page with
  | .page _, some e =>
    if e.state ≠ 3 then some d
    else
      let part := x.part.toNat
      let d := takeReserve (if e.phys.isNone ∧ (partAt d part).any (·.reserve.isEmpty) then fillReserve part 1 d else d)
        part ctx page
      if (pageOf d ctx page).any (·.phys.isNone) then none else some (fillPage d ctx page x stope)
  | _, _ => some d

/-- The pages of a range of bytes. -/
def rangePages (va : Dword) (n : Nat) : List Nat :=
  (List.range ((va.toNat + n - 1) / 2 ^ 21 - va.toNat / 2 ^ 21 + 1)).map (va.toNat / 2 ^ 21 + ·)

/-- DESIGN CHOICE (log 34). -/
def fillRange (right : Right) (d : Dev) (ctx : Nat) (va : Dword) (n : Nat) (x : Launch) (stope : Nat) : Option Dev :=
  (rangePages va n).foldl (fun d p => d.bind fun d => fillFirst right d ctx p x stope) (some d)

/-- The places of a request's bytes against each of some stopes: an error is the first failing address. -/
def rangePlaces (d : Dev) (x : Launch) (right : Right) (va : Dword) (n : Nat) : List Nat → Except Dword (List (List Nat))
  | [] => .ok []
  | st :: r =>
    match placeBytes d x st .fetch right va n with
    | .error e => .error e.2
    | .ok ls => match rangePlaces d x right va n r with
      | .ok ps => .ok (ls :: ps)
      | .error e => .error e

/-- Whether a fill that a request needs waits for a scoreboard (R297). -/
def rangeFillHeld (right : Right) (d : Dev) (ctx : Nat) (va : Dword) (n : Nat) (x : Launch) (stope : Nat) : Bool :=
  (rangePages va n).any fun p => match xlate d x stope .fetch right (BitVec.ofNat 64 (p * 2 ^ 21)), pageOf d ctx p with
    | .page _, some e => e.state == 3 && fillHeld d ctx p x stope
    | _, _ => false

/-- The first byte of a request's range on a die of a set, and the place in the range. -/
def lostByte (d : Dev) (stope : Nat) (ls : List Nat) : Option Nat :=
  ls.findIdx? fun l => diesAt stope [l] &&& d.lost != 0

/-- The dies that a request touches, by the stopes against which it is translated (R86). -/
def requestDies (sts : List Nat) (ps : List (List Nat)) : Byte :=
  (sts.zip ps).foldl (fun b p => b ||| diesAt p.1 p.2) 0

/-- MEM_READ or MEM_WRITE in a context; it waits while a scoreboard holds a granule of its range, or a fill that it needs
(R297), and a byte on a lost die denies it (R86). DESIGN CHOICE (log 34). -/
def memRequest (d : Dev) (r : Request) (ctx : Nat) (c : Context) (write : Bool) : Dev :=
  let va := BitVec.ofNat 64 (fieldAt r.body 0 8)
  let n := fieldAt r.body 8 4
  let x := requestLaunch d c ctx
  let sts := if byteAt r.body 12 = 0xFF then x.gang else [x.gang.getD (byteAt r.body 12) 0]
  let right := if write then Right.write else .read
  if rangeFillHeld right d ctx va n x (sts.getD 0 0) then await d r
  else match fillRange right d ctx va n x (sts.getD 0 0) with
  | none => answer d r statusNoResource
  | some d =>
    let d := settle d
    match rangePlaces d x right va n sts with
    | .error a => replyTo d r statusDenied (natBytes 8 a.toNat)
    | .ok ps =>
      let held := ps.any fun ls => if write then lateHeld d (granulesOf ls) else readHeld d ls
      if held then await d r
      else
      let d := touchDies d ctx (requestDies sts ps)
      match (sts.zip ps).findSome? fun p => lostByte d p.1 p.2 with
      | some i => replyTo d r statusDenied (natBytes 8 (va.toNat + i))
      | none =>
      if write then
        let d := ps.foldl (fun d ls =>
          { d with mem := writeCells d.mem (cellsAt ls (r.body.drop 16)),
                   tags := tagAll tagZero (granulesOf ls) d.tags }) d
        answer (settle d) r statusOk
      else replyTo d r statusOk ((ps.getD 0 []).map (readByte d.mem))

def memAccess (d : Dev) (r : Request) (write : Bool) : Dev :=
  withContext d r fun n c => withBody d r (memBad d r c write) (memRequest d r n c write)

def execMemRead (r : Request) (s : State) : Out := .next (setDev s (serve s.dev r (memAccess s.dev r false)))

def execMemWrite (r : Request) (s : State) : Out := .next (setDev s (serve s.dev r (memAccess s.dev r true)))

/-! ## SNAPSHOT_READ and SNAPSHOT_WRITE (R212) -/

/-- The task of a launch that a snapshot request names, with its snapshot: in State 7, or the faulting task of a launch
that completed FAULTED. DESIGN CHOICE (log 27). -/
def namedSnap (d : Dev) (x : Launch) (i : Nat) : Option (Task × Snap) :=
  match mfind x.tasks i with
  | none => none
  | some t =>
    let faulted : Bool := match x.outcome with
      | some o => o.status == statusFaulted && o.task == some i
      | none => false
    if t.state = .snapshot ∨ faulted then t.snap.map fun sn => (t, snapNow d x t sn) else none

/-- Whether the read of a named snapshot waits for a scoreboard (R297). -/
def namedHeld (d : Dev) (x : Launch) (i : Nat) : Bool :=
  (mfind x.tasks i).any fun t => t.snap.any fun sn => snapHeld d x t sn

/-- The snapshot, then the latch image. -/
def snapBytes (sn : Snap) : List Byte :=
  imageBytes sn.plevel sn.core sn.latch ++
    match sn.latch.inHandler, sn.core.latch with
    | true, some l => latchBytes l
    | _, _ => List.replicate imageSize 0

def snapshotRead (d : Dev) (r : Request) : Dev :=
  withBody d r (r.body.length != 16 || nonzeroIn r.body 12 4)
    (withHandle d r (fieldAt r.body 0 8) fun _ x =>
      if namedHeld d x (fieldAt r.body 8 4) then await d r
      else match namedSnap d x (fieldAt r.body 8 4) with
      | some q => replyTo d r statusOk (snapBytes q.2)
      | none => answer d r statusMalformed)

def execSnapshotRead (r : Request) (s : State) : Out := .next (setDev s (serve s.dev r (snapshotRead s.dev r)))

/-- Whether an entry of an image breaks a rule: its reserved bits, its Remain, its register. DESIGN CHOICE (log 26). -/
def imageEntryBad (bs : List Byte) (off : Nat) : Bool :=
  let t := fieldAt bs (off + 128) 16
  bitField t 40 88 != 0 || bitField t 0 22 != 0 || 63 < bitField t 32 8 ||
    (t.testBit 31 && numbersIn (fileOfCode (BitVec.ofNat 2 (bitField t 28 2))) ≤ bitField t 22 6)

/-- Whether the latched part of an image breaks a rule. DESIGN CHOICE (log 26). -/
def latchedBad (bs : List Byte) : Bool :=
  let h := fieldAt bs 0 64
  bitField h 128 30 != 0 || bitField h 16 68 != 0 ||
    ((List.range 16).any fun i => fieldAt bs (0x2400 + 8 * i) 8 % 2 ^ 26 != 0) ||
    ((List.range 128).any fun n => imageEntryBad bs (landingOff n)) ||
    (List.range 64).any fun n => imageEntryBad bs (inflightOff n)

/-- The system registers of an image with the bits that their registers keep (R123, R148, R206, R207). -/
def sysFields : List (Nat × Nat) :=
  [(0x3C0, 0x1F), (0x3C8, 7), (0x3D8, 0x301FF), (0x3E0, 2 ^ 48 - 1), (0x3E8, 0x1FFFF), (0x3F8, 2 ^ 32 - 1)]

/-- Whether a reserved bit of a system register is set in an image. DESIGN CHOICE (log 26). -/
def sysBad (bs : List Byte) : Bool := sysFields.any fun e => fieldAt bs e.1 8 &&& e.2 != fieldAt bs e.1 8

/-- Whether the latched part of an image is of version 1 and breaks no rule. -/
def versionBad (bs : List Byte) : Bool := bitField (fieldAt bs 0 64) 0 16 != 1 || latchedBad bs

/-- Whether the images of a SNAPSHOT_WRITE break a rule. DESIGN CHOICE (log 26). -/
def imagesBad (bs ls : List Byte) : Bool :=
  versionBad bs || sysBad bs || (if (fieldAt bs 0 64).testBit 165 then versionBad ls else bytesNat ls != 0)

def snapshotWrite (d : Dev) (r : Request) : Dev :=
  let bs := (r.body.drop 16).take imageSize
  let ls := r.body.drop (16 + imageSize)
  let i := fieldAt r.body 8 4
  withBody d r (r.body.length != 16 + 2 * imageSize || nonzeroIn r.body 12 4)
    (withHandle d r (fieldAt r.body 0 8) fun l x =>
      if namedHeld d x i then await d r
      else match namedSnap d x i with
      | none => answer d r statusMalformed
      | some (t, sn) =>
        if t.state ≠ .snapshot ∨ imagesBad bs ls then answer d r statusMalformed
        else
          let sn := snapOfImages sn bs ls
          let w := writeImages d x i sn false
          answer (modTask w.2 l i fun t => { t with snap := some { sn with stored := w.1 } }) r statusOk)

def execSnapshotWrite (r : Request) (s : State) : Out := .next (setDev s (serve s.dev r (snapshotWrite s.dev r)))

/-- The requests that wait for a scoreboard are looked at again, in order. -/
def serveMemory (d : Dev) : Dev :=
  (d.foreman.waiting.filter fun w => usesMemory w.req).foldl (fun d w =>
    let r := w.req
    let d := noLonger d w
    if r.type = 0x0030 then launchRequest d r
    else if r.type = 0x0050 then snapshotRead d r
    else if r.type = 0x0051 then snapshotWrite d r
    else memAccess d r (r.type == 0x0041)) d

/-! ## TELEMETRY (R34) -/

/-- Whether a body breaks a rule: an op other than 0 to 3, or a byte that is to be zero. DESIGN CHOICE (log 35). -/
def telemetryBad (r : Request) : Bool :=
  let op := fieldAt r.body 0 4
  let k := byteAt r.body 8
  r.body.length != 32 || 3 < op || nonzeroIn r.body 4 4 || nonzeroIn r.body 9 23 ||
    (if op = 1 then k < 10 || 20 < k else k != 0)

/-- DESIGN CHOICE (log 62). -/
def logBytes (e : LogEntry) : List Byte :=
  natBytes 8 e.time ++ natBytes 2 e.kind ++ natBytes 2 0 ++ natBytes 4 e.part ++ fit 48 e.detail

/-- The log entries not yet reported to a requester, with their places: all for the operator, else its partition's.
DESIGN CHOICE (log 35). -/
def newLogs (d : Dev) (who : Nat) : List (LogEntry × Nat) :=
  (d.foreman.logs.zipIdx.drop (mget 0 d.foreman.reported who)).filter fun e =>
    who == operatorEnd || e.1.part == who / 8

/-- The reply to op 0, and the device after it. DESIGN CHOICE (log 35). -/
def telemetryStatus (d : Dev) (r : Request) (who : Nat) : Dev :=
  let new := newLogs d who
  let es := new.take 16383
  let energy := if who = operatorEnd then Config.partitionEnergy none 0 d.now
    else Config.partitionEnergy (some (who / 8)) (match partAt d (who / 8) with
      | some p => p.since
      | none => 0) d.now
  let f := d.foreman
  let body := natBytes 8 d.now ++ natBytes 1 d.power.grant.toNat ++ natBytes 1 d.power.level.toNat ++
    natBytes 1 d.power.fb.toNat ++ natBytes 1 (decide (es.length < new.length)).toNat ++ natBytes 4 d.power.highest ++
    natBytes 8 f.unsupported ++ natBytes 8 f.authDrops ++ natBytes 8 f.sampleDrops ++ natBytes 8 f.lateEntries ++
    natBytes 8 energy.toNat ++ natBytes 4 es.length ++ natBytes 4 0 ++ es.flatMap fun e => logBytes e.1
  let seen := match es.getLast? with
    | some e => e.2 + 1
    | none => mget 0 f.reported who
  replyTo { d with foreman := { f with reported := minsert f.reported who seen } } r statusOk body

def modCtx (d : Dev) (ctx : Nat) (f : Context → Context) : Dev := { d with ctxs := mmod d.ctxs ctx f }

/-- Sampling of a context at an exponent, with the ring that it has; 0 stops it. DESIGN CHOICE (log 81). -/
def setSampling (d : Dev) (r : Request) (ctx k : Nat) : Dev :=
  answer (modCtx d ctx fun c => { c with sampling := match c.sampling with
    | some q => some { q with k := k, spent := 0 }
    | none => some ⟨k, [], 0, 0⟩ }) r statusOk

/-- Drain up to 32,767 of a context's oldest samples. -/
def drainSamples (d : Dev) (r : Request) (ctx : Nat) (c : Context) : Dev :=
  let q := c.sampling.getD ⟨0, [], 0, 0⟩
  let out := q.ring.take 32767
  let body := natBytes 8 out.length ++ natBytes 8 q.dropped ++ out.flatMap (fit 32)
  replyTo (modCtx d ctx fun c => { c with sampling := some { q with ring := q.ring.drop 32767, dropped := 0 } }) r statusOk
    body

/-- The context that ops 1 to 3 act on: the sender's own, or any for the operator. -/
def withSampled (d : Dev) (r : Request) (k : Nat → Context → Dev) : Dev :=
  if isOperator r then
    (if r.context = 0 then answer d r statusMalformed
     else match ctxOf d r.context with
       | some (n, c) => k n c
       | none => answer d r statusDenied)
  else withContext d r k

/-- A TELEMETRY request, by its op. DESIGN CHOICE (log 35). -/
def telemetry (d : Dev) (r : Request) : Dev :=
  withBody d r (telemetryBad r)
    (match fieldAt r.body 0 4 with
     | 0 => (match endpointOf r with
       | some who => if othersContext d r then answer d r statusDenied else telemetryStatus d r who
       | none => answer d r statusDenied)
     | 1 => withSampled d r fun n _ => setSampling d r n (byteAt r.body 8)
     | 2 => withSampled d r fun n _ => setSampling d r n 0
     | _ => withSampled d r fun n c => drainSamples d r n c)

def execTelemetryStatus (r : Request) (s : State) : Out := .next (setDev s (serve s.dev r (telemetry s.dev r)))
def execTelemetryStartSampling (r : Request) (s : State) : Out := .next (setDev s (serve s.dev r (telemetry s.dev r)))
def execTelemetryStopSampling (r : Request) (s : State) : Out := .next (setDev s (serve s.dev r (telemetry s.dev r)))
def execTelemetryDrainSamples (r : Request) (s : State) : Out := .next (setDev s (serve s.dev r (telemetry s.dev r)))

/-! ## UNSUPPORTED_PACKET (R14) -/

/-- A packet of an unsupported delivery mode is dropped and counted, once the ports are open. -/
def dropPacket (d : Dev) : Dev :=
  if d.foreman.booted then { d with foreman := { d.foreman with unsupported := d.foreman.unsupported + 1 } } else d

def execUnsupportedPacket (_m : UetMode) (s : State) : Out := .next (setDev s (dropPacket s.dev))

end Sys2Proof.Machine
end

