-- ==== Sys2Proof/Machine/Failures.lean ====
section
/-! DEFINITION. Boot, and what fails: a checked pair, a stope, an HBM channel, a die (spec/01_package.md R15, R16, R20 to
R24; spec/03_memory_translation.md R85, R86). -/

namespace Sys2Proof.Machine

/-! ## BOOT (R16) -/

/-- The enabled sites of a half, ascending. -/
def enabledSites (m : Module) (half : Nat) : List Nat := (List.range 34).filter fun t => (m.sites.getD half 0).testBit t

/-- The sites under the logical stopes: those enabled, in ascending order (R9). -/
def bootSites (m : Module) : SMap Nat :=
  [0, 1].flatMap fun h => ((enabledSites m h).take 32).zipIdx.map fun e => (32 * h + e.2, e.1)

/-- The ports, with the retired wavelengths of the module record. -/
def bootPorts (m : Module) : SMap Port :=
  m.lambdas.map fun e =>
    let lanes := (List.range 8).map fun i => if e.2.getLsbD i then { laneReset with state := .retired } else laneReset
    (e.1, { portReset with rx := lanes, tx := lanes })

/-- The device as its dies leave reset: the module record, the place in the system, the switch groups and the counts
that name things stay. DESIGN CHOICE (log 31). -/
def coldDevice (d : Dev) : Dev :=
  { devReset with module := d.module, boots := d.boots + 1, names := d.names, issues := d.issues,
                  groups := d.groups.map fun e => (e.1, { e.2 with flip := false }),
                  foreman := { foremanReset with package := d.foreman.package, system := d.foreman.system } }

/-- Enter the recovery state. -/
def recover (d : Dev) : Dev := { d with foreman := { d.foreman with booted := true, recovery := true } }

/-- Steps 4 and 5: sites, retired wavelengths; the failed dies are logged and stay in reset. ND0 boots the device.
DESIGN CHOICE (log 31). -/
def releaseDies (d : Dev) (failed : Byte) : Dev :=
  let lost := failed &&& ~~~(dieBit 3)
  let d := { d with sites := bootSites d.module, ports := bootPorts d.module, lost := lost,
                    foreman := { d.foreman with pairsLost := (lost.getLsbD 7).toNat } }
  ((List.range 8).filter lost.getLsbD).foldl (fun d i => addLog d 0 noPart (detail [i])) d

/-- Step 6: the Foreman starts from the image in flash, with the operator's endpoint registered. -/
def startForeman (d : Dev) : Dev :=
  let image := d.module.image
  { d with foreman := { d.foreman with
      booted := true, version := BitVec.ofNat 32 (fieldAt image 4 4),
      imageDigest := Config.sha3 ((image.take (image.length - 4627)).drop 64),
      endpoints := minsert d.foreman.endpoints operatorEnd { digest := d.module.operator, key := none, address := 0 } } }

/-- DESIGN CHOICE (log 31). -/
def bootDevice (d : Dev) (failed : Byte) : Dev :=
  let m := d.module
  let c := coldDevice d
  if !Config.seedDerived c.boots || !Config.signatureHolds Config.lumturKey m.digest m.sign then recover c
  else
    let c := releaseDies c failed
    if imageHolds m.image then startForeman c else recover c

def execBoot (failed : BitVec 8) (s : State) : Out := .next { s with dev := bootDevice s.dev failed, clause := none }

/-! ## CHECKED_PAIR_TAKEOVER (R15) -/

/-- The pair that runs the Foreman: 0 on ND0, 1 on ND1. -/
def activePair (d : Dev) : Nat := if d.foreman.pairsLost = 0 ∨ d.lost.getLsbD 7 then 0 else 1

/-- Every request that waits is answered. DESIGN CHOICE (log 29). -/
def answerWaiting (d : Dev) (status : Nat) : Dev :=
  let rs := d.foreman.waiting.map (·.req) ++ (d.launches.flatMap fun e => e.2.waiters) ++
    d.ctxs.filterMap fun e => e.2.pending.map (·.req)
  let d := rs.foldl (fun d r => answer d r status) d
  { d with foreman := { d.foreman with waiting := [] },
           launches := d.launches.map fun e => (e.1, { e.2 with waiters := [] }),
           ctxs := d.ctxs.map fun e => (e.1, { e.2 with pending := none }) }

/-- The pair that runs the Foreman stops; the other takes over, where it has not stopped itself.
DESIGN CHOICE (log 29). -/
def takeover (d : Dev) : Dev :=
  if !d.foreman.booted || 2 ≤ d.foreman.pairsLost then d
  else
    let n := d.foreman.pairsLost + 1
    let d := addLog d 9 noPart (detail [activePair d])
    let d := { d with foreman := { d.foreman with pairsLost := n } }
    answerWaiting d (if n < 2 then statusRetry else statusUnavailable)

/-- DESIGN CHOICE (log 29). -/
def execCheckedPairTakeover (s : State) : Out := .next (setDev s (takeover s.dev))

/-! ## STOPE_FAILURE (R21) -/

def execStopeFailure (stope : BitVec 6) (s : State) : Out := .next (setDev s (failStope s.dev stope.toNat))

/-! ## HBM_CHANNEL_RETIREMENT (R22) -/

/-- The ranges of a context that a channel's retirement affects: virtual base and length. DESIGN CHOICE (log 33). -/
def affectedRanges (p : Partition) (chan : Nat) (c : Context) : List (Nat × Nat) :=
  let gs := granulesOn p [chan]
  (hitRegions gs c).map (fun n => (n * 2 ^ 30, 2 ^ 30)) ++
    (c.pages.filter fun e => pageFrom gs [] e.2 || (match e.2.phys with
      | some g => channelOf g == chan
      | none => false)).map fun e => (e.1 * 2 ^ 21, 2 ^ 21)

/-- Log each affected range of a partition's contexts. DESIGN CHOICE (log 33). -/
def logAffected (d : Dev) (part : Nat) (p : Partition) (chan : Nat) : Dev :=
  (contextsOf d part).foldl (fun d k => match ctxAt d k with
    | some c => (affectedRanges p chan c).foldl (fun d q => addLog d 2 part (detail [c.ident.toNat, q.1, q.2])) d
    | none => d) d

/-- Take channels from a partition: their granules are shot down, and pages that may be evicted take their Fallback
state. -/
def loseChannels (d : Dev) (part : Nat) (chans : List Nat) : Dev :=
  let d := shootChannels d part chans true
  { d with parts := mmod d.parts part fun p => { p with channels := p.channels.filter fun c => !chans.contains c } }

/-- DESIGN CHOICE (log 33). -/
def retireChannel (d : Dev) (chan : Nat) : Dev :=
  if d.module.retired.contains chan then d
  else
    let d := { d with module := { d.module with retired := d.module.retired ++ [chan] } }
    let d := addLog d 2 noPart (detail [chan])
    let d := d.parts.foldl (fun d e => logAffected d e.1 e.2 chan) d
    d.parts.foldl (fun d e => loseChannels d e.1 [chan]) d

def execHbmChannelRetirement (stack : BitVec 3) (chan : BitVec 5) (s : State) : Out :=
  .next (setDev s (settle (retireChannel s.dev (32 * stack.toNat + chan.toNat))))

/-- The channels that have reported an uncorrectable error are retired (R22), unless a loader holds shoot-downs (R71).
-/
def retireErred (d : Dev) : Dev :=
  if d.erred.isEmpty || d.parts.any (fun e => e.2.shootHold) then d
  else settle (d.erred.foldl (fun d l => retireChannel d ((l - 2 ^ 40) / 2 ^ 31)) { d with erred := [] })

/-! ## Inputs (R235, R348, R349, R357) -/

/-- Whether an entry of a check window reads memory: an atomic, but for an APCHASE with an invalid control word, or a store that writes an error-correction granule in
part. -/
def readsMemory : WindowOp → Bool
  | .atomic a => a.fn != .apchase || !chaseBad a.x
  | .store cs => (granulesOf (cs.map (·.1))).any fun g => (cs.filter fun e => granuleOf e.1 == g).length < 32
  | .agentStore _ _ _ | .arm _ _ | .continuation _ _ _ _ | .copy _ | .fabric _ | .launch _ => false

/-- Where an entry of a check window meets an uncorrectable error: at a free choice among the places it reads where it
reads a list, else at its own. DESIGN CHOICE (log 68). -/
def errorPlace (d : Dev) (w : WindowItem) : Option Nat :=
  match w.op with
  | .atomic a =>
    let ps := windowPlaces w.op ++ (walkPlaces d.mem a.fn a.loc a.va a.x).map (·.1)
    ps[if walks a.fn then Config.errorAt w.word % ps.length else 0]?
  | .store _ | .agentStore _ _ _ | .arm _ _ | .continuation _ _ _ _ | .copy _ | .fabric _ | .launch _ =>
    (windowPlaces w.op).head?

/-- The entry that leaves a core's window next meets an uncorrectable error: it stores nothing, and its launch ends
FAULTED with ACCESS_TYPE and the task (R58, R235). DESIGN CHOICE (log 68). -/
def windowError (d : Dev) (k : Nat) : Dev :=
  let c := coreAt d k
  match c.window, c.run with
  | w :: ws, some r =>
    if !readsMemory w.op || !canLeave d c w.word w then d
    else stopLaunch (logError (putCore d k { c with window := ws }) (partOfLaunch d r.launch) (errorPlace d w))
      r.launch ⟨some r.task, causeAccess, 0, some c, handlerLatch c, statusFaulted⟩
  | _, _ => d

/-- The Foreman sets a port's threshold and depths, each within its bounds (R348, R349). -/
def setPort (d : Dev) (n thr park wake : Nat) : Dev :=
  if n < 36 && 1 ≤ thr && thr ≤ 2 ^ 20 && park < wake then
    putPort d n { portAt d n with thr := thr, park := park, wake := wake }
  else d

/-- The Foreman configures a group: a new group's generation bit is 0 (R357). -/
def setGroup (d : Dev) (g : Nat) (members : List Nat) : Dev :=
  { d with groups := minsert d.groups g ⟨members, (mfind d.groups g).any (·.flip)⟩ }

/-- What an input does. DESIGN CHOICE (log 16, 68). -/
def takeInput (d : Dev) (x : Input) : Dev :=
  match x with
  | .windowError core => windowError d (coreNum core)
  | .failingArrival pkt => packetArrival d pkt true
  | .merged g ident rank count op => takeMerged d g.toNat ident rank count op
  | .portSettings port thr park wake => setPort d port.toNat thr park wake
  | .farParking port wake =>
    if portLives d port.toNat then putPort d port.toNat (farParking (portAt d port.toNat) wake) else d
  | .peerDown context package => peerDown d context package
  | .configureGroup g members => setGroup d g.toNat members
  | .system xs => { d with foreman := { d.foreman with system := xs } }

/-! ## DIE_LOSS (R24) -/

/-- Every task of a context is to trap DIE_LOST at its next clause. DEDUCED (log 32). -/
def tellContext (d : Dev) (ctx die : Nat) : Dev :=
  (d.launches.filter fun e => e.2.ctx == ctx && e.2.state != .queued && e.2.state != .complete).foldl (fun d e =>
    e.2.tasks.foldl (fun d t =>
      if t.2.state == .exited || t.2.state == .faulted then d
      else notify d e.1 t.1 causeDieLost (BitVec.ofNat 64 die)) d) d

/-- Tasks that run on a lost control die stop their launches (R58, R214); then the stopes of its half fail.
DEDUCED (log 32). -/
def loseControl (d : Dev) (half : Nat) : Dev :=
  let d := (d.cores.filter fun e => halfOf (stopeOf e.1) == half).foldl (fun d e => match e.2.run with
    | some r => stopLaunch d r.launch ⟨some r.task, causeDieLost, 0, none, none, statusFaulted⟩
    | none => d) d
  ((List.range 32).map (32 * half + ·)).foldl failStope d

/-- The channels of a network die are retired (R22, R24), and its checked pair stops; with ND0 the calibration of ND1
stays as it is (R156). DEDUCED (log 32). -/
def loseNetwork (d : Dev) (die : Nat) : Dev :=
  let chans := (List.range 128).map ((if die = 3 then 0 else 128) + ·)
  let d := chans.foldl retireChannel d
  let d := if die = 3 then { d with dies := minsert d.dies 7 (dieTime d 7) } else d
  if activePair d = die / 4 then takeover d
  else { d with foreman := { d.foreman with pairsLost := max d.foreman.pairsLost 1 } }

/-- DEDUCED (log 32). -/
def loseDie (d : Dev) (die : Nat) : Dev :=
  if d.lost.getLsbD die then d
  else
    let d := if die % 4 = 3 then loseNetwork d die else d
    let d := { d with lost := d.lost ||| dieBit die }
    let d := (d.ctxs.filter fun e => e.2.dmask.getLsbD die).foldl (fun d e => tellContext d e.1 die) d
    if die % 4 = 0 then loseControl d (die / 4) else d

def execDieLoss (die : BitVec 3) (s : State) : Out := .next (setDev s (settle (loseDie s.dev die.toNat)))

end Sys2Proof.Machine
end

