-- ==== Sys2Proof/Machine/Clauses.lean ====
section
/-! DEFINITION. Fetching and checking a clause (spec/09_encoding.md R173 to R178). -/

namespace Sys2Proof.Machine

/-- What a fetch of a clause finds: its words; or the failing word, with its cause or its page. -/
inductive Fetched where
  | words (ws : List Word)
  | trap (cause : Nat) (va : Va)
  | page (num : Nat) (va : Va)
  deriving DecidableEq, Repr

/-- Fetch words from an address up to the first whose chain bit is 0, at most n (R175, R177). -/
def fetchWords (d : Dev) (x : Launch) (stope : Nat) : Nat → Va → Fetched
  | 0, _ => .words []
  | n + 1, a =>
    match xlate d x stope .fetch .read (a.setWidth 64) with
    | .trap c => .trap c a
    | .page p => .page p a
    | .place p =>
      match locOf p with
      | none => .trap causeAccess a
      | some l =>
        let w : Word := BitVec.ofNat 32 (readN d.mem l 4)
        if w.getLsbD 31 then
          match fetchWords d x stope n (a + 4) with
          | .words ws => .words (w :: ws)
          | .trap c v => .trap c v
          | .page p v => .page p v
        else .words [w]

/-- The places in memory of the words that a fetch reads. -/
def fetchPlaces (d : Dev) (x : Launch) (stope : Nat) : Nat → Va → List Nat
  | 0, _ => []
  | n + 1, a =>
    match xlate d x stope .fetch .read (a.setWidth 64) with
    | .trap _ | .page _ => []
    | .place p =>
      match locOf p with
      | none => []
      | some l => l :: if (readByte d.mem (l + 3)).getLsbD 7 then fetchPlaces d x stope n (a + 4) else []

/-- The bits of sr.dmask that the fetch of the clause at a core's pc sets (R86). -/
def fetchDies (d : Dev) (k : Nat) (x : Launch) : Byte :=
  diesAt (stopeOf k) (fetchPlaces d x (stopeOf k) 6 (coreAt d k).pc)

/-- Whether the fetch waits for an engine that writes a word of the clause (R202, R297). -/
def fetchWaits (d : Dev) (k : Nat) (x : Launch) : Bool :=
  (fetchPlaces d x (stopeOf k) 6 (coreAt d k).pc).any (byteBlocks d (7 * d.issues + 1) false)

/-- The pipes (R177). -/
inductive Pipe where
  | s | a | v | m | n
  deriving DecidableEq, Repr

def pipeOf (w : Word) : Pipe :=
  let m := (w.extractLsb' 26 5).toNat
  if m ≤ 8 ∨ m = 28 then .s else if m ≤ 13 then .a else if m ≤ 20 then .v else if m ≤ 23 then .m else .n

def pipeLimit : Pipe → Nat
  | .v => 2
  | .s | .a | .m | .n => 1

/-- A word of a clause with its address and its place. -/
structure Placed where
  addr  : Va
  slot  : Nat
  pipe  : Pipe
  instr : Instr
  deriving DecidableEq, Repr

/-- The checks of R178, in address order: the cause and the address of the first failure, or the decoded words. -/
def checkWords (before : List Pipe) (slot : Nat) (a : Va) : List Word → Except (Nat × Va) (List Placed)
  | [] => .ok []
  | w :: ws =>
    match decode w with
    | .error _ => .error (causeIllegalOpcode, a)
    | .ok (chain, i) =>
      let p := pipeOf w
      if (before.filter (· == p)).length + 1 > pipeLimit p ∨ (slot = 5 ∧ chain) then .error (causeIllegalClause, a)
      else match checkWords (p :: before) (slot + 1) (a + 4) ws with
        | .ok ps => .ok (⟨a, slot, p, i⟩ :: ps)
        | .error e => .error e

end Sys2Proof.Machine
end

