-- ==== Sys2Proof/Machine/ArrayWords.lean ====
section
/-! DEFINITION. The array words of majors 21 to 23 and the events of the array (spec/17_array_instructions.md R302 to
R315; spec/16_array_machine.md R289 to R301). -/

namespace Sys2Proof.Machine

/-! ## The lease (R291, R304) -/

/-- MLEASE: with no other core's lease and no request waiting, the grant comes before the next clause; else a request
waits, and the clause holds until its grant. DEDUCED (log 36). -/
def execMlease (s : State) : Out :=
  let c := src s
  let x := stopeAt s.dev (stopeOf s.cur)
  let q := s.cur % 4
  if c.leaseOk then .next (modLive s fun c => { c with leaseOk := false })
  else if c.leaseReq then hold s
  else if x.leaseQ.isEmpty && (x.holder == none || x.holder == some q) then
    let s := setDev s (modStope s.dev (stopeOf s.cur) fun x => { x with holder := some q })
    .next (modLive s fun c => { c with lease := true, leaseRem := 64 })
  else hold (onBase s fun d => requestLease d s.cur)

def execMrel (s : State) : Out := .next (if (src s).lease then setDev s (endLease s.dev s.cur) else s)

/-! ## Offsets and status (R305, R306) -/

def execMofs (d : BitVec 3) (a : RegNum) (t : Bool) (s : State) : Out :=
  withSources s [gSrc s a t]
    (.next (modLive s fun c => writeNow c .o d.toNat (wordId s) ((readG (src s) a).setWidth 1024)))

/-- Whether a counted word of a task on a bank has yet to complete. DEDUCED (log 37). -/
def bankBusy (d : Dev) (stope b l i : Nat) : Bool :=
  (stopeAt d stope).arrayQ.any fun c => c.bank == b && c.issue.launch == l && c.issue.task == i

/-- The status word of a bank, for a task. DEDUCED (log 37). -/
def bankStatus (d : Dev) (stope b l i : Nat) : Dword :=
  let x := bankAt d stope b
  let own := match x.owner with
    | none => 0
    | some o => if o = (l, i) then 1 else 2
  BitVec.ofNat 64 (own * 256 + x.flags.toNat)

/-- The status word of the lease. -/
def leaseStatus (c : Core) : Dword :=
  if c.lease then BitVec.ofNat 64 (128 + c.leaseRem.toNat) else 0

def execMstat (d : RegNum) (k : MstatSel) (s : State) : Out :=
  match k with
  | .lease => .next (issueG s d 2 (leaseStatus (src s)))
  | .offset r => withSources s [oSrc r false] (.next (issueG s d 2 (readO (src s) r.toNat)))
  | .bank b =>
    match (src s).run with
    | none => hold s
    | some r =>
      let st := stopeOf s.cur
      let v := releaseBank s.dev st b.toNat
      if bankBusy v st b.toNat r.launch r.task || bankPending v st b.toNat r.launch r.task then hold s
      else .next (issueG (setDev s v) d 2 (bankStatus v st b.toNat r.launch r.task))

/-! ## Counted words (R303) -/

/-- Check 2 of R303. -/
def withLease (s : State) (k : Out) : Out := checked s (!(src s).lease) causeLease ((wordAddr s).setWidth 64) k

/-- The gloss word at sr.gpc (R194), with its checks (R193); MMAW refuses Synth 0. A page that a regeneration launch may
not touch is absent (R55). -/
def withGloss (s : State) (wide : Bool) (k : State → Word → Out) : Out :=
  withLaunch s fun x =>
    let va : Dword := (src s).gpc.setWidth 64
    let range := trap s causeGloss va
    if (src s).gpc.toNat % 4 ≠ 0 then range
    else match xlate s.dev x (stopeOf s.cur) .fetch .read va with
      | .trap c => if c = causeAbsent ∧ foreignRegen s.dev x va then trap s causeAbsent va else range
      | .page n => touchPage s n va
      | .place p =>
        match locOf p with
        | none => range
        | some l =>
          if byteBlocks (srcDev s) (wordId s) false l then hold s
          else withDies s (diesOf (stopeOf s.cur) p) fun s =>
            let g : Word := BitVec.ofNat 32 (readN s.dev.mem l 4)
            checked s (glossBad g || (wide && glSynth g == 0)) causeFormat va (k s g)

/-- Check 4 of R303, with a hold while the task's own restore of the bank waits (R290). -/
def withBank (s : State) (b : Nat) (k : State → Running → Launch → Out) : Out :=
  withLaunch s fun x =>
    match (src s).run with
    | none => hold s
    | some r =>
      let st := stopeOf s.cur
      let s := setDev s (releaseBank s.dev st b)
      if bankPending s.dev st b r.launch r.task then hold s
      else checked s (bankTaken s.dev st b r.launch r.task) causeLease ((wordAddr s).setWidth 64) (k s r x)

/-- The bit of the array die of a stope's half (R86). -/
def arrayDie (stope : Nat) : Byte := dieBit (4 * halfOf stope + 2)

/-- Issue a counted word: the bank is the task's, a word of the lease is used, and the command joins the array's queue
with its scoreboard entries. -/
def issueCmd (s : State) (r : Running) (x : Launch) (b : Nat) (op : ArrayOp) (entries : List (Nat × Nat × Bool)) : State :=
  let st := stopeOf s.cur
  let n := newName s.dev
  let d := useLease (claimBank n.2 st b r.launch r.task x.ctx) s.cur
  let d := entries.foldl (fun d e => takeEntry d st n.1 (wordId s) e.1 e.2.1 e.2.2) d
  setDev s (modStope d st fun q =>
    { q with arrayQ := q.arrayQ ++ [⟨n.1, issueOf s x r.task, x.ctx, b, op, false⟩] })

def execMclr (k : BitVec 2) (s : State) : Out :=
  withLease s
    (withBank s k.toNat fun s r x =>
      withDies s (arrayDie (stopeOf s.cur)) fun s => .next (issueCmd s r x k.toNat .clear []))

/-! ## Products (R308, R310) -/

/-- An offset register after its use (R295). -/
def stepOffset (x : Dword) : Dword :=
  let cnt := bitField x.toNat 58 6
  let lim := bitField x.toNat 52 6
  let wrap := lim != 0 && lim ≤ cnt + 1
  let u : BitVec 24 := x.setWidth 24
  let u' := if wrap then u + (x.extractLsb' 24 16).signExtend 24 else u + (x.extractLsb' 40 12).signExtend 24
  let cnt' : BitVec 6 := if wrap then 0 else BitVec.ofNat 6 (cnt + 1)
  cnt' ++ (x.extractLsb' 24 34 ++ u')

/-- Post-increment the offset registers of a product; one that both fields name, once (R295). -/
def bumpOffsets (s : State) (x y : BitVec 3) : State :=
  let c := src s
  let bump := fun (s : State) (o : BitVec 3) =>
    modLive s fun q => writeNow q .o o.toNat (wordId s) ((stepOffset (readO c o.toNat)).setWidth 1024)
  if x = y then bump s x else bump (bump s x) y

/-- The three ranges of vault bytes that a product reads (R296). -/
def productRanges (q : Product) : List (Nat × Nat × Bool) :=
  let range := fun (xs : List Int) (n : Nat) => (span (xs.map (·.toNat))).map fun r => (r.1, r.2 + n - 1, false)
  [range ((wGrid q).map fun e => weightAt q e.1 e.2) (blockBytes (glWf q.g)),
   range ((wGrid q).map fun e => entryAt q e.1 e.2) 8,
   range ((aGrid q).map fun e => actAt q e.1 e.2) (actBytes q.g)].filterMap id

/-- The register pair of an even number. -/
def pairAt (p : BitVec 5) (k : Nat) : RegNum := BitVec.ofNat 6 (2 * p.toNat + k)

def matrix (w a : BitVec 5) (x y : BitVec 3) (t wide : Bool) (s : State) : Out :=
  let c := src s
  let g := fun p k => readG c (pairAt p k)
  withSources s [gSrc s (pairAt w 0) t, gSrc s (pairAt w 1) t, gSrc s (pairAt a 0) t, gSrc s (pairAt a 1) t,
      oSrc x t, oSrc y t]
    (withLease s
      (withGloss s wide fun s gl =>
        withBank s (glBank gl) fun s r l =>
          let uw : BitVec 24 := (readO c x.toNat).setWidth 24
          let ua : BitVec 24 := (readO c y.toNat).setWidth 24
          let q := productOf (g w 0) (g w 1) (g a 0) (g a 1) uw ua gl wide
          match productFault s.dev l.ctx (stopeOf s.cur) q with
          | some e => trap s e.1 e.2
          | none =>
            withDies s (arrayDie (stopeOf s.cur)) fun s =>
              if boardFree s.dev (stopeOf s.cur) < 3 then hold s
              else
                let op := ArrayOp.mma (g w 0) (g w 1) (g a 0) (g a 1) uw ua gl wide
                let s := issueCmd s r l (glBank gl) op (productRanges q)
                let s := modLive s fun c => { c with gpc := c.gpc + 4 }
                .next (advance (bumpOffsets s x y))))

def execMma (w a : BitVec 5) (x y : BitVec 3) (t : Bool) (s : State) : Out := matrix w a x y t false s

def execMmaw (w a : BitVec 5) (x y : BitVec 3) (t : Bool) (s : State) : Out := matrix w a x y t true s

/-! ## Drains (R312, R313) -/

/-- The range of vault bytes that a drain writes. -/
def drainRange (q : DrainDesc) (f : DrainFmt) : List (Nat × Nat × Bool) :=
  match span ((grid q.rows q.cols).map fun e => drainOff q f e.1 e.2) with
  | some r => [(r.1, r.2 + drainSize f - 1, true)]
  | none => []

def execMdrain (p : BitVec 5) (k : BitVec 2) (r : Rnd) (f : DrainFmt) (t : Bool) (s : State) : Out :=
  let c := src s
  let d0 := readG c (pairAt p 0)
  let d1 := readG c (pairAt p 1)
  withSources s [gSrc s (pairAt p 0) t, gSrc s (pairAt p 1) t]
    (withLease s
      (withBank s k.toNat fun s run x =>
        match drainFault s.dev x.ctx (stopeOf s.cur) d0 d1 f with
        | some e => trap s e.1 e.2
        | none =>
          withDies s (arrayDie (stopeOf s.cur)) fun s =>
            if boardFree s.dev (stopeOf s.cur) < 1 then hold s
            else .next (advance (issueCmd s run x k.toNat (.drain d0 d1 (rndMode c r) c.seed f)
              (drainRange (drainDesc d0 d1) f)))))

/-! ## Events -/

/-- LEASE_GRANT: the request placed first gets the lease (R291). -/
def execLeaseGrant (stope : BitVec 6) (s : State) : Out := .next (setDev s (grantLease s.dev stope.toNat))

def execMatrixCommandStart (stope : BitVec 6) (s : State) : Out :=
  .next (if stopeFrozen s.dev stope.toNat then s else setDev s (startCmd s.dev stope.toNat))

/-- An element of a bank that cannot be corrected: the launch that owns the bank faults, with bank and element logged
(R300). DEDUCED (log 63). -/
def bankError (d : Dev) (stope b el : Nat) : Dev :=
  match (bankAt d stope b).owner with
  | none => d
  | some (l, i) =>
    let d := addLog d 4 (match launchAt d l with
      | some x => x.part.toNat
      | none => noPart) (detail [b, el])
    stopLaunch d l ⟨some i, causeAccess, 0, none, none, statusFaulted⟩

/-- The command at work ends: it completes, or it meets an element that cannot be corrected and is dropped.
DEDUCED (log 63). -/
def endCmd (d : Dev) (stope : Nat) (ue : Option (BitVec 14)) : Dev :=
  match ue, (stopeAt d stope).arrayQ with
  | some el, c :: _ => if c.started then bankError (dropCmd d stope c.id) stope c.bank el.toNat else d
  | _, _ => finishCmd d stope

/-- MATRIX_COMMAND_COMPLETE, where the array does not stand still (R202): repeats of a step change no result; four
parity errors in a row report the stope (R300). -/
def execMatrixCommandComplete (stope : BitVec 6) (parity : List ParityError) (ue : Option (BitVec 14)) (s : State) :
    Out :=
  if stopeFrozen s.dev stope.toNat then .next s
  else
    let d := endCmd s.dev stope.toNat ue
    .next (setDev s (if parity.any (fun e => 4 ≤ e.times) then reportStope d stope.toNat else d))

def execBankRelease (stope : BitVec 6) (bank : BitVec 2) (s : State) : Out :=
  .next (setDev s (releaseBank s.dev stope.toNat bank.toNat))

def execBankRestore (stope : BitVec 6) (bank : BitVec 2) (s : State) : Out :=
  .next (setDev s (restoreBank s.dev stope.toNat bank.toNat))

end Sys2Proof.Machine
end

