-- ==== Sys2Proof/Machine/Atomics.lean ====
section
/-! DEFINITION. The atomics of major 11 (spec/12_core_memory_atomics.md R240 to R247). -/

namespace Sys2Proof.Machine

/-! ## What every atomic does at issue (R241) -/

/-- How an atomic form differs from the others. -/
structure AtomForm where
  fn      : AtomFn
  scope   : Scope
  order   : Order
  half    : Bool
  /-- Alignment, and the bytes of the granules it touches. -/
  align   : Nat
  bytes   : Nat
  hbm     : Bool
  /-- Whether D-mode rules it out (R109). -/
  ruled   : Bool
  /-- Result registers: the first, and how many. -/
  first   : Nat
  results : Nat
  flags   : Flags

/-- The result registers of an atomic are empty from issue on. -/
def claimResults (s : State) (d n : Nat) : State :=
  (List.range n).foldl (fun s i => issueLoad s .g (d + i) 63 (.result i)) s

/-- Memory as a word of the core that moves finds it: with the stores and atomics of its core before it (R90, R91).
DEDUCED (log 15). -/
def memSeen (s : State) : Memory :=
  ((live s).window.foldl (fun d w => match w.op with
    | .store cs => { d with mem := writeCells d.mem cs }
    | .atomic a => (performAtomic d (stopeOf s.cur) a).2.2
    | .agentStore _ _ _ | .arm _ _ | .continuation _ _ _ _ | .copy _ | .fabric _ | .launch _ => d) s.dev).mem

/-- The granules that an atomic accesses, as memory shows them at issue, with their addresses. DEDUCED (log 15). -/
def atomGranules (s : State) (q : AtomForm) (p : Place) (va x : Dword) (link : Option (Nat × Dword)) : SMap Dword :=
  addGranules (granulesAt p va q.bytes) (link.toList ++ (match locOf p with
    | some loc => if walks q.fn then walkPlaces (memSeen s) q.fn loc (va.setWidth 48) x else []
    | none => []))

/-- An atomic whose second address, where it has one, lies in the page of the first. -/
def atomic (s : State) (q : AtomForm) (va : Dword) (x y z w : Dword) (link : Option Dword) : Out :=
  withPlace s ⟨.coreAtomic, .atomic, va, q.align, true, true⟩ fun p =>
    checked s (q.hbm && (match p with
      | .hbm _ => false
      | .vault _ _ | .remote _ _ | .reduction _ _ | .host _ _ | .agent _ _ | .sysreg _ => true)) causeAccess va
    (withLink s va link fun loc2 =>
      inDmode s q.ruled
        (match locOf p with
         | none => .next s
         | some loc =>
           let gs := atomGranules s q p va x (link.map fun e => (loc2, e))
           withRace s gs true true fun s =>
             withDies s (diesOf (stopeOf s.cur) p) fun s =>
               let walked := if walks q.fn then (gs.map (·.1), (live s).epoch) else ([], 0)
               let s := if releases q.order then advance s else s
               let task := match (live s).run with
                 | some r => r.task
                 | none => 0
               let s := claimResults s q.first q.results
               let s := modLive s fun c => { c with fflags := c.fflags ||| q.flags }
               let s := enqueue s (.atomic
                 { fn := q.fn, loc := loc, va := va.setWidth 48, half := q.half, x := x, y := y, z := z, w := w,
                   scope := q.scope, order := q.order, task := BitVec.ofNat 24 task,
                   epoch := (live s).epoch, loc2 := loc2, checked := walked.1, began := walked.2 })
               .next s))
where
  /-- The checks of AENQ's element (R246). -/
  withLink (s : State) (va : Dword) (link : Option Dword) (k : Nat → Out) : Out :=
    match link with
    | none => k 0
    | some e =>
      withPlace s ⟨.coreAtomic, .atomic, e, 8, true, true⟩ fun p =>
        checked s (e.toNat / 2 ^ 21 != va.toNat / 2 ^ 21) causeAccess e
          (match locOf p with
           | some l => k l
           | none => .next s)

/-- A form of one memory word with the operand g(d). -/
def atomicWord (s : State) (fn : AtomFn) (d a : RegNum) (t : Bool) (sc : Scope) (o : Order) (half ruled : Bool)
    (results : Nat) : Out :=
  let c := src s
  let n := if half then 4 else 8
  let fl := match fn with
    | .fmin | .fmax => snanFlag ((readG c d).setWidth 32)
    | .ald | .ast | .add | .and | .or | .xor | .min | .max | .minu | .maxu | .swap | .fadd | .acas | .acas2 | .aenq
    | .apchase => 0
  withSources s [gSrc s a t, gSrc s d t]
    (atomic s ⟨fn, sc, o, half, n, n, false, ruled, d.toNat, results, fl⟩ (readG c a) (readG c d) 0 0 0 none)

/-! ## The words -/

def execAld (d a : RegNum) (t : Bool) (sc : Scope) (o : Order) (z : Bool) (s : State) : Out :=
  let n := if z then 4 else 8
  withSources s [gSrc s a t]
    (atomic s ⟨.ald, sc, o, z, n, n, false, false, d.toNat, 1, 0⟩ (readG (src s) a) 0 0 0 0 none)

def execAst (d a : RegNum) (t : Bool) (sc : Scope) (o : Order) (z : Bool) (s : State) : Out :=
  atomicWord s .ast d a t sc o z false 0

def execAtomAdd (d a : RegNum) (t : Bool) (sc : Scope) (o : Order) (z : Bool) (s : State) : Out :=
  atomicWord s .add d a t sc o z true 1

def execAtomAnd (d a : RegNum) (t : Bool) (sc : Scope) (o : Order) (z : Bool) (s : State) : Out :=
  atomicWord s .and d a t sc o z true 1

def execAtomOr (d a : RegNum) (t : Bool) (sc : Scope) (o : Order) (z : Bool) (s : State) : Out :=
  atomicWord s .or d a t sc o z true 1

def execAtomXor (d a : RegNum) (t : Bool) (sc : Scope) (o : Order) (z : Bool) (s : State) : Out :=
  atomicWord s .xor d a t sc o z true 1

def execAtomMin (d a : RegNum) (t : Bool) (sc : Scope) (o : Order) (z : Bool) (s : State) : Out :=
  atomicWord s .min d a t sc o z true 1

def execAtomMax (d a : RegNum) (t : Bool) (sc : Scope) (o : Order) (z : Bool) (s : State) : Out :=
  atomicWord s .max d a t sc o z true 1

def execAtomMinu (d a : RegNum) (t : Bool) (sc : Scope) (o : Order) (z : Bool) (s : State) : Out :=
  atomicWord s .minu d a t sc o z true 1

def execAtomMaxu (d a : RegNum) (t : Bool) (sc : Scope) (o : Order) (z : Bool) (s : State) : Out :=
  atomicWord s .maxu d a t sc o z true 1

def execAtomSwap (d a : RegNum) (t : Bool) (sc : Scope) (o : Order) (z : Bool) (s : State) : Out :=
  atomicWord s .swap d a t sc o z true 1

def execAtomFadd (d a : RegNum) (t : Bool) (sc : Scope) (o : Order) (s : State) : Out :=
  atomicWord s .fadd d a t sc o true true 1

def execAtomFmin (d a : RegNum) (t : Bool) (sc : Scope) (o : Order) (s : State) : Out :=
  atomicWord s .fmin d a t sc o true true 1

def execAtomFmax (d a : RegNum) (t : Bool) (sc : Scope) (o : Order) (s : State) : Out :=
  atomicWord s .fmax d a t sc o true true 1

def execAredAdd (d a : RegNum) (t : Bool) (sc : Scope) (o : Order) (z : Bool) (s : State) : Out :=
  atomicWord s .add d a t sc o z false 0

def execAredAnd (d a : RegNum) (t : Bool) (sc : Scope) (o : Order) (z : Bool) (s : State) : Out :=
  atomicWord s .and d a t sc o z false 0

def execAredOr (d a : RegNum) (t : Bool) (sc : Scope) (o : Order) (z : Bool) (s : State) : Out :=
  atomicWord s .or d a t sc o z false 0

def execAredXor (d a : RegNum) (t : Bool) (sc : Scope) (o : Order) (z : Bool) (s : State) : Out :=
  atomicWord s .xor d a t sc o z false 0

def execAredMin (d a : RegNum) (t : Bool) (sc : Scope) (o : Order) (z : Bool) (s : State) : Out :=
  atomicWord s .min d a t sc o z false 0

def execAredMax (d a : RegNum) (t : Bool) (sc : Scope) (o : Order) (z : Bool) (s : State) : Out :=
  atomicWord s .max d a t sc o z false 0

def execAredMinu (d a : RegNum) (t : Bool) (sc : Scope) (o : Order) (z : Bool) (s : State) : Out :=
  atomicWord s .minu d a t sc o z false 0

def execAredMaxu (d a : RegNum) (t : Bool) (sc : Scope) (o : Order) (z : Bool) (s : State) : Out :=
  atomicWord s .maxu d a t sc o z false 0

def execAredFadd (d a : RegNum) (t : Bool) (sc : Scope) (o : Order) (s : State) : Out :=
  atomicWord s .fadd d a t sc o true true 0

def execAredFmin (d a : RegNum) (t : Bool) (sc : Scope) (o : Order) (s : State) : Out :=
  atomicWord s .fmin d a t sc o true false 0

def execAredFmax (d a : RegNum) (t : Bool) (sc : Scope) (o : Order) (s : State) : Out :=
  atomicWord s .fmax d a t sc o true false 0

/-- The even register of a pair field, and the register after it (R182). -/
def pairReg (d : BitVec 5) : RegNum := d.setWidth 6 <<< 1

def quadReg (d : BitVec 4) : RegNum := d.setWidth 6 <<< 2

/-- ACAS compares with g(d), and stores g(d + 1) (R245). -/
def execAcas (d : BitVec 5) (a : RegNum) (t : Bool) (sc : Scope) (o : Order) (z : Bool) (s : State) : Out :=
  let c := src s
  let r := pairReg d
  let n := if z then 4 else 8
  withSources s [gSrc s a t, gSrc s r t, gSrc s (r + 1) t]
    (atomic s ⟨.acas, sc, o, z, n, n, false, true, r.toNat, 1, 0⟩ (readG c a) (readG c r) (readG c (r + 1)) 0 0 none)

/-- ACAS2 compares two words with g(d) and g(d + 1), and stores g(d + 2) and g(d + 3) (R245). -/
def execAcas2 (d : BitVec 4) (a : RegNum) (t : Bool) (sc : Scope) (o : Order) (s : State) : Out :=
  let c := src s
  let r := quadReg d
  withSources s [gSrc s a t, gSrc s r t, gSrc s (r + 1) t, gSrc s (r + 2) t, gSrc s (r + 3) t]
    (atomic s ⟨.acas2, sc, o, false, 16, 16, false, true, r.toNat, 2, 0⟩ (readG c a) (readG c r) (readG c (r + 1))
      (readG c (r + 2)) (readG c (r + 3)) none)

def execAenq (d a : RegNum) (t : Bool) (sc : Scope) (o : Order) (s : State) : Out :=
  let c := src s
  withSources s [gSrc s a t, gSrc s d t]
    (atomic s ⟨.aenq, sc, o, false, 16, 16, true, true, d.toNat, 1, 0⟩ (readG c a) (readG c d) 0 0 0
      (some (readG c d)))

def execApchase (d a : RegNum) (t : Bool) (sc : Scope) (o : Order) (s : State) : Out :=
  let c := src s
  withSources s [gSrc s a t, gSrc s d t]
    (atomic s ⟨.apchase, sc, o, false, 8, 8, true, true, d.toNat, 1, 0⟩ (readG c a) (readG c d) 0 0 0 none)

end Sys2Proof.Machine
end

