-- ==== Sys2Proof/Machine/FabricWords.lean ====
section
/-! DEFINITION. The fabric words of majors 26 and 27 (spec/23_fabric_instructions.md R363 to R379) and the events of the
fabric engine. -/

namespace Sys2Proof.Machine

/-! ## The control word (R364) -/

/-- Size codes that a function allows. -/
def sizeCodes (f : FabFn) : List Nat :=
  match f with
  | .load | .store => [0, 1, 2, 3, 4, 5]
  | .add | .and | .or | .xor | .min | .max | .swap | .cas | .redAdd | .redAnd | .redOr | .redXor | .redMin | .redMax =>
    [0, 5]
  | .redFadd | .redFmin | .redFmax => [5]
  | .ticket | .trig => [0, 1, 2, 3, 4, 5]

/-- Order codes that a function allows. -/
def orderCodes (f : FabFn) : List Nat :=
  match f with
  | .load => [0, 1, 4]
  | .store | .redAdd | .redAnd | .redOr | .redXor | .redMin | .redMax | .redFadd | .redFmin | .redFmax => [0, 2, 4]
  | .add | .and | .or | .xor | .min | .max | .swap | .cas | .ticket | .trig => [0, 1, 2, 3, 4]

/-- Whether a control word breaks a rule that needs no target. -/
def ctlBad (f : FabFn) (cw : Dword) : Bool :=
  bitField cw.toNat 59 5 != 0 || bitField cw.toNat 48 2 != 0 || bitField cw.toNat 0 3 != 0 ||
    !(sizeCodes f).contains (bitField cw.toNat 50 3) || !(orderCodes f).contains (bitField cw.toNat 53 3)

/-- Whether a control word breaks a rule for a target type: Notify, and the sizes of agent space and of windows. -/
def ctlBadFor (f : FabFn) (cw : Dword) (target : Nat) : Bool :=
  let size := ctlSize cw
  (ctlNotify cw && target != 3 && target != 4) || (target == 6 && (f == .load || f == .store) && size != 8) ||
    (target == 4 && f == .store && size != 8 && size != 4)

/-- Whether a control word breaks a rule for the entry that an address leads to, whose rights come after it (R365). -/
def ctlBadAt (d : Dev) (l : Launch) (f : FabFn) (cw va : Dword) : Bool := (targetOf d l va).any (ctlBadFor f cw)

def isRed (f : FabFn) : Bool :=
  match f with
  | .redAdd | .redAnd | .redOr | .redXor | .redMin | .redMax | .redFadd | .redFmin | .redFmax => true
  | .load | .store | .add | .and | .or | .xor | .min | .max | .swap | .cas | .ticket | .trig => false

def isRat (f : FabFn) : Bool :=
  match f with
  | .add | .and | .or | .xor | .min | .max | .swap | .cas => true
  | .load | .store | .redAdd | .redAnd | .redOr | .redXor | .redMin | .redMax | .redFadd | .redFmin | .redFmax | .ticket
  | .trig => false

def isAgent : Place → Bool
  | .agent _ _ => true
  | .vault _ _ | .hbm _ | .remote _ _ | .reduction _ _ | .host _ _ | .sysreg _ => false

def isWindow : Place → Bool
  | .reduction _ _ => true
  | .vault _ _ | .hbm _ | .remote _ _ | .agent _ _ | .host _ _ | .sysreg _ => false

def isRemote : Place → Bool
  | .remote _ _ => true
  | .vault _ _ | .hbm _ | .reduction _ _ | .agent _ _ | .host _ _ | .sysreg _ => false

/-- Whether D-mode rules a function out at a target (R109, R370, R371). -/
def fabRuled (f : FabFn) (p : Place) : Bool := isRat f || (f == .redFadd && !isWindow p)

/-- Who makes an access of a function, and the right it needs (R67). -/
def fabUser (f : FabFn) : User :=
  match f with
  | .store | .redAdd | .redAnd | .redOr | .redXor | .redMin | .redMax | .redFadd | .redFmin | .redFmax => .fabricReduce
  | .load | .add | .and | .or | .xor | .min | .max | .swap | .cas | .ticket => .fabric
  | .trig => .trig

def fabRight (f : FabFn) : Right :=
  match f with
  | .load => .read
  | .store => .write
  | .add | .and | .or | .xor | .min | .max | .swap | .cas | .redAdd | .redAnd | .redOr | .redXor | .redMin | .redMax
  | .redFadd | .redFmin | .redFmax | .ticket | .trig => .atomic

/-! ## Holds and the queue (R366, R367) -/

/-- Whether a task has fabric operations that are not complete. -/
def fabPending (d : Dev) (l i : Nat) : Bool :=
  d.fabric.any fun e => e.2.post.isNone && e.2.issue.launch == l && e.2.issue.task == i

/-- Whether a word waits: for loads, stores and atomics where it releases (R92, R366), for fabric operations too with
system scope, and for room in the queue of 32. -/
def fabHeld (s : State) (release system : Bool) : Bool :=
  let c := src s
  let l := match c.run with
    | some r => r.launch
    | none => 0
  let waiting := (c.window.filter fun w => match w.op with
    | .fabric _ => true
    | .store _ | .agentStore _ _ _ | .atomic _ | .arm _ _ | .continuation _ _ _ _ | .copy _ | .launch _ => false).length
  (release && (storesLeft c || loadsBefore c (wordId s) || (system && fabPending s.dev l (taskOf s)))) ||
    32 ≤ c.fabricQ.length + waiting

/-- Issue an operation: its result register is empty, the epoch advances, and it waits for its check window; an acquire
holds the next clause (R365 to R367). -/
def issueFab (s : State) (r : FabRec) (file : RegFile) (d : Nat) : State :=
  let m := newName s.dev
  let s := setDev s { m.2 with fabric := minsert m.2.fabric m.1 r }
  let s := if r.result.isSome then issueLoad s file d 63 .none else s
  let s := if acquires r.order then modLive s fun c => { c with opGate := c.opGate ++ [m.1] } else s
  advance (enqueue s (.fabric m.1))

/-- An operation of the task that runs, without its target. -/
def newFab (s : State) (x : Launch) (op : FabOp) (va : Dword) (scope : Scope) (order : Order) : FabRec :=
  { issue := issueOf s x (taskOf s), part := x.part.toNat, ctx := x.ctx, op := op, va := va, counterVa := 0,
    dest := .here, loc := none, result := none, counter := none, scope := scope, order := order,
    seqNo := none, post := none, holder := none, sets := [] }

/-- Go on with the place of a counter at an address; none for address 0. -/
def withCounterAt (s : State) (va : Dword) (k : Option Nat → Out) : Out :=
  if va = 0 then k none
  else withPlace s ⟨.coreAtomic, .atomic, va, 8, true, false⟩ fun p => k (locOf p)

/-! ## RLD, RST, RAT and RRED (R365, R369 to R371) -/

/-- The operands of an operation: its data, the second datum of CAS, and its result register. -/
structure FabArgs where
  data  : Nat
  data2 : Dword
  file  : RegFile
  reg   : Option Nat

def fabricWord (s : State) (f : FabFn) (va cw : Dword) (q : FabArgs) : Out :=
  checked s (ctlBad f cw || (launchOf s.dev s.cur).any fun x => ctlBadAt s.dev x f cw va) causeAccess cw
    (withPlace s ⟨fabUser f, fabRight f, va, 1, false, false⟩ fun p =>
      let size := ctlSize cw
      checked s (isAgent p && isRed f) causeAccess va
        (checked s (va.toNat % size != 0) causeMisaligned va
          (inDmode s (fabRuled f p)
            (withCounterAt s (if ctlNotify cw then 0 else ctlCounter cw) fun counter =>
              if fabHeld s (releases (ctlOrder cw)) (ctlScope cw == .system) then hold s
              else withLaunch s fun x =>
                withDies s (diesOf (stopeOf s.cur) p ||| diesAt (stopeOf s.cur) counter.toList) fun s =>
                  let dl := destOf s.dev x.ctx p
                  let op : FabOp := ⟨f, destAddr p, size, BitVec.ofNat 1024 (q.data % 2 ^ (8 * size)), q.data2,
                    ctlTarget cw⟩
                  .next (issueFab s
                    { newFab s x op va (ctlScope cw) (ctlOrder cw) with
                      dest := dl.1, loc := dl.2, counter := counter, counterVa := ctlCounter cw,
                      result := q.reg.map fun n => (q.file, phys (src s) q.file n) }
                    q.file (q.reg.getD 0))))))

/-- A word with g(d) as its operand. -/
def fabricG (s : State) (f : FabFn) (d a b : RegNum) (t u : Bool) (result : Bool) : Out :=
  let c := src s
  withSources s [gSrc s a t, gSrc s b u, gSrc s d t]
    (fabricWord s f (readG c a) (readG c b) ⟨(readG c d).toNat, 0, .g, if result then some d.toNat else none⟩)

def execRld (d a b : RegNum) (t u : Bool) (s : State) : Out :=
  let c := src s
  withSources s [gSrc s a t, gSrc s b u]
    (fabricWord s .load (readG c a) (readG c b) ⟨0, 0, .v, some d.toNat⟩)

def execRst (r a b : RegNum) (t u : Bool) (s : State) : Out :=
  let c := src s
  withSources s [gSrc s a t, gSrc s b u, vSrc s r t]
    (fabricWord s .store (readG c a) (readG c b) ⟨(readV c r).toNat, 0, .v, none⟩)

def execRatAdd (d a b : RegNum) (t u : Bool) (s : State) : Out := fabricG s .add d a b t u true
def execRatAnd (d a b : RegNum) (t u : Bool) (s : State) : Out := fabricG s .and d a b t u true
def execRatOr (d a b : RegNum) (t u : Bool) (s : State) : Out := fabricG s .or d a b t u true
def execRatXor (d a b : RegNum) (t u : Bool) (s : State) : Out := fabricG s .xor d a b t u true
def execRatMin (d a b : RegNum) (t u : Bool) (s : State) : Out := fabricG s .min d a b t u true
def execRatMax (d a b : RegNum) (t u : Bool) (s : State) : Out := fabricG s .max d a b t u true
def execRatSwap (d a b : RegNum) (t u : Bool) (s : State) : Out := fabricG s .swap d a b t u true

def execRatCas (d : BitVec 5) (a b : RegNum) (t u : Bool) (s : State) : Out :=
  let c := src s
  let r := pairReg d
  withSources s [gSrc s a t, gSrc s b u, gSrc s r t, gSrc s (r + 1) t]
    (fabricWord s .cas (readG c a) (readG c b) ⟨(readG c r).toNat, readG c (r + 1), .g, some r.toNat⟩)

def execRredAdd (r a b : RegNum) (t u : Bool) (s : State) : Out := fabricG s .redAdd r a b t u false
def execRredAnd (r a b : RegNum) (t u : Bool) (s : State) : Out := fabricG s .redAnd r a b t u false
def execRredOr (r a b : RegNum) (t u : Bool) (s : State) : Out := fabricG s .redOr r a b t u false
def execRredXor (r a b : RegNum) (t u : Bool) (s : State) : Out := fabricG s .redXor r a b t u false
def execRredMin (r a b : RegNum) (t u : Bool) (s : State) : Out := fabricG s .redMin r a b t u false
def execRredMax (r a b : RegNum) (t u : Bool) (s : State) : Out := fabricG s .redMax r a b t u false
def execRredFadd (r a b : RegNum) (t u : Bool) (s : State) : Out := fabricG s .redFadd r a b t u false
def execRredFmin (r a b : RegNum) (t u : Bool) (s : State) : Out := fabricG s .redFmin r a b t u false
def execRredFmax (r a b : RegNum) (t u : Bool) (s : State) : Out := fabricG s .redFmax r a b t u false

/-! ## TRIG, TICKET and the flags (R372 to R374) -/

def execTrig (a b : RegNum) (t u : Bool) (s : State) : Out :=
  let c := src s
  let va := readG c a
  withSources s [gSrc s a t, gSrc s b u]
    (withPlace s ⟨.trig, .atomic, va, 8, false, false⟩ fun p =>
      if fabHeld s true (isRemote p) then hold s
      else withLaunch s fun x =>
        withDies s (diesOf (stopeOf s.cur) p) fun s =>
          let dl := destOf s.dev x.ctx p
          let op : FabOp := ⟨.trig, destAddr p, 8, (readG c b).setWidth 1024, 0, none⟩
          .next (issueFab s
            { newFab s x op va (if isRemote p then .system else .package) .release with dest := dl.1, loc := dl.2 } .g 0))

/-- Whether TICKET's dispenser is out of place: it lies in agent space, at one of the dispensers, or on a peer. -/
def ticketBad : Place → Bool
  | .agent _ off => off < 0x8000 || off % 16 != 0
  | .remote _ _ => false
  | .vault _ _ | .hbm _ | .reduction _ _ | .host _ _ | .sysreg _ => true

def execTicket (d a b : RegNum) (t u : Bool) (s : State) : Out :=
  let c := src s
  let va := readG c a
  let holder := readG c b
  withSources s [gSrc s a t, gSrc s b u]
    (withPlace s ⟨.fabric, .atomic, va, 1, false, false⟩ fun p =>
      checked s (ticketBad p) causeAccess va
        (inDmode s (d != 0)
          (withPlace s ⟨.coreAtomic, .atomic, holder, 8, true, false⟩ fun hp =>
            if fabHeld s false false then hold s
            else withLaunch s fun x =>
              withDies s (diesOf (stopeOf s.cur) p ||| diesOf (stopeOf s.cur) hp) fun s =>
                let dl := destOf s.dev x.ctx p
                let op : FabOp := ⟨.ticket, destAddr p, 8, 0, holder, none⟩
                .next (issueFab s
                  { newFab s x op va .package .relaxed with
                    dest := dl.1, holder := locOf hp,
                    result := if d = 0 then none else some (.g, phys c .g d.toNat) } .g d.toNat))))

/-- The fields of a flag address word (R374). -/
def flagStope (w : Dword) : Nat := bitField w.toNat 58 6
def flagOff (w : Dword) : Nat := bitField w.toNat 0 24

/-- A flag word on the flags of stopes, which are gang stopes. A race on a flag reports the address that the task's table
gives it, where it gives one. DESIGN CHOICE (log 74). -/
def flagWord (s : State) (w v : Dword) (bad : Launch → Bool) (js : Launch → List Nat) (one : Bool) : Out :=
  withLaunch s fun x =>
    let off := flagOff w
    let sts := (js x).filterMap fun j => x.gang[j]?
    checked s (bad x || bitField w.toNat 24 34 != 0 || 0xC00000 ≤ off ||
        !sts.all fun st => rangeGranted s.dev x.ctx st 0xC00000 off 1) causeAccess w
      (checked s (off % 8 != 0) causeMisaligned w
        (if fabHeld s true false then hold s
         else
           let locs := sts.map fun st => vaultLoc st off
           let dies := sts.foldl (fun acc st => acc ||| diesOf (stopeOf s.cur) (.vault st off)) 0
           withDies s dies fun s =>
             let op : FabOp := ⟨.trig, BitVec.ofNat 64 off, 8, v.setWidth 1024, 0, none⟩
             let r := newFab s x op (addrOf s.dev x.ctx (issueOf s x (taskOf s)) (locs.getD 0 0)) .package .release
             .next (issueFab s (if one then { r with loc := locs.head? } else { r with sets := locs }) .g 0)))

def execFlagadd (a b : RegNum) (t u : Bool) (s : State) : Out :=
  let w := readG (src s) a
  withSources s [gSrc s a t, gSrc s b u]
    (flagWord s w (readG (src s) b) (fun x => x.gang.length ≤ flagStope w) (fun _ => [flagStope w]) true)

/-- DEDUCED (log 61). -/
def execFlagset (m a b : RegNum) (t u : Bool) (s : State) : Out :=
  let w := readG (src s) a
  let mask := readG (src s) m
  withSources s [gSrc s a t, gSrc s b u, gSrc s m t]
    (flagWord s w (readG (src s) b) (fun _ => flagStope w != 0)
      (fun x => (List.range x.gang.length).filter fun j => mask.getLsbD j) false)

/-! ## BARG (R375) -/

/-- Whether an entry of the check window is a continuation record's. -/
def isContinuation : WindowOp → Bool
  | .continuation _ _ _ _ => true
  | .store _ | .agentStore _ _ _ | .atomic _ | .arm _ _ | .copy _ | .fabric _ | .launch _ => false

/-- Perform the stores and atomics of a clause whose S word suspends its task: all that come before its continuation
record. -/
def performLeaving (s : State) : State :=
  let n := ((live s).window.takeWhile fun w => !isContinuation w.op).length
  setDev s (takeAcks (closeAll s.dev s.cur (7 * s.dev.issues + 1) n) s.cur)

/-- Go on once everything before a BARG is done, the accesses of its own clause among it (R92, R375). Of a task that its
S word suspends only the continuation record is left. -/
def withRelease (s : State) (k : State → Out) : Out :=
  if !(live s).leaving then withFlush s k
  else if !earlierClear s then hold s
  else
    let t := performLeaving s
    if (live t).window.all fun w => isContinuation w.op then k t else hold s

/-- Arrive at a generation of a switch group: the n-th arrival of the package goes up, and the task suspends. -/
def arriveBarg (s : State) (x : Launch) (r : Running) (g n : Nat) : Out :=
  let k := match mfind x.tasks r.task with
    | some t => mget 0 t.gArrivals g
    | none => 0
  let key := groupKey g k
  let fixed := match mfind x.gBarriers key with
    | some b => b.size
    | none => n
  if fixed ≠ n then trap s causeAccess (BitVec.ofNat 64 (2 ^ 63 + g))
  else withRelease s fun s =>
    let s := advance s
    let b := (mfind x.gBarriers key).getD ⟨n, [], [], []⟩
    let b := { b with arrived := b.arrived ++ [r.task] }
    let d := modLaunch s.dev r.launch fun x => { x with gBarriers := minsert x.gBarriers key b }
    let d := modTask d r.launch r.task fun t => { t with gArrivals := minsert t.gArrivals g (k + 1) }
    let d := if b.arrived.length = n then
        emit { d with groups := mmod d.groups g fun q => { q with flip := !q.flip } } x.part.toNat
          (.arrival g ((mfind d.groups g).map (·.flip) |>.getD false))
      else d
    if (live s).leaving then .next { s with dev := d }
    else suspendAfter { s with dev := d } .waiting 3 (.group g k) (BitVec.ofNat 64 (3 * 2 ^ 62 + g)) (BitVec.ofNat 64 k)

def execBarg (a b : RegNum) (t u : Bool) (s : State) : Out :=
  let g := readG (src s) a
  let n := readG (src s) b
  withSources s [gSrc s a t, gSrc s b u]
    (withLaunch s fun x =>
      match (src s).run with
      | none => hold s
      | some r =>
        checked s (65535 < g.toNat) causeAccess g
          (checked s (n == 0 || x.record.tasks < n.toNat) causeAccess n (arriveBarg s x r g.toNat n.toNat)))

/-! ## POST (R377) -/

/-- What a check of a descriptor's address answers: a place, a failure, or a page to wait for. -/
inductive PostLook where
  | ok (p : Place)
  | bad
  | page (num : Nat)
  deriving DecidableEq, Repr

def postLook (d : Dev) (x : Launch) (stope : Nat) (u : User) (r : Right) (va : Dword) (align : Nat) : PostLook :=
  match xlate d x stope u r va with
  | .trap _ => .bad
  | .page n => .page n
  | .place p => if va.toNat % align ≠ 0 then .bad else .ok p

/-- Whether both ends of a range can be read as a fetch, a page counting as readable. -/
def rangeReads (d : Dev) (x : Launch) (stope : Nat) (va : Dword) (n : Nat) : Bool :=
  [va, va + BitVec.ofNat 64 (n - 1)].all fun a => match xlate d x stope .fetch .read a with
    | .trap _ => false
    | .place _ | .page _ => true

/-- Fields of a descriptor (R376). -/
def postKind (ds : List Dword) : Nat := bitField (ds.getD 0 0).toNat 56 8
def postFunction (ds : List Dword) : Nat := bitField (ds.getD 0 0).toNat 48 8
def postTrigger (ds : List Dword) : Dword := BitVec.ofNat 64 (bitField (ds.getD 0 0).toNat 0 48)
def postGate (ds : List Dword) : Dword := BitVec.ofNat 64 (bitField (ds.getD 2 0).toNat 0 48)

/-- The function that a descriptor's control word is checked as. -/
def postAs (ds : List Dword) : FabFn := (postFn (postFunction ds)).getD .trig

/-- Whether a value of a descriptor is invalid, whatever its addresses lead to. -/
def postInvalid (ds : List Dword) : Bool :=
  let k := postKind ds
  let cw := ds.getD 7 0
  2 < k || ds.getD 3 0 != 0 || (if k = 0 then (postFn (postFunction ds)).isNone else postFunction ds != 0) ||
    ctlBad (if k = 0 then postAs ds else .trig) cw ||
    (ds.getD 5 0 == 0 && ctlSize cw != 8 && ctlSize cw != 4) || (k == 2 && ctlNotify cw)

/-- Whether a target breaks an issue check of its word (R365, R372, R278). -/
def postTargetBad (d : Dev) (x : Launch) (stope : Nat) (ds : List Dword) : Bool :=
  let va := ds.getD 4 0
  let cw := ds.getD 7 0
  match postKind ds with
  | 0 =>
    let f := postAs ds
    ctlBadAt d x f cw va || (match postLook d x stope .fabricReduce (fabRight f) va (ctlSize cw) with
     | .ok p => isAgent p && isRed f
     | .bad => true
     | .page _ => false)
  | 1 =>
    (match postLook d x stope .trig .atomic va 8 with
     | .ok p => ctlNotify cw && !isRemote p
     | .bad => true
     | .page _ => ctlNotify cw && targetOf d x va != some 3)
  | _ => va.toNat % 8 != 0 || !rangeReads d x stope va 256

/-- Whether a target is one where D-mode rules the function out. -/
def postRuled (d : Dev) (x : Launch) (stope : Nat) (ds : List Dword) : Bool :=
  postKind ds == 0 && postAs ds == .redFadd &&
    (match xlate d x stope .fabricReduce .atomic (ds.getD 4 0) with
     | .place p => !isWindow p
     | .trap _ | .page _ => true)

/-- Unfired posted operations of a partition. -/
def unfired (d : Dev) (part : Nat) : List Posted :=
  (d.posted.filter fun e => e.2.part == part && !inFlight d e.1).map (·.2)

/-- Whether a partition can hold another posted operation on a counter (R360). -/
def postRoom (d : Dev) (part trigger : Nat) : Bool :=
  let ps := unfired d part
  let bound := ps.foldl (fun (m : SMap Unit) p => minsert m p.trigger ()) []
  ps.length < 16384 && ((mfind bound trigger).isSome || bound.length < 4096)

/-- Bind the copy of a descriptor. A threshold already met fires at once (R360). -/
def bindPost (s : State) (x : Launch) (ds : List Dword) (va : Va) (trigger : Nat) (gate counter : Option Nat) : State :=
  let m := newName s.dev
  let p : Posted :=
    { issue := issueOf s x (taskOf s), part := x.part.toNat, ctx := x.ctx, desc := ds, addr := va, trigger := trigger,
      gate := gate, counter := counter, due := none, dmode := dmodeOf s.dev s.cur }
  advance (setDev s (firePosted { m.2 with posted := minsert m.2.posted m.1 p }))

/-- Go on with the place of a counter of a descriptor; none for address 0. A failure is the descriptor's (R377). -/
def postCounter (s : State) (x : Launch) (g va : Dword) (none0 : Bool) (k : Option Nat → Out) : Out :=
  if none0 && va == 0 then k none
  else match postLook s.dev x (stopeOf s.cur) .coreAtomic .atomic va 8 with
    | .ok p => k (locOf p)
    | .bad => trap s causeAccess g
    | .page n => touchPage s n va

/-- Whether POST waits for the task's earlier fabric operations: its release hold has system scope where the descriptor's
control word has it (R366, R377). -/
def postWaits (s : State) (ds : List Dword) : Bool :=
  ctlScope (ds.getD 7 0) == .system && (match (src s).run with
    | some r => fabPending s.dev r.launch r.task
    | none => false)

/-- DESIGN CHOICE (log 80). -/
def execPost (a : RegNum) (t : Bool) (s : State) : Out :=
  let va := readG (src s) a
  withSources s [gSrc s a t]
    (checked s (va.toNat % 64 != 0) causeMisaligned va
      (withRange s va 64 fun locs => withFlush s fun s =>
         readRange s va locs id fun s bs =>
           withLaunch s fun x =>
             let ds := (List.range 8).map fun j => BitVec.ofNat 64 (fieldAt bs (8 * j) 8)
             let st := stopeOf s.cur
             let size := if postKind ds = 0 then ctlSize (ds.getD 7 0) else 8
             checked s (postInvalid ds) causeAccess va
               (postCounter s x va (postTrigger ds) false fun trig =>
                 postCounter s x va (postGate ds) true fun gate =>
                   checked s (postTargetBad s.dev x st ds ||
                       (postKind ds != 2 && ds.getD 5 0 != 0 && !rangeReads s.dev x st (ds.getD 5 0) size))
                     causeAccess va
                     (postCounter s x va
                         (if ctlNotify (ds.getD 7 0) then 0 else ctlCounter (ds.getD 7 0)) true fun counter =>
                       checked s (!postRoom s.dev x.part.toNat (trig.getD 0)) causeAccess va
                         (inDmode s (postRuled s.dev x st ds)
                           (if postWaits s ds then hold s
                            else .next (bindPost s x ds (va.setWidth 48) (trig.getD 0) gate counter)))))))

/-! ## Events -/

/-- DEDUCED (log 72). -/
def execOperationPacketArrival (pkt : Packet) (s : State) : Out := .next (setDev s (packetArrival s.dev pkt false))

def execDispenserStore (part : BitVec 4) (stack : BitVec 3) (disp : BitVec 11) (value : Dword) (s : State) : Out :=
  .next (setDev s (storeDispenser s.dev part.toNat stack.toNat disp.toNat value))

def execFabricOpCompletion (op : Nat) (reply : Option FabReply) (s : State) : Out :=
  .next (setDev s (fabComplete s.dev op reply))

def execEndToEndTimeout (conn : Nat) (s : State) : Out := .next (setDev s (timeout s.dev conn))

def execRackAcknowledgement (conn : Nat) (s : State) : Out := .next (setDev s (ackPacket s.dev conn))

def execPostedOpFire (post : Nat) (s : State) : Out := .next (setDev s (postedFire s.dev post))

def execSwitchBarrierRelease (group status : BitVec 16) (s : State) : Out :=
  .next (setDev s (barrierRelease s.dev group.toNat status.toNat))

end Sys2Proof.Machine
end

