-- ==== Sys2Proof/Machine/LinkEvents.lean ====
section
/-! DEFINITION. The events of the Flouth ports (spec/22_fabric_links.md R346 to R350; spec/25_program_retraining.md R385,
R387). -/

namespace Sys2Proof.Machine

def modPort (d : Dev) (n : Nat) (f : Port → Port) : Dev := if portLives d n then putPort d n (f (portAt d n)) else d

/-- A port changes in an event. DESIGN CHOICE (log 56). -/
def portEvent (s : State) (n : BitVec 6) (f : Port → Port) : Out := .next (setDev s (modPort s.dev n.toNat f))

def execFlitReceive (port : BitVec 6) (flit : Flit) (errs : List (Nat × Nat)) (s : State) : Out :=
  portEvent s port fun p => receiveFlit p flit errs

/-- A request that is not yet honoured goes out again (R385). -/
def execStripeRequestRepeat (port : BitVec 6) (s : State) : Out :=
  portEvent s port fun p => if p.requests.isEmpty then p else sendControl p

/-- A NAK goes out again after the link's bound (R387). -/
def execNakRepeat (port : BitVec 6) (s : State) : Out :=
  portEvent s port fun p => if p.missing.isSome then sendNak p else p

/-- Every receiving wavelength's count of corrected errors is cleared (R348). -/
def execFecWindowClear (s : State) : Out :=
  .next (setDev s { s.dev with ports := s.dev.ports.map fun e =>
    (e.1, { e.2 with rx := e.2.rx.map fun l => { l with errors := 0 } }) })

def execWavelengthLockLoss (port : BitVec 6) (lambda : BitVec 3) (s : State) : Out :=
  portEvent s port fun p => loseLock p lambda.toNat

/-- The module record takes a retired wavelength, and the log says so (R23, R34, R346). -/
def noteRetired (d : Dev) (n i : Nat) : Dev :=
  let m := mget 0 d.module.lambdas n ||| BitVec.ofNat 8 (2 ^ i)
  addLog { d with module := { d.module with lambdas := minsert d.module.lambdas n m } } 3 noPart (detail [n, i])

def execRetrainingEnd (port : BitVec 6) (lambda : BitVec 3) (ok : Bool) (s : State) : Out :=
  let d := modPort s.dev port.toNat fun p => endRetraining p lambda.toNat ok
  .next (setDev s (if !laneRetired s.dev port.toNat lambda.toNat && laneRetired d port.toNat lambda.toNat then
    noteRetired d port.toNat lambda.toNat else d))

/-- The sending direction parks its highest wavelength, where its queue is short, once a control flit on the mask in force
has agreed it (R347, R349). DEDUCED (log 46). -/
def execWavelengthPark (port : BitVec 6) (s : State) : Out :=
  portEvent s port fun p =>
    if p.woken ∨ p.park ≤ queueFlits p ∨ parkOne p.tx = p.tx then p else { sendControl p with tx := parkOne p.tx }

/-- Once the queue has reached WakeDepth, every parked wavelength of the sending direction joins the stripe (R349). -/
def execWavelengthWake (port : BitVec 6) (s : State) : Out :=
  portEvent s port fun p => if p.woken then { sendControl p with tx := wakeAll p.tx, woken := false } else p

end Sys2Proof.Machine
end

