-- ==== Sys2Proof/Machine/Scalar.lean ====
section
/-! DEFINITION. Integer arithmetic, constants and predicate logic on the S pipe (spec/11_core_scalar_control.md R216
to R220, R227). -/

namespace Sys2Proof.Machine

/-! ## Shared shapes -/

/-- A word g(d) := f(g(a), g(b)) of major 1 or 3, with its latency. -/
def scalar2 (s : State) (d a b : RegNum) (t u : Bool) (latency : Nat) (f : Dword → Dword → Dword) : Out :=
  withSources s [gSrc s a t, gSrc s b u] (.next (issueG s d latency (f (readG (src s) a) (readG (src s) b))))

/-- A word g(d) := f(g(a)). -/
def scalar1 (s : State) (d a : RegNum) (t : Bool) (f : Dword → Dword) : Out :=
  withSources s [gSrc s a t] (.next (issueG s d 1 (f (readG (src s) a))))

/-- A word p(d) := f(p(a), p(b)) of major 8. -/
def predicate2 (s : State) (d a b : RegNum) (t u : Bool) (f : Pred → Pred → Pred) : Out :=
  withSources s [pSrc s a.toNat t, pSrc s b.toNat u]
    (.next (issueP s d.toNat 1 (f (readP (src s) a.toNat) (readP (src s) b.toNat)) 0))

/-! ## The functions (R217, R219) -/

def boolWord (b : Bool) : Dword := if b then 1 else 0

def aluSll (a b : Dword) : Dword := a <<< (b.toNat % 64)
def aluSrl (a b : Dword) : Dword := a >>> (b.toNat % 64)
def aluSra (a b : Dword) : Dword := a.sshiftRight (b.toNat % 64)
def aluRotl (a b : Dword) : Dword := a.rotateLeft (b.toNat % 64)
def aluMin (a b : Dword) : Dword := if a.slt b then a else b
def aluMax (a b : Dword) : Dword := if a.slt b then b else a
def aluMinu (a b : Dword) : Dword := if a.ult b then a else b
def aluMaxu (a b : Dword) : Dword := if a.ult b then b else a

/-- The number of leading zero bits, 64 for zero. -/
def aluClz (a : Dword) : Dword := BitVec.ofNat 64 (if a.toNat = 0 then 64 else 63 - a.toNat.log2)

/-- The number of one bits among the low n bits of x. -/
def countOnes : Nat → Nat → Nat
  | 0, _ => 0
  | n + 1, x => x % 2 + countOnes n (x / 2)

def aluPopc (a : Dword) : Dword := BitVec.ofNat 64 (countOnes 64 a.toNat)

/-- Bits [127:64] of a product of exact integers. -/
def highPart (x : Int) : Dword := BitVec.ofInt 64 (x / ((2 ^ 64 : Nat) : Int))

def aluMulh (a b : Dword) : Dword := highPart (a.toInt * b.toInt)
def aluMulhu (a b : Dword) : Dword := highPart ((a.toNat : Int) * (b.toNat : Int))
def aluMulhsu (a b : Dword) : Dword := highPart (a.toInt * (b.toNat : Int))

/-- a / b as int64, truncated toward zero; −1 for a divisor of zero (R219). -/
def aluDiv (a b : Dword) : Dword := if b = 0 then BitVec.allOnes 64 else BitVec.ofInt 64 (a.toInt.tdiv b.toInt)

def aluDivu (a b : Dword) : Dword := if b = 0 then BitVec.allOnes 64 else BitVec.ofNat 64 (a.toNat / b.toNat)

/-- a − b × DIV(a, b); a for a divisor of zero. -/
def aluRem (a b : Dword) : Dword := if b = 0 then a else BitVec.ofInt 64 (a.toInt.tmod b.toInt)

def aluRemu (a b : Dword) : Dword := if b = 0 then a else BitVec.ofNat 64 (a.toNat % b.toNat)

/-! ## Major 1 -/

def execAdd (d a b : RegNum) (t u : Bool) (s : State) : Out := scalar2 s d a b t u 1 fun x y => x + y
def execSub (d a b : RegNum) (t u : Bool) (s : State) : Out := scalar2 s d a b t u 1 fun x y => x - y
def execAnd (d a b : RegNum) (t u : Bool) (s : State) : Out := scalar2 s d a b t u 1 fun x y => x &&& y
def execOr (d a b : RegNum) (t u : Bool) (s : State) : Out := scalar2 s d a b t u 1 fun x y => x ||| y
def execXor (d a b : RegNum) (t u : Bool) (s : State) : Out := scalar2 s d a b t u 1 fun x y => x ^^^ y
def execAndn (d a b : RegNum) (t u : Bool) (s : State) : Out := scalar2 s d a b t u 1 fun x y => x &&& ~~~y
def execSll (d a b : RegNum) (t u : Bool) (s : State) : Out := scalar2 s d a b t u 1 aluSll
def execSrl (d a b : RegNum) (t u : Bool) (s : State) : Out := scalar2 s d a b t u 1 aluSrl
def execSra (d a b : RegNum) (t u : Bool) (s : State) : Out := scalar2 s d a b t u 1 aluSra
def execRotl (d a b : RegNum) (t u : Bool) (s : State) : Out := scalar2 s d a b t u 1 aluRotl
def execSlt (d a b : RegNum) (t u : Bool) (s : State) : Out := scalar2 s d a b t u 1 fun x y => boolWord (x.slt y)
def execSltu (d a b : RegNum) (t u : Bool) (s : State) : Out := scalar2 s d a b t u 1 fun x y => boolWord (x.ult y)
def execSeq (d a b : RegNum) (t u : Bool) (s : State) : Out := scalar2 s d a b t u 1 fun x y => boolWord (x == y)
def execMin (d a b : RegNum) (t u : Bool) (s : State) : Out := scalar2 s d a b t u 1 aluMin
def execMax (d a b : RegNum) (t u : Bool) (s : State) : Out := scalar2 s d a b t u 1 aluMax
def execMinu (d a b : RegNum) (t u : Bool) (s : State) : Out := scalar2 s d a b t u 1 aluMinu
def execMaxu (d a b : RegNum) (t u : Bool) (s : State) : Out := scalar2 s d a b t u 1 aluMaxu
def execClz (d a : RegNum) (t : Bool) (s : State) : Out := scalar1 s d a t aluClz
def execPopc (d a : RegNum) (t : Bool) (s : State) : Out := scalar1 s d a t aluPopc
def execSlli (d a k : RegNum) (t : Bool) (s : State) : Out := scalar1 s d a t fun x => aluSll x (k.setWidth 64)
def execSrli (d a k : RegNum) (t : Bool) (s : State) : Out := scalar1 s d a t fun x => aluSrl x (k.setWidth 64)
def execSrai (d a k : RegNum) (t : Bool) (s : State) : Out := scalar1 s d a t fun x => aluSra x (k.setWidth 64)
def execRotli (d a k : RegNum) (t : Bool) (s : State) : Out := scalar1 s d a t fun x => aluRotl x (k.setWidth 64)

/-! ## Major 2 (R218) -/

def execAddi (d a : RegNum) (t : Bool) (i : BitVec 13) (s : State) : Out := scalar1 s d a t fun x => x + immOf i

/-! ## Major 3 (R219): latency 3 for the products, 16 for the quotients (R195) -/

def execMul (d a b : RegNum) (t u : Bool) (s : State) : Out := scalar2 s d a b t u 3 fun x y => x * y
def execMulh (d a b : RegNum) (t u : Bool) (s : State) : Out := scalar2 s d a b t u 3 aluMulh
def execMulhu (d a b : RegNum) (t u : Bool) (s : State) : Out := scalar2 s d a b t u 3 aluMulhu
def execMulhsu (d a b : RegNum) (t u : Bool) (s : State) : Out := scalar2 s d a b t u 3 aluMulhsu
def execDiv (d a b : RegNum) (t u : Bool) (s : State) : Out := scalar2 s d a b t u 16 aluDiv
def execDivu (d a b : RegNum) (t u : Bool) (s : State) : Out := scalar2 s d a b t u 16 aluDivu
def execRem (d a b : RegNum) (t u : Bool) (s : State) : Out := scalar2 s d a b t u 16 aluRem
def execRemu (d a b : RegNum) (t u : Bool) (s : State) : Out := scalar2 s d a b t u 16 aluRemu

/-! ## Major 4 (R220) -/

/-- sign-extend(imm) << 16q. -/
def liValue (q : BitVec 2) (i : BitVec 16) : Dword := immOf i <<< (16 * q.toNat)

/-- x with bits [16q+15:16q] := imm. -/
def likValue (x : Dword) (q : BitVec 2) (i : BitVec 16) : Dword :=
  (x &&& ~~~(0xFFFF#64 <<< (16 * q.toNat))) ||| (i.setWidth 64 <<< (16 * q.toNat))

def execLi (d : RegNum) (q : BitVec 2) (i : BitVec 16) (s : State) : Out := .next (issueG s d 1 (liValue q i))

/-- LIK reads g(d), which blocks where it is empty. -/
def execLik (d : RegNum) (q : BitVec 2) (i : BitVec 16) (s : State) : Out :=
  withSources s [gSrc s d false] (.next (issueG s d 1 (likValue (readG (src s) d) q i)))

/-! ## Predicate logic (R227) -/

def execPand (d a b : RegNum) (t u : Bool) (s : State) : Out := predicate2 s d a b t u fun x y => x &&& y
def execPor (d a b : RegNum) (t u : Bool) (s : State) : Out := predicate2 s d a b t u fun x y => x ||| y
def execPxor (d a b : RegNum) (t u : Bool) (s : State) : Out := predicate2 s d a b t u fun x y => x ^^^ y
def execPandn (d a b : RegNum) (t u : Bool) (s : State) : Out := predicate2 s d a b t u fun x y => x &&& ~~~y

def execPnot (d a : RegNum) (t : Bool) (s : State) : Out :=
  withSources s [pSrc s a.toNat t] (.next (issueP s d.toNat 1 (~~~(readP (src s) a.toNat)) 0))

def execPcnt (d a : RegNum) (t : Bool) (s : State) : Out :=
  withSources s [pSrc s a.toNat t]
    (.next (issueG s d 1 (BitVec.ofNat 64 (countOnes 128 (readP (src s) a.toNat).toNat))))

end Sys2Proof.Machine
end

