-- ==== Sys2Proof/Machine/Dispatch.lean ====
section
/-! DEFINITION. One arm per instruction and event: its meaning. -/

namespace Sys2Proof.Machine

def exec (i : Instr) (s : State) : Host.Outcome State Fault Refusal :=
  match i with
  | .nop => Sys2Proof.Machine.execNop s
  | .trap a k t => Sys2Proof.Machine.execTrap a k t s
  | .eret => Sys2Proof.Machine.execEret s
  | .rdsr d sx => Sys2Proof.Machine.execRdsr d sx s
  | .wrsr a sx t => Sys2Proof.Machine.execWrsr a sx t s
  | .snaprd d a t => Sys2Proof.Machine.execSnaprd d a t s
  | .snapwr a b t u => Sys2Proof.Machine.execSnapwr a b t u s
  | .fenceS => Sys2Proof.Machine.execFenceS s
  | .fenceD => Sys2Proof.Machine.execFenceD s
  | .fenceY => Sys2Proof.Machine.execFenceY s
  | .suspend => Sys2Proof.Machine.execSuspend s
  | .endstep => Sys2Proof.Machine.execEndstep s
  | .exit a t => Sys2Proof.Machine.execExit a t s
  | .launch d a t => Sys2Proof.Machine.execLaunch d a t s
  | .deadline a b t u => Sys2Proof.Machine.execDeadline a b t u s
  | .swpt j => Sys2Proof.Machine.execSwpt j s
  | .waitge a b t u => Sys2Proof.Machine.execWaitge a b t u s
  | .armcnt a b t u => Sys2Proof.Machine.execArmcnt a b t u s
  | .bar a b t u => Sys2Proof.Machine.execBar a b t u s
  | .add d a b t u => Sys2Proof.Machine.execAdd d a b t u s
  | .sub d a b t u => Sys2Proof.Machine.execSub d a b t u s
  | .and d a b t u => Sys2Proof.Machine.execAnd d a b t u s
  | .or d a b t u => Sys2Proof.Machine.execOr d a b t u s
  | .xor d a b t u => Sys2Proof.Machine.execXor d a b t u s
  | .andn d a b t u => Sys2Proof.Machine.execAndn d a b t u s
  | .sll d a b t u => Sys2Proof.Machine.execSll d a b t u s
  | .srl d a b t u => Sys2Proof.Machine.execSrl d a b t u s
  | .sra d a b t u => Sys2Proof.Machine.execSra d a b t u s
  | .rotl d a b t u => Sys2Proof.Machine.execRotl d a b t u s
  | .slt d a b t u => Sys2Proof.Machine.execSlt d a b t u s
  | .sltu d a b t u => Sys2Proof.Machine.execSltu d a b t u s
  | .seq d a b t u => Sys2Proof.Machine.execSeq d a b t u s
  | .min d a b t u => Sys2Proof.Machine.execMin d a b t u s
  | .max d a b t u => Sys2Proof.Machine.execMax d a b t u s
  | .minu d a b t u => Sys2Proof.Machine.execMinu d a b t u s
  | .maxu d a b t u => Sys2Proof.Machine.execMaxu d a b t u s
  | .clz d a t => Sys2Proof.Machine.execClz d a t s
  | .popc d a t => Sys2Proof.Machine.execPopc d a t s
  | .slli d a k t => Sys2Proof.Machine.execSlli d a k t s
  | .srli d a k t => Sys2Proof.Machine.execSrli d a k t s
  | .srai d a k t => Sys2Proof.Machine.execSrai d a k t s
  | .rotli d a k t => Sys2Proof.Machine.execRotli d a k t s
  | .addi d a t imm => Sys2Proof.Machine.execAddi d a t imm s
  | .mul d a b t u => Sys2Proof.Machine.execMul d a b t u s
  | .mulh d a b t u => Sys2Proof.Machine.execMulh d a b t u s
  | .mulhu d a b t u => Sys2Proof.Machine.execMulhu d a b t u s
  | .mulhsu d a b t u => Sys2Proof.Machine.execMulhsu d a b t u s
  | .div d a b t u => Sys2Proof.Machine.execDiv d a b t u s
  | .divu d a b t u => Sys2Proof.Machine.execDivu d a b t u s
  | .rem d a b t u => Sys2Proof.Machine.execRem d a b t u s
  | .remu d a b t u => Sys2Proof.Machine.execRemu d a b t u s
  | .li d q imm => Sys2Proof.Machine.execLi d q imm s
  | .lik d q imm => Sys2Proof.Machine.execLik d q imm s
  | .beq a b t o => Sys2Proof.Machine.execBeq a b t o s
  | .bne a b t o => Sys2Proof.Machine.execBne a b t o s
  | .blt a b t o => Sys2Proof.Machine.execBlt a b t o s
  | .bge a b t o => Sys2Proof.Machine.execBge a b t o s
  | .bltu a b t o => Sys2Proof.Machine.execBltu a b t o s
  | .bgeu a b t o => Sys2Proof.Machine.execBgeu a b t o s
  | .jmp o => Sys2Proof.Machine.execJmp o s
  | .jal o => Sys2Proof.Machine.execJal o s
  | .jr a t => Sys2Proof.Machine.execJr a t s
  | .jalr d a t => Sys2Proof.Machine.execJalr d a t s
  | .call d a b t u => Sys2Proof.Machine.execCall d a b t u s
  | .ret a t => Sys2Proof.Machine.execRet a t s
  | .gset a t => Sys2Proof.Machine.execGset a t s
  | .loop l a e t => Sys2Proof.Machine.execLoop l a e t s
  | .pand d a b t u => Sys2Proof.Machine.execPand d a b t u s
  | .por d a b t u => Sys2Proof.Machine.execPor d a b t u s
  | .pxor d a b t u => Sys2Proof.Machine.execPxor d a b t u s
  | .pandn d a b t u => Sys2Proof.Machine.execPandn d a b t u s
  | .pnot d a t => Sys2Proof.Machine.execPnot d a t s
  | .pcnt d a t => Sys2Proof.Machine.execPcnt d a t s
  | .ld d b t l o => Sys2Proof.Machine.execLd d b t l o s
  | .st sx b t u o => Sys2Proof.Machine.execSt sx b t u o s
  | .ald d a t sx o z => Sys2Proof.Machine.execAld d a t sx o z s
  | .ast d a t sx o z => Sys2Proof.Machine.execAst d a t sx o z s
  | .atomAdd d a t sx o z => Sys2Proof.Machine.execAtomAdd d a t sx o z s
  | .atomAnd d a t sx o z => Sys2Proof.Machine.execAtomAnd d a t sx o z s
  | .atomOr d a t sx o z => Sys2Proof.Machine.execAtomOr d a t sx o z s
  | .atomXor d a t sx o z => Sys2Proof.Machine.execAtomXor d a t sx o z s
  | .atomMin d a t sx o z => Sys2Proof.Machine.execAtomMin d a t sx o z s
  | .atomMax d a t sx o z => Sys2Proof.Machine.execAtomMax d a t sx o z s
  | .atomMinu d a t sx o z => Sys2Proof.Machine.execAtomMinu d a t sx o z s
  | .atomMaxu d a t sx o z => Sys2Proof.Machine.execAtomMaxu d a t sx o z s
  | .atomSwap d a t sx o z => Sys2Proof.Machine.execAtomSwap d a t sx o z s
  | .atomFadd d a t sx o => Sys2Proof.Machine.execAtomFadd d a t sx o s
  | .atomFmin d a t sx o => Sys2Proof.Machine.execAtomFmin d a t sx o s
  | .atomFmax d a t sx o => Sys2Proof.Machine.execAtomFmax d a t sx o s
  | .acas d a t sx o z => Sys2Proof.Machine.execAcas d a t sx o z s
  | .acas2 d a t sx o => Sys2Proof.Machine.execAcas2 d a t sx o s
  | .aenq d a t sx o => Sys2Proof.Machine.execAenq d a t sx o s
  | .apchase d a t sx o => Sys2Proof.Machine.execApchase d a t sx o s
  | .aredAdd d a t sx o z => Sys2Proof.Machine.execAredAdd d a t sx o z s
  | .aredAnd d a t sx o z => Sys2Proof.Machine.execAredAnd d a t sx o z s
  | .aredOr d a t sx o z => Sys2Proof.Machine.execAredOr d a t sx o z s
  | .aredXor d a t sx o z => Sys2Proof.Machine.execAredXor d a t sx o z s
  | .aredMin d a t sx o z => Sys2Proof.Machine.execAredMin d a t sx o z s
  | .aredMax d a t sx o z => Sys2Proof.Machine.execAredMax d a t sx o z s
  | .aredMinu d a t sx o z => Sys2Proof.Machine.execAredMinu d a t sx o z s
  | .aredMaxu d a t sx o z => Sys2Proof.Machine.execAredMaxu d a t sx o z s
  | .aredFadd d a t sx o => Sys2Proof.Machine.execAredFadd d a t sx o s
  | .aredFmin d a t sx o => Sys2Proof.Machine.execAredFmin d a t sx o s
  | .aredFmax d a t sx o => Sys2Proof.Machine.execAredFmax d a t sx o s
  | .vld v b t l => Sys2Proof.Machine.execVld v b t l s
  | .vstW v b t p => Sys2Proof.Machine.execVstW v b t p s
  | .vstH v b t p => Sys2Proof.Machine.execVstH v b t p s
  | .vstB v b t p => Sys2Proof.Machine.execVstB v b t p s
  | .vgather v b x t p => Sys2Proof.Machine.execVgather v b x t p s
  | .vscatter v b x t p => Sys2Proof.Machine.execVscatter v b x t p s
  | .vadd d a b t p => Sys2Proof.Machine.execVadd d a b t p s
  | .vsub d a b t p => Sys2Proof.Machine.execVsub d a b t p s
  | .vmul d a b t p => Sys2Proof.Machine.execVmul d a b t p s
  | .vmin d a b t p => Sys2Proof.Machine.execVmin d a b t p s
  | .vmax d a b t p => Sys2Proof.Machine.execVmax d a b t p s
  | .vand d a b t p => Sys2Proof.Machine.execVand d a b t p s
  | .vor d a b t p => Sys2Proof.Machine.execVor d a b t p s
  | .vxor d a b t p => Sys2Proof.Machine.execVxor d a b t p s
  | .vfadd d a b t p => Sys2Proof.Machine.execVfadd d a b t p s
  | .vfsub d a b t p => Sys2Proof.Machine.execVfsub d a b t p s
  | .vfmul d a b t p => Sys2Proof.Machine.execVfmul d a b t p s
  | .vfdiv d a b t p => Sys2Proof.Machine.execVfdiv d a b t p s
  | .vfmin d a b t p => Sys2Proof.Machine.execVfmin d a b t p s
  | .vfmax d a b t p => Sys2Proof.Machine.execVfmax d a b t p s
  | .vfsqrt d a t p => Sys2Proof.Machine.execVfsqrt d a t p s
  | .vfabs d a t p => Sys2Proof.Machine.execVfabs d a t p s
  | .vfma d a b t p => Sys2Proof.Machine.execVfma d a b t p s
  | .vfms d a b t p => Sys2Proof.Machine.execVfms d a b t p s
  | .vfnma d a b t p => Sys2Proof.Machine.execVfnma d a b t p s
  | .vfnms d a b t p => Sys2Proof.Machine.execVfnms d a b t p s
  | .vmad d a b t p => Sys2Proof.Machine.execVmad d a b t p s
  | .vdot4 d a b t p => Sys2Proof.Machine.execVdot4 d a b t p s
  | .vcvt d a r sx z p g => Sys2Proof.Machine.execVcvt d a r sx z p g s
  | .vshl d a b t p => Sys2Proof.Machine.execVshl d a b t p s
  | .vshr d a b t p => Sys2Proof.Machine.execVshr d a b t p s
  | .vshra d a b t p => Sys2Proof.Machine.execVshra d a b t p s
  | .vperm d a b t p => Sys2Proof.Machine.execVperm d a b t p s
  | .vbcast d a h t p => Sys2Proof.Machine.execVbcast d a h t p s
  | .vred d a o t p => Sys2Proof.Machine.execVred d a o t p s
  | .vpack d a q t => Sys2Proof.Machine.execVpack d a q t s
  | .vunpack d a q t => Sys2Proof.Machine.execVunpack d a q t s
  | .vexp2 d a t p => Sys2Proof.Machine.execVexp2 d a t p s
  | .vlog2 d a t p => Sys2Proof.Machine.execVlog2 d a t p s
  | .vrcp d a t p => Sys2Proof.Machine.execVrcp d a t p s
  | .vrsqrt d a t p => Sys2Proof.Machine.execVrsqrt d a t p s
  | .vsinpi d a t p => Sys2Proof.Machine.execVsinpi d a t p s
  | .vtanh d a t p => Sys2Proof.Machine.execVtanh d a t p s
  | .vrng d a t p => Sys2Proof.Machine.execVrng d a t p s
  | .vqnt d a f t p => Sys2Proof.Machine.execVqnt d a f t p s
  | .vcmpeq d a b t p => Sys2Proof.Machine.execVcmpeq d a b t p s
  | .vcmplt d a b t p => Sys2Proof.Machine.execVcmplt d a b t p s
  | .vcmple d a b t p => Sys2Proof.Machine.execVcmple d a b t p s
  | .vfcmpeq d a b t p => Sys2Proof.Machine.execVfcmpeq d a b t p s
  | .vfcmplt d a b t p => Sys2Proof.Machine.execVfcmplt d a b t p s
  | .vfcmple d a b t p => Sys2Proof.Machine.execVfcmple d a b t p s
  | .vsel d a b t p => Sys2Proof.Machine.execVsel d a b t p s
  | .vmsk d a t p => Sys2Proof.Machine.execVmsk d a t p s
  | .mlease => Sys2Proof.Machine.execMlease s
  | .mrel => Sys2Proof.Machine.execMrel s
  | .mclr k => Sys2Proof.Machine.execMclr k s
  | .mofs d a t => Sys2Proof.Machine.execMofs d a t s
  | .mstat d k => Sys2Proof.Machine.execMstat d k s
  | .mma w a x y t => Sys2Proof.Machine.execMma w a x y t s
  | .mmaw w a x y t => Sys2Proof.Machine.execMmaw w a x y t s
  | .mdrain d k r f t => Sys2Proof.Machine.execMdrain d k r f t s
  | .cpy t q n u v => Sys2Proof.Machine.execCpy t q n u v s
  | .cpyh t q n u v => Sys2Proof.Machine.execCpyh t q n u v s
  | .stage a t => Sys2Proof.Machine.execStage a t s
  | .cpyp t q n u v => Sys2Proof.Machine.execCpyp t q n u v s
  | .cpye t q n u v => Sys2Proof.Machine.execCpye t q n u v s
  | .rld d a b t u => Sys2Proof.Machine.execRld d a b t u s
  | .rst sx a b t u => Sys2Proof.Machine.execRst sx a b t u s
  | .ratAdd d a b t u => Sys2Proof.Machine.execRatAdd d a b t u s
  | .ratAnd d a b t u => Sys2Proof.Machine.execRatAnd d a b t u s
  | .ratOr d a b t u => Sys2Proof.Machine.execRatOr d a b t u s
  | .ratXor d a b t u => Sys2Proof.Machine.execRatXor d a b t u s
  | .ratMin d a b t u => Sys2Proof.Machine.execRatMin d a b t u s
  | .ratMax d a b t u => Sys2Proof.Machine.execRatMax d a b t u s
  | .ratSwap d a b t u => Sys2Proof.Machine.execRatSwap d a b t u s
  | .ratCas d a b t u => Sys2Proof.Machine.execRatCas d a b t u s
  | .rredAdd sx a b t u => Sys2Proof.Machine.execRredAdd sx a b t u s
  | .rredAnd sx a b t u => Sys2Proof.Machine.execRredAnd sx a b t u s
  | .rredOr sx a b t u => Sys2Proof.Machine.execRredOr sx a b t u s
  | .rredXor sx a b t u => Sys2Proof.Machine.execRredXor sx a b t u s
  | .rredMin sx a b t u => Sys2Proof.Machine.execRredMin sx a b t u s
  | .rredMax sx a b t u => Sys2Proof.Machine.execRredMax sx a b t u s
  | .rredFadd sx a b t u => Sys2Proof.Machine.execRredFadd sx a b t u s
  | .rredFmin sx a b t u => Sys2Proof.Machine.execRredFmin sx a b t u s
  | .rredFmax sx a b t u => Sys2Proof.Machine.execRredFmax sx a b t u s
  | .post a t => Sys2Proof.Machine.execPost a t s
  | .trig a b t u => Sys2Proof.Machine.execTrig a b t u s
  | .ticket d a b t u => Sys2Proof.Machine.execTicket d a b t u s
  | .flagadd a b t u => Sys2Proof.Machine.execFlagadd a b t u s
  | .flagset m a b t u => Sys2Proof.Machine.execFlagset m a b t u s
  | .barg a b t u => Sys2Proof.Machine.execBarg a b t u s
  | .identify r => Sys2Proof.Machine.execIdentify r s
  | .attest r => Sys2Proof.Machine.execAttest r s
  | .firmwareLoad r => Sys2Proof.Machine.execFirmwareLoad r s
  | .partitionAssign r => Sys2Proof.Machine.execPartitionAssign r s
  | .partitionRelease r => Sys2Proof.Machine.execPartitionRelease r s
  | .sessionOpen r => Sys2Proof.Machine.execSessionOpen r s
  | .unsupportedPacket m => Sys2Proof.Machine.execUnsupportedPacket m s
  | .lttLoad r => Sys2Proof.Machine.execLttLoad r s
  | .contextRelease r => Sys2Proof.Machine.execContextRelease r s
  | .lttInstall ctx => Sys2Proof.Machine.execLttInstall ctx s
  | .lttShootdown r => Sys2Proof.Machine.execLttShootdown r s
  | .launchRequest r => Sys2Proof.Machine.execLaunchRequest r s
  | .launchStatus r => Sys2Proof.Machine.execLaunchStatus r s
  | .launchCancel r => Sys2Proof.Machine.execLaunchCancel r s
  | .launchCancelForce r => Sys2Proof.Machine.execLaunchCancelForce r s
  | .memRead r => Sys2Proof.Machine.execMemRead r s
  | .memWrite r => Sys2Proof.Machine.execMemWrite r s
  | .snapshotRead r => Sys2Proof.Machine.execSnapshotRead r s
  | .snapshotWrite r => Sys2Proof.Machine.execSnapshotWrite r s
  | .telemetryStatus r => Sys2Proof.Machine.execTelemetryStatus r s
  | .telemetryStartSampling r => Sys2Proof.Machine.execTelemetryStartSampling r s
  | .telemetryStopSampling r => Sys2Proof.Machine.execTelemetryStopSampling r s
  | .telemetryDrainSamples r => Sys2Proof.Machine.execTelemetryDrainSamples r s
  | .boot failed => Sys2Proof.Machine.execBoot failed s
  | .checkedPairTakeover => Sys2Proof.Machine.execCheckedPairTakeover s
  | .stopeFailure stope => Sys2Proof.Machine.execStopeFailure stope s
  | .hbmChannelRetirement stack chan => Sys2Proof.Machine.execHbmChannelRetirement stack chan s
  | .dieLoss die => Sys2Proof.Machine.execDieLoss die s
  | .dispatchAdmission part => Sys2Proof.Machine.execDispatchAdmission part s
  | .backoffExpiry launch => Sys2Proof.Machine.execBackoffExpiry launch s
  | .launchPreemption launch => Sys2Proof.Machine.execLaunchPreemption launch s
  | .taskPreemption core ns => Sys2Proof.Machine.execTaskPreemption core ns s
  | .preemptionDeferralBound core => Sys2Proof.Machine.execPreemptionDeferralBound core s
  | .taskResumption core => Sys2Proof.Machine.execTaskResumption core s
  | .regenerationLaunch launch page => Sys2Proof.Machine.execRegenerationLaunch launch page s
  | .refetchFillComplete ctx page => Sys2Proof.Machine.execRefetchFillComplete ctx page s
  | .stepClose launch => Sys2Proof.Machine.execStepClose launch s
  | .stepOpen launch => Sys2Proof.Machine.execStepOpen launch s
  | .launchFault launch => Sys2Proof.Machine.execLaunchFault launch s
  | .resultWrite core => Sys2Proof.Machine.execResultWrite core s
  | .loadDataArrival core word ue => Sys2Proof.Machine.execLoadDataArrival core word ue s
  | .landingWrite core => Sys2Proof.Machine.execLandingWrite core s
  | .freezeTimeout stope => Sys2Proof.Machine.execFreezeTimeout stope s
  | .checkWindowClose core => Sys2Proof.Machine.execCheckWindowClose core s
  | .timingReplay core => Sys2Proof.Machine.execTimingReplay core s
  | .atomicAcknowledgement core word => Sys2Proof.Machine.execAtomicAcknowledgement core word s
  | .deadlineRiskInterrupt core => Sys2Proof.Machine.execDeadlineRiskInterrupt core s
  | .governorEvaluation inp => Sys2Proof.Machine.execGovernorEvaluation inp s
  | .levelChangeComplete => Sys2Proof.Machine.execLevelChangeComplete s
  | .powerGrant level => Sys2Proof.Machine.execPowerGrant level s
  | .energySample ctx mw => Sys2Proof.Machine.execEnergySample ctx mw s
  | .timeCalibration die offset rate => Sys2Proof.Machine.execTimeCalibration die offset rate s
  | .leaseGrant stope => Sys2Proof.Machine.execLeaseGrant stope s
  | .matrixCommandStart stope => Sys2Proof.Machine.execMatrixCommandStart stope s
  | .matrixCommandComplete stope parity ue => Sys2Proof.Machine.execMatrixCommandComplete stope parity ue s
  | .bankRelease stope bank => Sys2Proof.Machine.execBankRelease stope bank s
  | .bankRestore stope bank => Sys2Proof.Machine.execBankRestore stope bank s
  | .copySector stope chan ue => Sys2Proof.Machine.execCopySector stope chan ue s
  | .copyCompletion stope chan => Sys2Proof.Machine.execCopyCompletion stope chan s
  | .scheduleEntryStart launch entry => Sys2Proof.Machine.execScheduleEntryStart launch entry s
  | .operationPacketArrival pkt => Sys2Proof.Machine.execOperationPacketArrival pkt s
  | .dispenserStore part stack disp value => Sys2Proof.Machine.execDispenserStore part stack disp value s
  | .fabricOpCompletion op reply => Sys2Proof.Machine.execFabricOpCompletion op reply s
  | .endToEndTimeout conn => Sys2Proof.Machine.execEndToEndTimeout conn s
  | .rackAcknowledgement conn => Sys2Proof.Machine.execRackAcknowledgement conn s
  | .postedOpFire post => Sys2Proof.Machine.execPostedOpFire post s
  | .switchBarrierRelease group status => Sys2Proof.Machine.execSwitchBarrierRelease group status s
  | .flitReceive port flit errs => Sys2Proof.Machine.execFlitReceive port flit errs s
  | .stripeRequestRepeat port => Sys2Proof.Machine.execStripeRequestRepeat port s
  | .fecWindowClear => Sys2Proof.Machine.execFecWindowClear s
  | .wavelengthLockLoss port lambda => Sys2Proof.Machine.execWavelengthLockLoss port lambda s
  | .retrainingEnd port lambda ok => Sys2Proof.Machine.execRetrainingEnd port lambda ok s
  | .wavelengthPark port => Sys2Proof.Machine.execWavelengthPark port s
  | .wavelengthWake port => Sys2Proof.Machine.execWavelengthWake port s
  | .fillReserveRefill part pages => Sys2Proof.Machine.execFillReserveRefill part pages s
  | .nakRepeat port => Sys2Proof.Machine.execNakRepeat port s

end Sys2Proof.Machine
end

