-- ==== Sys2Proof/Machine/Issue.lean ====
section
/-! DEFINITION. One turn of a core: results that are due, traps and interrupts at the clause boundary, and the issue of a
clause (spec/10_core_state.md R195 to R202; spec/09_encoding.md R178, R179; spec/11_core_scalar_control.md R229). -/

namespace Sys2Proof.Machine

/-! ## Running the words -/

/-- Run one word at its place in the clause. -/
def runWord (s : State) (p : Placed) : Out :=
  exec p.instr { s with clause := s.clause.map fun c => { c with slot := p.slot, addr := p.addr } }

/-- Whether a clause goes on after a word. -/
def goesOn (s : State) : Bool :=
  match s.clause with
  | some c => c.verdict == .going || c.verdict == .moved
  | none => true

/-- Whether a word left its clause in an issue hold. -/
def heldUp (s : State) : Bool :=
  (match s.clause with
   | some c => c.verdict == .stalled
   | none => false) &&
    (match (live s).stall with
     | some x => x.kind == .hold
     | none => false)

/-- BARG suspends its task, so that it acts when every other word of its clause has (R375). -/
def isBarg (i : Instr) : Bool :=
  match i with
  | .barg _ _ _ _ => true
  | _ => false

/-- Whether a word is the S word of its clause and may suspend, transfer or hold; ARMCNT does none of them (R269,
R282). DEDUCED (log 6). -/
def isLateS (p : Placed) : Bool :=
  p.pipe == .s && (match p.instr with
    | .armcnt _ _ _ _ => false
    | _ => true)

/-- POST reads its descriptor as it issues (R377). -/
def isPost (i : Instr) : Bool :=
  match i with
  | .post _ _ => true
  | _ => false

/-- Words that act after the others: the S word (R269), then BARG. DEDUCED (log 6). -/
def actsLate (p : Placed) : Bool := isLateS p || isBarg p.instr

/-- The granules that a WAITGE or a SWPT reads where it stands in its clause. -/
def wordReads (p : Placed) (s : State) : List Nat :=
  let place := fun (u : User) (va : Dword) (n : Nat) =>
    match launchOf s.dev s.cur with
    | some x => match xlate s.dev x (stopeOf s.cur) u .read va with
      | .place q => granules ((locOf q).getD 0) n
      | .trap _ | .page _ => []
    | none => []
  match p.instr with
  | .waitge a _ _ _ => place .coreAtomic (readG (src s) a) 8
  | .swpt j => match launchOf s.dev s.cur with
    | some x => place .fetch (x.record.switchTab.setWidth 64 + BitVec.ofNat 64 (128 * j.toNat + 16 * swptEntry s)) 16
    | none => []
  | _ => []

/-- A state with the race tags that another has on granules. -/
def tagsFrom (gs : List Nat) (t s : State) : State :=
  { s with dev := { s.dev with tags := gs.foldl (fun m g => mset tagZero m g (mget tagZero t.dev.tags g)) s.dev.tags } }

/-- Whether an S word that reads memory has had its whole effect at its place: a LAUNCH, a WAITGE that succeeds, a SWPT
that goes on at the next clause (R179); what is late is a suspension or a transfer (R269). DEDUCED (log 6). -/
def actsNow (p : Placed) (t : State) : Bool :=
  match p.instr with
  | .launch _ _ _ => true
  | .waitge _ _ _ _ => !(live t).leaving
  | .swpt _ => t.clause.all fun c => c.target.isNone
  | _ => false

/-- The device without the scoreboard entries of the clause at hand. -/
def withoutOwn (s : State) : State :=
  setDev s { s.dev with stopes := s.dev.stopes.map fun e =>
    (e.1, { e.2 with board := e.2.board.filter fun b => b.seq ≤ 7 * s.dev.issues || 7 * s.dev.issues + 7 < b.seq }) }

/-- Whether a word that may act late waits for an engine word of its own clause, and for nothing else (R115, R297).
DEDUCED (log 6). -/
def waitsOwn (p : Placed) (s : State) : Bool :=
  (actsLate p || isPost p.instr) && (match runWord (withoutOwn s) p with
    | .next t => goesOn t
    | .fault _ => false
    | .refused _ => false)

/-- Run words in address order. A late word shows whether it traps or waits, and makes its access; what is left of it
runs after the others, with the granules of that access. A hold waits for a clause that could issue: where a later word
traps or freezes, that decides. DEDUCED (log 6). -/
def runWords : List Placed → State → List (Placed × List Nat) → Except Out (State × List (Placed × List Nat))
  | [], s, late => .ok (s, late)
  | p :: ps, s, late =>
    match runWord s p with
    | .next t =>
      if goesOn t then
        if !actsLate p || actsNow p t then runWords ps t late
        else
          let gs := if ps.isEmpty then [] else wordReads p s
          runWords ps (if gs.isEmpty then s else tagsFrom gs t s) (late ++ [(p, gs)])
      else if heldUp t && waitsOwn p s then runWords ps s (late ++ [(p, [])])
      else if heldUp t then
        match runWords ps s late with
        | .ok _ => .error (.next t)
        | .error (.next u) => .error (.next (if heldUp u then t else u))
        | .error o => .error o
      else .error (.next t)
    | .fault e => .error (.fault e)
    | .refused e => .error (.refused e)

/-- Run late words, while the clause goes on; the accesses that they made at their places stay as checked there (R108,
R179). DEDUCED (log 6). -/
def runLate : List (Placed × List Nat) → State → Out
  | [], s => .next s
  | (p, gs) :: ps, s =>
    match runWord s p with
    | .next t => if goesOn t then runLate ps (if gs.isEmpty then t else tagsFrom gs s t) else .next t
    | .fault e => .fault e
    | .refused e => .refused e

/-- Late words in the order in which they act: a POST, the S word (R269), and a BARG after it. -/
def lateOrder (late : List (Placed × List Nat)) : List (Placed × List Nat) :=
  late.filter (fun e => isPost e.1.instr) ++ late.filter (fun e => isLateS e.1) ++ late.filter fun e => isBarg e.1.instr

/-- The state before the first late word that waits or traps, and the late words from it on. -/
def lateRest : List (Placed × List Nat) → State → State × List Placed
  | [], s => (s, [])
  | (p, gs) :: ps, s =>
    match runWord s p with
    | .next t => if goesOn t then lateRest ps (if gs.isEmpty then t else tagsFrom gs s t) else (s, p :: ps.map (·.1))
    | .fault _ => (s, p :: ps.map (·.1))
    | .refused _ => (s, p :: ps.map (·.1))

/-- A clause that late words leave unfinished: the others have taken effect, and the core waits for these (R115, R269).
DEDUCED (log 6). -/
def leaveWords (s : State) (ps : List Placed) : State :=
  let c := src s
  let t := modLive s fun q => { q with
    pend := some ⟨ps.map fun p => (p.slot, p.addr, p.instr), clauseEnd s, c.g, c.empty⟩ }
  { t with dev := { t.dev with issues := t.dev.issues + 1 }, clause := none }

/-! ## The end of a clause -/

/-- End a clause whose words all took effect: the core's counts go on, a handler has completed a clause, and one
schedule cycle passes. A core that is leaving, or whose S word set the position, keeps it. -/
def endClause (s : State) : State :=
  match s.clause with
  | none => s
  | some q =>
    let handler := (coreAt q.base s.cur).inHandler
    let c := live s
    let c := if q.verdict = .moved ∨ c.leaving then c else tickFlights (afterClause s)
    let c := { c with stall := none, swpt := none, replays := 0,
                      fresh := if handler && q.verdict != .moved then false else c.fresh }
    { setLive s c with clause := none, dev := { (putCore s.dev s.cur c) with issues := s.dev.issues + 1 } }

/-- Issue the words of a clause together (R178, R179). A clause that traps, waits or suspends leaves the device as its
trap or wait says. DEDUCED (log 6). -/
def issueClause (s : State) (ps : List Placed) : Out :=
  let k := s.cur
  let pc := (coreAt s.dev k).pc
  let next := pc + 4 * BitVec.ofNat 48 ps.length
  match runWords ps { s with clause := some ⟨s.dev, 0, pc, next, none, .going⟩ } [] with
  | .ok (u, late) =>
    (match runLate (lateOrder late) u with
     | .next t =>
       if goesOn t then .next (endClause t)
       else
         let r := lateRest (lateOrder late) u
         if ps.length ≠ 1 && heldUp t && r.2.head?.any (waitsOwn · r.1) then .next (leaveWords r.1 r.2)
         else .next { t with clause := none }
     | .fault e => .fault e
     | .refused e => .refused e)
  | .error (.next t) => .next { t with clause := none }
  | .error o => o

/-- The words that a clause has left act, with the registers that their clause reads, until one of them waits; where one
traps, the clause is over. DEDUCED (log 6). -/
def lateIssue (p : LateWords) : List (Nat × Va × Instr) → State → Out
  | [], s => .next (endClause s)
  | w :: ws, s =>
    let c := live s
    let base := modCore s.dev s.cur fun c => { c with g := p.g, empty := p.empty }
    let back := fun (t : State) => { modLive t fun q => { q with g := c.g, empty := c.empty } with clause := none }
    match exec w.2.2 { s with clause := s.clause.map fun q => { q with base := base, slot := w.1, addr := w.2.1 } } with
    | .next t =>
      if goesOn t then lateIssue p ws t
      else if heldUp t then .next (modLive { s with clause := none } fun q =>
        { q with pend := some { p with words := w :: ws }, stall := (live t).stall })
      else .next (back t)
    | .fault e => .fault e
    | .refused e => .refused e

/-- The turn of a core whose clause has words left: the boundary comes after them. DEDUCED (log 6). -/
def lateTurn (p : LateWords) (s : State) : Out :=
  let d := modCore s.dev s.cur fun c => { c with pend := none }
  lateIssue p p.words { s with dev := d, clause := some ⟨d, 0, (coreAt d s.cur).pc, p.next, none, .going⟩ }

/-! ## The turn of a core -/

/-- The bits that a task's running sets (R86), at each turn. -/
def touchHome (d : Dev) (k : Nat) : Dev :=
  match launchOf d k with
  | some x => touchDies d x.ctx (homeDies (stopeOf k))
  | none => d

/-- Fetch, check and issue the clause at the pc. Every word is fetched before any is checked. DESIGN CHOICE (log 82). -/
def fetchIssue (s : State) : Out :=
  let k := s.cur
  let c := coreAt s.dev k
  match launchOf s.dev k with
  | none => .next s
  | some x =>
    let look := touchLost s.dev x.ctx (fetchDies s.dev k x)
    if fetchWaits s.dev k x then hold s
    else match look.2 with
    | some die => .next { s with dev := takeTrap look.1 k causeDieLost (BitVec.ofNat 64 die) c.pc }
    | none =>
      let s := { s with dev := look.1 }
      match fetchWords s.dev x (stopeOf k) 6 c.pc with
      | .trap cause va => .next { s with dev := takeTrap s.dev k cause (va.setWidth 64) c.pc }
      | .page n va =>
        match touchPage { s with clause := some ⟨s.dev, 0, c.pc, c.pc, none, .going⟩ } n (va.setWidth 64) with
        | .next t => .next { t with clause := none }
        | .fault e => .fault e
        | .refused e => .refused e
      | .words ws =>
        match checkWords [] 0 c.pc ws with
        | .error (cause, va) => .next { s with dev := takeTrap s.dev k cause (va.setWidth 64) c.pc }
        | .ok ps => issueClause s ps

/-- Whether a core waits before its next clause whatever it is: for a lease (R291, R213), or for a fabric operation
(R366). -/
def heldBack (c : Core) : Bool := c.leaseBack || !c.opGate.isEmpty

/-- A lost die that a task touches for its context by running on a stope (R86). DEDUCED (log 32). -/
def newlyLost (d : Dev) (k : Nat) : Option Nat :=
  match (launchOf d k).bind fun x => ctxAt d x.ctx with
  | some c =>
    let bits := homeDies (stopeOf k) &&& d.lost &&& ~~~c.dmask
    if bits = 0 then none else some (firstDie bits)
  | none => none

/-- A cycle of core k in which the results that are due have been written: a late landing freezes the domain; the cycle
after a transfer passes; a pending trap or interrupt is taken, but where the clause replays (R57); or else the next
clause issues. -/
def issueCycle (again : Bool) (lost : Option Nat) (s : State) : Out :=
  let d := s.dev
  let k := s.cur
  match lateLanding (coreAt d k) with
  | some f => stallOn s .freeze (some (f.file, f.num))
  | none =>
    match (coreAt d k).pend with
    | some p => lateTurn p s
    | none =>
    if (coreAt d k).bubble then
      .next { s with dev := modCore d k fun c => tickFlights { c with bubble := false, stall := none } }
    else if heldBack (coreAt d k) then hold s
    else match lost, if again then none else boundary d k with
      | some die, _ => .next { s with dev := takeTrap d k causeDieLost (BitVec.ofNat 64 die) (coreAt d k).pc }
      | none, some e => if !again && riskDrops d k then fetchIssue { s with dev := e } else .next { s with dev := e }
      | none, none => fetchIssue s

/-- A core at the start of its turn, with the results that are due written (R196). -/
def atTurn (d : Dev) (k : Nat) : Dev := modCore (touchHome d k) k fun c => landUntimed (writeDue c)

/-- The untimed results that a turn writes at its start: a clause that replays starts from the state as it stood, without
the data that waits (R150). -/
def landTurn (again : Bool) (c : Core) : Core := if again then landBefore c else landUntimed c

/-- A core at the start of the turn in which its clause replays. -/
def atReplay (d : Dev) (k : Nat) : Dev := modCore (touchHome d k) k fun c => landTurn true (writeDue c)

/-- A core that stops issuing keeps its results that are due for the cycle in which it goes on (R202, R286). -/
def keepDue (old c : Core) : Core :=
  { c with g := old.g, v := old.v, p := old.p, o := old.o, empty := old.empty, owner := old.owner,
           flights := old.flights, fflags := old.fflags }

/-- The end of core k's turn, which began at d: where the core waits, its results that are due are not written yet.
DEDUCED (log 8). -/
def endTurn (again : Bool) (d : Dev) (k : Nat) (t : State) : State :=
  if (coreAt t.dev k).stall.isSome then setDev t (modCore t.dev k fun c => unwrite (keepDue (landTurn again (coreAt d k)) c)) else t

/-- A cycle of core k: the results that are due are written, and the core issues. -/
def turnOf (again : Bool) (s : State) : Out :=
  let k := s.cur
  match issueCycle again (newlyLost s.dev k) { s with dev := if again then atReplay s.dev k else atTurn s.dev k } with
  | .next t => .next (endTurn again s.dev k t)
  | .fault e => .fault e
  | .refused e => .refused e

/-- A turn of a core whose stope stands still: it shows whether the core has a cause of its own (R203). -/
def frozenTurn (s : State) : Out :=
  match turnOf false s with
  | .next t =>
    match (coreAt t.dev s.cur).stall with
    | some ⟨.freeze, r, since⟩ => .next (setDev s (modCore s.dev s.cur fun c => { c with stall := some ⟨.freeze, r, since⟩ }))
    | some ⟨.hold, _, _⟩ | none => .next s
  | .fault e => .fault e
  | .refused e => .refused e

/-- One turn of core k: a clause that replays issues first; then a forced pre-emption that is due is carried out; then a
frozen domain shows its causes; else a cycle passes (R57, R195, R196, R202). A core with nothing to do passes its turn.
-/
def coreTurn (k : Nat) (s : State) : Out :=
  let s := { s with cur := k }
  if !issuing s.dev k then .next s
  else if clauseReplays s.dev k && (stopeAt s.dev (stopeOf k)).settling.isNone then
    turnOf true (setDev s (modStope s.dev (stopeOf k) fun x => { x with replay := none }))
  else if preemptDue s.dev.now (coreAt s.dev k) then .next (setDev s (tryPreempt s.dev k))
  else if replaying s.dev (stopeOf k) then .next s
  else if frozenBy s.dev k then frozenTurn s
  else turnOf false s

end Sys2Proof.Machine
end

