-- ==== Sys2Proof/Machine/Policy.lean ====
section
/-! DEFINITION. Turns: the device time that passes, and what moves where the agenda names nothing. -/

namespace Sys2Proof.Machine

/-- Whether a row of the table is a word. -/
def isWord (i : Instr) : Bool := !(encode false i).isEmpty

/-- The period of a context's sampling goes on by a time at the clock in force (R155). DESIGN CHOICE (log 81). -/
def Sampling.run (q : Sampling) (cycles : Nat) : Sampling := if q.k = 0 then q else { q with spent := q.spent + cycles }

/-- Device time passes: the cycles of every launch whose step is open are counted at the clock in force, whether or not
a task of it runs (R382), and those of the sampling that runs. -/
def elapse (d : Dev) (dt : Nat) : Dev :=
  let d := { d with clock := d.clock + dt }
  { d with now := if d.lost.getLsbD 3 then max d.now (converted d 7).toNat else d.now + dt,
           ctxs := d.ctxs.map fun e =>
             (e.1, { e.2 with sampling := e.2.sampling.map fun q => q.run (dt * clockNow d.power) }),
           launches := d.launches.map fun e =>
             (e.1, if e.2.state ≠ .queued ∧ e.2.state ≠ .complete then
               { e.2 with spent := e.2.spent + dt * clockNow d.power } else e.2) }

/-- The next core after k that issues. DESIGN CHOICE (log 2). -/
def nextCore (d : Dev) (k : Nat) : Nat :=
  match (List.range 256).find? fun i => issuing d ((k + 1 + i) % 256) with
  | some i => (k + 1 + i) % 256
  | none => k

/-! ### What the engines do of their own accord -/

def coreIdOf (k : Nat) : CoreId := ⟨BitVec.ofNat 6 (k / 4), BitVec.ofNat 2 k⟩

/-- What an engine may do next. -/
abbrev Happening := State → Out

/-- What may come about at a core. -/
def coreEvents (k : Nat) (c : Core) : List Happening :=
  (if c.window.isEmpty then [] else [execCheckWindowClose (coreIdOf k)]) ++
    (c.acks.map fun a => execAtomicAcknowledgement (coreIdOf k) a.word) ++
    ((c.flights.filter fun f => isLoad f.src && !f.arrived || waitsPort f).map fun f => execLoadDataArrival (coreIdOf k) f.word false) ++
    (match handlerLatch c with
     | some l => (l.landing.filter fun e => e.valid && isLoad e.src && !e.arrived).map fun e =>
         execLoadDataArrival (coreIdOf k) e.word false
     | none => []) ++
    (if c.preempt.isSome then [execPreemptionDeferralBound (coreIdOf k)] else [])

/-- At a stope. -/
def stopeEvents (n : Nat) (x : Stope) : List Happening :=
  let st := BitVec.ofNat 6 n
  [execFreezeTimeout st, execLeaseGrant st, execMatrixCommandStart st, execMatrixCommandComplete st [] none] ++
    ((List.range 4).flatMap fun b => [execBankRelease st (BitVec.ofNat 2 b), execBankRestore st (BitVec.ofNat 2 b)]) ++
    x.chans.flatMap fun c => [execCopySector st (BitVec.ofNat 2 c.1) false, execCopyCompletion st (BitVec.ofNat 2 c.1)]

/-- To a launch. -/
def launchEvents (d : Dev) (l : Nat) (x : Launch) : List Happening :=
  if x.state = .complete then []
  else
    [execLaunchFault l, execStepClose l, execStepOpen l, execLaunchPreemption l, execBackoffExpiry l] ++
      (match (stagedEntry d x), replayNext d x with
       | some i, _ => [execScheduleEntryStart l i]
       | none, .ok (some i) => [execScheduleEntryStart l i]
       | none, .ok none => []
       | none, .error _ => [execScheduleEntryStart l 0]) ++
      (x.pageQ.map fun q => execRegenerationLaunch l (BitVec.ofNat 27 q.1)) ++
      (x.tasks.filterMap fun t => (waitPage t.2.wait).map fun a => execRefetchFillComplete x.ctx (BitVec.ofNat 27 (pageNum a)))

/-- Everything that may come about, in the order in which the model's own policy looks at it. DESIGN CHOICE (log 2). -/
def ownEvents (d : Dev) : List Happening :=
  (d.cores.flatMap fun e => coreEvents e.1 e.2) ++ (d.stopes.flatMap fun e => stopeEvents e.1 e.2) ++
    (d.fabric.map fun e => execFabricOpCompletion e.1 none) ++ (d.posted.map fun e => execPostedOpFire e.1) ++
    (d.copies.filterMap fun q => q.2.paused.map fun a => execRefetchFillComplete q.2.ctx (BitVec.ofNat 27 (pageNum a))) ++
    (d.launches.flatMap fun e => launchEvents d e.1 e.2) ++ (d.ctxs.map fun e => execLttInstall e.1) ++
    (d.parts.map fun e => execDispatchAdmission (BitVec.ofNat 4 e.1)) ++
    (d.parts.map fun e => execFillReserveRefill (BitVec.ofNat 4 e.1) (8 - e.2.reserve.length)) ++ [execLevelChangeComplete] ++
    (d.ports.map fun e => execWavelengthWake (BitVec.ofNat 6 e.1)) ++
    ((d.parts.flatMap fun e => e.2.stopes).flatMap fun n => (List.range 4).map fun q => execTaskResumption (coreIdOf (4 * n + q)))

/-- Whether a happening is due: whether it changes the device. DESIGN CHOICE (log 56). -/
def changes (s : State) (f : Happening) : Bool :=
  match f s with
  | .next t => t.dev != s.dev
  | .fault _ => false
  | .refused _ => false

/-- How long the clocks stay as they are: to the end of a change's longest time, at most (R140). -/
def steadyFor (d : Dev) (dt : Nat) : Nat :=
  match d.power.moving with
  | some m => min dt (m.2.2 + moveBound - d.now)
  | none => dt

/-- Device time passes, with the changes of level that take their longest time in it. -/
def tickTime (d : Dev) (dt : Nat) : Dev :=
  let n := steadyFor d dt
  let d := boundLevels (elapse d n)
  if n < dt then boundLevels (elapse d (dt - n)) else d

/-- Device time goes on past a moment of an evaluation: the governor has evaluated there, with the readings as they were
where the agenda brought none, and with no queue above 75 % (R139, R143). DESIGN CHOICE (log 47). -/
def governed (d : Dev) (dt : Nat) : Dev :=
  if dt ≠ 0 && d.foreman.booted && evaluates d then evaluate d ⟨false, []⟩ else d

/-- Device time passes, from one multiple of 10,000 ns to the next. -/
def tickPeriods : Nat → Dev → Nat → Dev
  | 0, d, dt => tickTime (governed d dt) dt
  | n + 1, d, dt =>
    let d := governed d dt
    let m := 10000 - d.now % 10000
    if dt ≤ m then tickTime d dt else tickPeriods n (tickTime d m) (dt - m)

/-- Device time passes; channels that have reported errors are retired, and what waits for the scoreboards, and
requests and replies that wait, are carried on. -/
def passTime (d : Dev) (dt : Nat) : Dev :=
  let d := retireErred (tickPeriods dt d dt)
  let d := if d.launches.any fun e => !e.2.imaged.isEmpty || !e.2.saved.isEmpty then restoreWaiting d else d
  let d := if d.arrivals.isEmpty then d else drainArrivals d
  let d := if d.late.isEmpty then d else drainLate d
  let d := if d.foreman.waiting.isEmpty then d else serveMemory (serveWaiting d)
  if d.foreman.held.isEmpty then d else releaseHeld d

/-- Take one turn. DESIGN CHOICE (log 2, 59). -/
def takeTurn (t : Turn) (s : State) : Out :=
  let s := { s with dev := passTime s.dev t.dt, clause := none }
  match t.move with
  | .core k => coreTurn (k % 256) s
  | .event i =>
    if isWord i then .refused .wordAsEvent
    else if wellFormed i then exec i s
    else .refused .illFormedEvent
  | .input x => .next { s with dev := takeInput s.dev x }

/-- What the machine does where the agenda is empty: what is due first, or the turn of the next core.
DESIGN CHOICE (log 2). -/
def ownTurn (s : State) : Out :=
  let s := { s with dev := passTime s.dev 1, clause := none }
  match (ownEvents s.dev).find? (changes s) with
  | some f => f s
  | none => coreTurn (nextCore s.dev s.cur) s

/-- One step of the machine: the next turn of the agenda, or what it does of its own accord. -/
def runTurn (s : State) : Out :=
  match s.agenda with
  | t :: r => takeTurn t { s with agenda := r }
  | [] => ownTurn s

/-! ## A program of one word -/

def probeRecord : LaunchRec :=
  { kernel := 0, gloss := 0, tasks := 1, gangLog := 0, priority := 0, regen := false, riskInt := false, steps := 1,
    switches := 0, ranges := 0, seed := 0, params := [], deadlines := 0, switchTab := 0, schedule := 0,
    rangeList := 0, cont := 0x1000, frameBase := 0, frameSize := 0, complRec := 0, complCtr := 0 }

def probeTask : Task :=
  { state := .running, core := 0xFFFF, place := 0, cause := 0, wait := .nothing, waitAddr := 0, waitVal := 0,
    opening := false, gained := [], riskPend := false, risk := none, arrivals := [],
    gArrivals := [], snap := none, snapPtr := 0, notice := [] }

/-- DESIGN CHOICE (log 4). -/
def probeLaunch : Launch :=
  { launchOfRecord 0 0 0 0 probeRecord 0 with state := .running, number := some 0, gang := [0], tasks := [(0, probeTask)] }

/-- DESIGN CHOICE (log 4). -/
def probePart : Partition :=
  { stopes := [0], channels := [0], dmode := false, deflt := 5, stage2 := [(0, 0)], shootGen := 0, shootLog := [],
    shootHold := false, reserve := [], free := [], leaving := [], ceded := [], shares := [], since := 0, seqs := [], assign := [] }

/-- DESIGN CHOICE (log 4). -/
def probeContext : Context :=
  { part := 0, ident := 1, owner := 0,
    regions := [(0, ⟨false, 2, 7, true, false, 0, 0⟩)], pages := [], regen := 0, dmask := 0, pending := none,
    since := 0, sampling := none, snapBase := 2 ^ 40 }

/-- Core 0 runs a launch whose text is one word at address 0 of a whole HBM region, and moves next.
DESIGN CHOICE (log 4). -/
def placeWord (s : State) (w : Nat) : State :=
  let d := s.dev
  { s with
    dev := { d with
      parts := minsert d.parts 0 probePart, ctxs := minsert d.ctxs 0 probeContext,
      launches := minsert d.launches 0 probeLaunch,
      cores := minsert d.cores 0 { coreReset with run := some ⟨0, 0⟩ },
      mem := writeN d.mem (hbmLoc 0) 4 w },
    agenda := [⟨1, .core 0⟩], cur := 0, clause := none }

end Sys2Proof.Machine
end

