-- ==== Sys2Proof/Machine/Step.lean ====
section
/-! DEFINITION. The step of the machine, and the placing of one word to be run. -/

namespace Sys2Proof.Machine

def step (s : State) : Host.Outcome State Fault Refusal := runTurn s

/-- s with a word stored where the next step fetches it; a word of the MB4 has 32 bits (R173). DESIGN CHOICE (log 4). -/
def State.withFetchWord (s : State) (_nbits w : Nat) : State := placeWord s w

end Sys2Proof.Machine
end

