-- ==== Sys2Proof/Safety.lean ====
section
/-! DEFINITION. What a safe run is, what stays true of a core and of memory, and the words in which the obligations are
said: the sources that an instruction names, the checks that an access passes, and what a step leaves alone. -/

namespace Sys2Proof.Machine

/-! ## Runs and invariants -/

/-- Memory is canonical. -/
def State.memOk (s : State) : Bool := Memory.wf s.dev.mem

/-- A run of n steps that neither faults nor is refused. -/
def safeRun (n : Nat) (s : State) : Prop := ∃ t, Host.Core.run
  ⟨State, Fault, Refusal, step, State.reset⟩ n s = .next t

/-- Every byte of memory reads in t as it reads in s. -/
def sameBytes (m n : Memory) : Prop := ∀ loc, readByte n loc = readByte m loc

/-- Memory n is memory m with cells written: the last byte listed for a place, elsewhere as before. -/
def writtenBytes (m n : Memory) (cs : List Host.Cell) : Prop :=
  ∀ loc, readByte n loc = match cs.reverse.find? (fun c => c.1 == loc) with
    | some c => c.2
    | none => readByte m loc

/-! ## Sources (R179, R182) -/

/-- The source registers of a word, in the order in which they are checked, with the trap bit that covers each
(spec/09_encoding.md R181, R182; the field tables of each family's chapter). -/
def sourcesOf (i : Instr) (s : State) : List Source :=
  match i with
  | .nop | .eret | .rdsr _ _ | .fenceS | .fenceD | .fenceY | .suspend | .endstep | .swpt _ | .li _ _ _ | .jmp _ | .jal _
  | .mlease | .mrel | .mclr _ => []
  | .trap a _ t | .wrsr a _ t | .exit a t | .snaprd _ a t | .launch _ a t => [gSrc s a t]
  | .snapwr a b t u | .deadline a b t u | .waitge a b t u | .armcnt a b t u | .bar a b t u => [gSrc s a t, gSrc s b u]
  | .add _ a b t u | .sub _ a b t u | .and _ a b t u | .or _ a b t u | .xor _ a b t u | .andn _ a b t u
  | .sll _ a b t u | .srl _ a b t u | .sra _ a b t u | .rotl _ a b t u | .slt _ a b t u | .sltu _ a b t u
  | .seq _ a b t u | .min _ a b t u | .max _ a b t u | .minu _ a b t u | .maxu _ a b t u | .mul _ a b t u
  | .mulh _ a b t u | .mulhu _ a b t u | .mulhsu _ a b t u | .div _ a b t u | .divu _ a b t u | .rem _ a b t u
  | .remu _ a b t u | .call _ a b t u => [gSrc s a t, gSrc s b u]
  | .clz _ a t | .popc _ a t | .slli _ a _ t | .srli _ a _ t | .srai _ a _ t | .rotli _ a _ t | .addi _ a t _
  | .jr a t | .jalr _ a t | .ret a t | .gset a t | .loop _ a _ t => [gSrc s a t]
  | .lik d _ _ => [gSrc s d false]
  | .beq a b t _ | .bne a b t _ | .blt a b t _ | .bge a b t _ | .bltu a b t _ | .bgeu a b t _ =>
    [gSrc s a t, gSrc s b t]
  | .pand _ a b t u | .por _ a b t u | .pxor _ a b t u | .pandn _ a b t u => [pSrc s a.toNat t, pSrc s b.toNat u]
  | .pnot _ a t | .pcnt _ a t => [pSrc s a.toNat t]
  | .ld _ b t _ _ | .vld _ b t _ => [gSrc s b t]
  | .st r b t u _ => [gSrc s r t, gSrc s b u]
  | .ald _ a t _ _ _ => [gSrc s a t]
  | .ast d a t _ _ _ | .atomAdd d a t _ _ _ | .atomAnd d a t _ _ _ | .atomOr d a t _ _ _ | .atomXor d a t _ _ _
  | .atomMin d a t _ _ _ | .atomMax d a t _ _ _ | .atomMinu d a t _ _ _ | .atomMaxu d a t _ _ _ | .atomSwap d a t _ _ _
  | .aredAdd d a t _ _ _ | .aredAnd d a t _ _ _ | .aredOr d a t _ _ _ | .aredXor d a t _ _ _ | .aredMin d a t _ _ _
  | .aredMax d a t _ _ _ | .aredMinu d a t _ _ _ | .aredMaxu d a t _ _ _ => [gSrc s a t, gSrc s d t]
  | .atomFadd d a t _ _ | .atomFmin d a t _ _ | .atomFmax d a t _ _ | .aredFadd d a t _ _ | .aredFmin d a t _ _
  | .aredFmax d a t _ _ | .aenq d a t _ _ | .apchase d a t _ _ => [gSrc s a t, gSrc s d t]
  | .acas d a t _ _ _ => [gSrc s a t, gSrc s (pairReg d) t, gSrc s (pairReg d + 1) t]
  | .acas2 d a t _ _ =>
    [gSrc s a t, gSrc s (quadReg d) t, gSrc s (quadReg d + 1) t, gSrc s (quadReg d + 2) t, gSrc s (quadReg d + 3) t]
  | .vstW v b t p | .vstH v b t p | .vstB v b t p => [vSrc s v t, gSrc s b t, pSrc s p.toNat false]
  | .vgather _ b x t p => [gSrc s b t, vSrc s x t, pSrc s p.toNat t]
  | .vscatter v b x t p => [vSrc s v t, gSrc s b t, vSrc s x t, pSrc s p.toNat t]
  | .vadd d a b t p | .vsub d a b t p | .vmul d a b t p | .vmin d a b t p | .vmax d a b t p | .vand d a b t p
  | .vor d a b t p | .vxor d a b t p | .vfadd d a b t p | .vfsub d a b t p | .vfmul d a b t p | .vfdiv d a b t p
  | .vfmin d a b t p | .vfmax d a b t p | .vshl d a b t p | .vshr d a b t p | .vshra d a b t p | .vperm d a b t p =>
    [vSrc s a t, vSrc s b t] ++ mergeSrc s d t p ++ [pSrc s p.toNat false]
  | .vfsqrt d a t p | .vfabs d a t p | .vexp2 d a t p | .vlog2 d a t p | .vrcp d a t p | .vrsqrt d a t p
  | .vsinpi d a t p | .vtanh d a t p | .vrng d a t p => [vSrc s a t] ++ mergeSrc s d t p ++ [pSrc s p.toNat false]
  | .vbcast d a _ t p => [gSrc s a t] ++ mergeSrc s d t p ++ [pSrc s p.toNat false]
  | .vcvt d a _ _ _ p _ => [vSrc s a false] ++ mergeSrc s d false p ++ [pSrc s p.toNat false]
  | .vfma d a b t p | .vfms d a b t p | .vfnma d a b t p | .vfnms d a b t p | .vmad d a b t p | .vdot4 d a b t p =>
    [vSrc s a t, vSrc s b t, vSrc s d t, pSrc s p.toNat false]
  | .vred _ a _ t p | .vqnt _ a _ t p => [vSrc s a t, pSrc s p.toNat false]
  | .vpack d a _ t => [vSrc s a t, vSrc s d t]
  | .vunpack _ a _ t => [vSrc s a t]
  | .vcmpeq _ a b t p | .vcmplt _ a b t p | .vcmple _ a b t p | .vfcmpeq _ a b t p | .vfcmplt _ a b t p
  | .vfcmple _ a b t p => [vSrc s a t, vSrc s b t, pSrc s p.toNat false]
  | .vsel _ a b t p => [vSrc s a t, vSrc s b t, pSrc s p.toNat false]
  | .vmsk _ a t p => [vSrc s a t, pSrc s p.toNat false]
  | .mofs _ a t => [gSrc s a t]
  | .mstat _ k => match k with
    | .offset r => [oSrc r false]
    | .bank _ | .lease => []
  | .mma w a x y t | .mmaw w a x y t =>
    [gSrc s (pairAt w 0) t, gSrc s (pairAt w 1) t, gSrc s (pairAt a 0) t, gSrc s (pairAt a 1) t, oSrc x t, oSrc y t]
  | .mdrain p _ _ _ t => [gSrc s (pairAt p 0) t, gSrc s (pairAt p 1) t]
  | .cpy _ q n u v | .cpyh _ q n u v | .cpyp _ q n u v | .cpye _ q n u v =>
    (List.range 4).map (fun j => gSrc s (quadAt q j) u) ++ (if n = 0 then [] else [gSrc s n v])
  | .stage a t | .post a t => [gSrc s a t]
  | .rld _ a b t u | .trig a b t u | .ticket _ a b t u | .flagadd a b t u | .barg a b t u => [gSrc s a t, gSrc s b u]
  | .rst r a b t u => [gSrc s a t, gSrc s b u, vSrc s r t]
  | .ratAdd d a b t u | .ratAnd d a b t u | .ratOr d a b t u | .ratXor d a b t u | .ratMin d a b t u
  | .ratMax d a b t u | .ratSwap d a b t u | .rredAdd d a b t u | .rredAnd d a b t u | .rredOr d a b t u
  | .rredXor d a b t u | .rredMin d a b t u | .rredMax d a b t u | .rredFadd d a b t u | .rredFmin d a b t u
  | .rredFmax d a b t u | .flagset d a b t u => [gSrc s a t, gSrc s b u, gSrc s d t]
  | .ratCas d a b t u => [gSrc s a t, gSrc s b u, gSrc s (pairReg d) t, gSrc s (pairReg d + 1) t]
  | .identify _ | .attest _ | .firmwareLoad _ | .partitionAssign _ | .partitionRelease _ | .sessionOpen _
  | .unsupportedPacket _ | .lttLoad _ | .contextRelease _ | .lttInstall _ | .lttShootdown _ | .launchRequest _
  | .launchStatus _ | .launchCancel _ | .launchCancelForce _ | .memRead _ | .memWrite _ | .snapshotRead _
  | .snapshotWrite _ | .telemetryStatus _ | .telemetryStartSampling _ | .telemetryStopSampling _
  | .telemetryDrainSamples _ | .boot _ | .checkedPairTakeover | .stopeFailure _ | .hbmChannelRetirement _ _ | .dieLoss _
  | .dispatchAdmission _ | .backoffExpiry _ | .launchPreemption _ | .taskPreemption _ _ | .preemptionDeferralBound _
  | .taskResumption _ | .regenerationLaunch _ _ | .refetchFillComplete _ _ | .stepClose _ | .stepOpen _ | .launchFault _
  | .resultWrite _ | .loadDataArrival _ _ _ | .landingWrite _ | .freezeTimeout _ | .checkWindowClose _ | .timingReplay _
  | .atomicAcknowledgement _ _ | .deadlineRiskInterrupt _ | .governorEvaluation _ | .levelChangeComplete | .powerGrant _
  | .energySample _ _ | .timeCalibration _ _ _ | .leaseGrant _ | .matrixCommandStart _ | .matrixCommandComplete _ _ _
  | .bankRelease _ _ | .bankRestore _ _ | .copySector _ _ _ | .copyCompletion _ _ | .scheduleEntryStart _ _
  | .operationPacketArrival _ | .dispenserStore _ _ _ _ | .fabricOpCompletion _ _ | .endToEndTimeout _
  | .rackAcknowledgement _ | .postedOpFire _ | .switchBarrierRelease _ _ | .flitReceive _ _ _ | .stripeRequestRepeat _
  | .fecWindowClear | .wavelengthLockLoss _ _ | .retrainingEnd _ _ _ | .wavelengthPark _ | .wavelengthWake _
  | .fillReserveRefill _ _ | .nakRepeat _ => []

/-- Every source of a word can be read. -/
def sourcesFull (i : Instr) (s : State) : Prop := ∀ x ∈ sourcesOf i s, readable (src s) x = true

/-! ## The words of the S pipe (R217 to R230) -/

/-- A word of two g registers: its form, its latency (R195), and its value (R217, R219). -/
structure PairRow where
  word    : RegNum → RegNum → RegNum → Bool → Bool → Instr
  latency : Nat
  value   : Dword → Dword → Dword

/-- The tables of R217 and R219, in exact arithmetic that is then reduced to 64 bits (R216). -/
def pairRows : List PairRow :=
  [⟨.add, 1, fun a b => BitVec.ofInt 64 (a.toInt + b.toInt)⟩,
   ⟨.sub, 1, fun a b => BitVec.ofInt 64 (a.toInt - b.toInt)⟩,
   ⟨.and, 1, fun a b => a &&& b⟩,
   ⟨.or, 1, fun a b => a ||| b⟩,
   ⟨.xor, 1, fun a b => a ^^^ b⟩,
   ⟨.andn, 1, fun a b => a &&& ~~~b⟩,
   ⟨.sll, 1, fun a b => BitVec.ofNat 64 (a.toNat * 2 ^ (b.toNat % 64))⟩,
   ⟨.srl, 1, fun a b => BitVec.ofNat 64 (a.toNat / 2 ^ (b.toNat % 64))⟩,
   ⟨.sra, 1, fun a b => BitVec.ofInt 64 (a.toInt / ((2 ^ (b.toNat % 64) : Nat) : Int))⟩,
   ⟨.rotl, 1, fun a b =>
      BitVec.ofNat 64 (a.toNat * 2 ^ (b.toNat % 64) + a.toNat / 2 ^ (64 - b.toNat % 64))⟩,
   ⟨.slt, 1, fun a b => if a.toInt < b.toInt then 1 else 0⟩,
   ⟨.sltu, 1, fun a b => if a.toNat < b.toNat then 1 else 0⟩,
   ⟨.seq, 1, fun a b => if a = b then 1 else 0⟩,
   ⟨.min, 1, fun a b => BitVec.ofInt 64 (min a.toInt b.toInt)⟩,
   ⟨.max, 1, fun a b => BitVec.ofInt 64 (max a.toInt b.toInt)⟩,
   ⟨.minu, 1, fun a b => BitVec.ofNat 64 (min a.toNat b.toNat)⟩,
   ⟨.maxu, 1, fun a b => BitVec.ofNat 64 (max a.toNat b.toNat)⟩,
   ⟨.mul, 3, fun a b => BitVec.ofInt 64 (a.toInt * b.toInt)⟩,
   ⟨.mulh, 3, fun a b => BitVec.ofInt 64 (a.toInt * b.toInt / 2 ^ 64)⟩,
   ⟨.mulhu, 3, fun a b => BitVec.ofNat 64 (a.toNat * b.toNat / 2 ^ 64)⟩,
   ⟨.mulhsu, 3, fun a b => BitVec.ofInt 64 (a.toInt * (b.toNat : Int) / 2 ^ 64)⟩,
   ⟨.div, 16, fun a b => if b = 0 then BitVec.ofInt 64 (-1) else BitVec.ofInt 64 (a.toInt.tdiv b.toInt)⟩,
   ⟨.divu, 16, fun a b => if b = 0 then 0xFFFFFFFFFFFFFFFF#64 else BitVec.ofNat 64 (a.toNat / b.toNat)⟩,
   ⟨.rem, 16, fun a b => if b = 0 then a else BitVec.ofInt 64 (a.toInt - b.toInt * a.toInt.tdiv b.toInt)⟩,
   ⟨.remu, 16, fun a b => if b = 0 then a else BitVec.ofNat 64 (a.toNat - b.toNat * (a.toNat / b.toNat))⟩]

/-- The number of leading zero bits (R217). -/
def leadingZeros (a : Dword) : Nat := ((List.range 64).takeWhile fun i => !a.getLsbD (63 - i)).length

/-- The number of one bits. -/
def oneBits {n : Nat} (a : BitVec n) : Nat := ((List.range n).filter a.getLsbD).length

/-- A word of two p registers (R227). -/
structure PredRow where
  word  : RegNum → RegNum → RegNum → Bool → Bool → Instr
  value : Bool → Bool → Bool

def predRows : List PredRow :=
  [⟨.pand, fun a b => a && b⟩, ⟨.por, fun a b => a || b⟩, ⟨.pxor, fun a b => a != b⟩, ⟨.pandn, fun a b => a && !b⟩]

/-- A conditional branch (R221). -/
structure BranchRow where
  word  : RegNum → RegNum → Bool → BitVec 10 → Instr
  holds : Dword → Dword → Prop

def branchRows : List BranchRow :=
  [⟨.beq, fun a b => a = b⟩, ⟨.bne, fun a b => a ≠ b⟩, ⟨.blt, fun a b => a.toInt < b.toInt⟩,
   ⟨.bge, fun a b => b.toInt ≤ a.toInt⟩, ⟨.bltu, fun a b => a.toNat < b.toNat⟩, ⟨.bgeu, fun a b => b.toNat ≤ a.toNat⟩]

/-- The core that moves is c, and control passes to a: at the end of the clause in flight, where there is one. -/
def goTo (s : State) (c : Core) (a : Va) : State :=
  match s.clause with
  | some q => { setLive s c with clause := some { q with target := some a } }
  | none => setLive s { c with pc := a }

/-- A core after a transfer of a branch, JMP, JR or SWPT: the loop stays active only for a target in its body (R230). -/
def leavingLoop (c : Core) (a : Va) : Core :=
  { c with active := c.active && decide (c.lstart.toNat ≤ a.toNat ∧ a.toNat < c.lend.toNat) }

/-- The target of a register transfer is well placed (R224). -/
def goodTarget (s : State) (x : Dword) : Prop :=
  x.toNat < 2 ^ 48 ∧ ((x.toNat : Int) - ((anchorOf s.dev s.cur).toNat : Int)) % 12 = 0

/-- p8 all ones and p9 to p15 all zeros, at the rotation in force (R228), where no word later than w owns the register;
one that such a word owns is unchanged (R200). -/
def stagesSet (old c : Core) (w : Nat) : Prop :=
  ∀ j, 8 ≤ j → j < 16 →
    let n := physP c.rrb j
    (ownerOf old .p n ≤ w → physReadP c n = if j = 8 then BitVec.allOnes 128 else 0) ∧
    (w < ownerOf old .p n → physReadP c n = physReadP old n)

/-! ## Registers (R195 to R202) -/

/-- What a register holds, by file and physical number, in the low bits. -/
def regValue (c : Core) (f : RegFile) (n : Nat) : Vec :=
  match f with
  | .g => (physReadG c n).setWidth 1024
  | .v => physReadV c n
  | .p => (physReadP c n).setWidth 1024
  | .o => (readO c n).setWidth 1024

/-- The width of a register. -/
def regWidth : RegFile → Nat
  | .g => 64 | .v => 1024 | .p => 128 | .o => 64

/-- How many schedule cycles pass, with the writes that are due at the start of each that follows (R195, R196). -/
def cycles : Nat → Core → Core
  | 0, c => c
  | n + 1, c => cycles n (writeDue (tickFlights c))

/-- A core but for the results in flight, the marks and the owners of its registers. -/
def sameButFlights (c c' : Core) : Prop :=
  c' = { c with flights := c'.flights, empty := c'.empty, owner := c'.owner }

/-! ## Turns -/

/-- Core k issues a clause on its turn: it runs a task of a running launch, nothing replays, nothing holds it, its stope
or its fetch back, no trap or interrupt waits, and no die that it touches is lost. -/
def clearToIssue (d : Dev) (k : Nat) : Prop :=
  issuing d k = true ∧ clauseReplays d k = false ∧ preemptDue d.now (coreAt d k) = false ∧
    replaying d (stopeOf k) = false ∧ frozenBy d k = false ∧
    lateLanding (coreAt (atTurn d k) k) = none ∧ (coreAt (atTurn d k) k).bubble = false ∧
    heldBack (coreAt (atTurn d k) k) = false ∧ (coreAt (atTurn d k) k).pend = none ∧ newlyLost d k = none ∧
    boundary (atTurn d k) k = none ∧
    ∀ x, launchOf (atTurn d k) k = some x →
      fetchWaits (atTurn d k) k x = false ∧ fetchDies (atTurn d k) k x &&& (atTurn d k).lost = 0

/-- The device as core k's clause is fetched: the results that are due are written, and the dies of its text touched. -/
def atFetch (d : Dev) (k : Nat) (x : Launch) : Dev := touchDies (atTurn d k) x.ctx (fetchDies (atTurn d k) k x)

/-- The head of the agenda is no word and no ill-formed event. -/
def fairAgenda (s : State) : Prop :=
  ∀ t, s.agenda.head? = some t → ∀ i, t.move = .event i → isWord i = false ∧ wellFormed i = true

/-! ## Traps (R205 to R208) -/

/-- A trap on core k of a device enters a handler, rather than stopping its launch (R58, R205). -/
def handled (d : Dev) (k : Nat) : Prop :=
  (coreAt d k).tvec ≠ 0 ∧ packetStart (anchorOf d k) (coreAt d k).tvec = true ∧
    ¬ ((coreAt d k).inHandler = true ∧ (coreAt d k).fresh = true)

/-- What a core latches at a trap entry (R205): its position, and the results in flight that own their registers. -/
def latched (c : Core) (l : Latch) (resume : Va) : Prop :=
  l.pc = resume ∧ l.gpc = c.gpc ∧ l.glink = c.glink ∧ l.lstart = c.lstart ∧ l.lend = c.lend ∧ l.lgpc = c.lgpc ∧
    l.active = c.active ∧ l.lc = c.lc ∧ l.ec = c.ec ∧ l.rrb = c.rrb ∧
    l.inflight = (c.flights.filter fun f => f.fixed && owns c f).map entryOf ∧
    l.landing = (c.flights.filter fun f => !f.fixed && owns c f).map entryOf

/-- The registers that a core holds, their marks and their owners. -/
def sameRegisters (c c' : Core) : Prop :=
  c'.g = c.g ∧ c'.v = c.v ∧ c'.p = c.p ∧ c'.o = c.o ∧ c'.empty = c.empty ∧ c'.owner = c.owner

/-- The position of a core: where it issues, its gloss and its loop. -/
def samePosition (c c' : Core) : Prop :=
  c'.pc = c.pc ∧ c'.gpc = c.gpc ∧ c'.lstart = c.lstart ∧ c'.lend = c.lend ∧ c'.lgpc = c.lgpc ∧ c'.active = c.active ∧
    c'.lc = c.lc ∧ c'.ec = c.ec ∧ c'.rrb = c.rrb

/-! ## Accesses (R60, R67, R86, R101, R233) -/

/-- The address of an access, with its rights, leads to a place: the checks of R233 before the race check pass. -/
def reaches (s : State) (q : Reach) (x : Launch) (p : Place) : Prop :=
  launchOf s.dev s.cur = some x ∧ q.va.toNat < 2 ^ 48 ∧ xlate s.dev x (stopeOf s.cur) q.user q.right q.va = .place p ∧
    offTarget q p = false ∧ q.va.toNat % q.align = 0

/-- The granules of n bytes at a place, where it lies in memory. -/
def accessGranules (p : Place) (n : Nat) : List Nat :=
  match locOf p with
  | some l => granules l n
  | none => []

/-- An access of the task that runs races with none (R106): the tags after it. -/
def raceFree (s : State) (x : Launch) (gs : List Nat) (write atom engine : Bool) (tags : SMap Tag) : Prop :=
  ∃ r, (live s).run = some r ∧ (src s).run = some r ∧
    raceAll (heldNumber s.dev x.ctx) (live s).acq (accessOf x r.task (live s).epoch write atom engine) gs s.dev.tags =
      .ok tags

/-- None of the dies that an access touches is lost (R86). -/
def diesSound (s : State) (bits : Byte) : Prop := bits &&& s.dev.lost = 0

/-- The state after an access has been checked: its race tags, and its bits of sr.dmask. -/
def accessed (s : State) (x : Launch) (bits : Byte) (tags : SMap Tag) : State :=
  { s with dev := touchDies { s.dev with tags := tags } x.ctx bits }

/-- The n bytes from an address on can be read as a fetch is, at a list of places in memory. -/
def fetchable (s : State) (x : Launch) (va : Dword) (n : Nat) (ls : List Nat) : Prop :=
  launchOf s.dev s.cur = some x ∧ ls.length = n ∧ ∃ ps : Nat → Place,
    ∀ i, i < n → xlate s.dev x (stopeOf s.cur) .fetch .read (va + BitVec.ofNat 64 i) = .place (ps i) ∧
      locOf (ps i) = ls[i]?

/-- A read at issue of granules waits for nothing: no access of an earlier clause, no engine that writes them, and none
of its own clause (R91, R269, R297). -/
def readable' (s : State) (gs : List Nat) : Prop :=
  readWaits s gs = false ∧
    ((live s).window.any fun w => w.seq == s.dev.issues && blocksLoad (w.word + 1) gs w) = false

/-- Whether a load of a core has yet to land: its data has not arrived, or waits in the vault port (R90, R201). -/
def loadsOut (c : Core) : Bool := loadsLeft c || c.flights.any fun f => waitsPort f && owns c f

/-- Nothing of the core is outstanding, of an earlier clause or of this one: no store or atomic that waits, no
acknowledgement, and no load. -/
def quiet (s : State) : Prop :=
  storesLeft (src s) = false ∧ storesLeft (live s) = false ∧ loadsOut (src s) = false ∧ loadsOut (live s) = false

/-- The race epoch after a release: one more, up to 4,095 (R104). -/
def nextEpoch (e : BitVec 12) : BitVec 12 := BitVec.ofNat 12 (min 4095 (e.toNat + 1))

/-- A task whose suspension can be written: where it runs, the launch, the places of its record and of its save area,
and the race tags after the write of the save area (R47, R49, R199); no die that holds them is lost (R86). -/
structure Suspending where
  run    : Running
  entry  : Launch
  record : List Nat
  save   : List Nat
  tags   : SMap Tag

/-- The task that core k of a device runs can suspend there. -/
def Suspending.holds (q : Suspending) (d : Dev) (k : Nat) : Prop :=
  (coreAt d k).run = some q.run ∧ launchAt d q.run.launch = some q.entry ∧
    placeBytes d q.entry (stopeOf k) .fetch .write
      (q.entry.record.cont.setWidth 64 + BitVec.ofNat 64 (64 * q.run.task)) 64 = .ok q.record ∧
    (if q.entry.record.frameSize < 64 then q.save = []
     else placeBytes d q.entry (stopeOf k) .core .write (physReadG (coreAt d k) 60) 32 = .ok q.save) ∧
    raceAll (heldNumber d q.entry.ctx) (coreAt d k).acq
      (accessOf q.entry q.run.task (coreAt d k).epoch true false false) (granulesOf q.save) d.tags = .ok q.tags ∧
    diesAt (stopeOf k) (q.record ++ q.save) &&& d.lost = 0

/-- What a suspension leaves of core k (R48, R49, R235, R291): its results are discarded, but for loads that are still
to answer, which no register awaits; its lease is given up, and the last entry of its check window is the continuation,
which gives the task its new state. -/
def suspendedTo (d d' : Dev) (k : Nat) (r : Running) (st : TaskState) (pc : Va) : Prop :=
  (coreAt d' k).leaving = true ∧ (coreAt d' k).owner = [] ∧
    (∀ f ∈ (coreAt d' k).flights, isLoad f.src = true ∧ f.arrived = false) ∧
    (coreAt d' k).lease = false ∧
    (coreAt d' k).run = some r ∧ d'.mem = d.mem ∧
    ∃ w seq cells, (coreAt d' k).window = (coreAt d k).window ++ [⟨w, seq, .continuation r.launch r.task st cells⟩] ∧
      ∀ j, j < 6 → (cells.map (·.2))[j]? = some (BitVec.ofNat 8 (pc.toNat / 2 ^ (8 * j)))

/-! ## System registers (R270, R271) -/

/-- The system registers that WRSR writes whole, with their widths. -/
def plainRegs : List (SysReg × Nat) :=
  [(.fflags, 5), (.seed, 64), (.tvec, 48), (.freezelimit, 32), (.glink, 48), (.lc, 32), (.ec, 16), (.lstart, 48),
   (.lgpc, 48)]

/-- The system registers of the image, in its order from 0x3C0 on (R209). -/
def imageRegs : List SysReg := [.fflags, .frm, .seed, .plevel, .tvec, .tcause, .tinfo, .freezelimit]

/-- The system registers that WRSR leaves as they are. -/
def readOnlyRegs : List SysReg := [.tcause, .tinfo, .dmask, .snapver, .gpc, .prio, .deadline, .cbase]

/-! ## Loads, stores and atomics (R236 to R247) -/

/-- The vector stores, with the bytes of an element (R238). -/
def vectorStores : List ((RegNum → RegNum → Bool → PredNum → Instr) × Nat) := [(.vstW, 4), (.vstH, 2), (.vstB, 1)]

/-- The bytes of a 128-byte access that a predicate selects, by elements of a size (R238). -/
def selectedBytes (p : Pred) (size : Nat) : List Nat := (List.range 128).filter fun k => p.getLsbD (size * (k / size))

/-- The granules of a vector store that hold a selected byte. -/
def storedGranules (pl : Place) (va : Dword) (ks : List Nat) : List Nat :=
  ((granulesAt pl va 128).filter fun g => ks.any fun k => (va + BitVec.ofNat 64 k) &&& ~~~31#64 == g.2).map (·.1)

/-- The address of lane i of a gather or scatter (R239). -/
def laneAddress (c : Core) (b x : RegNum) (i : Nat) : Dword := readG c b + BitVec.ofInt 64 (lane32 (readV c x) i).toInt

/-- The lanes of a gather or scatter that are active. -/
def lanesOn (c : Core) (p : PredNum) : List Nat := (List.range 32).filter fun i => (readP c p.toNat).getLsbD (4 * i)

/-- Every active lane lies in the page of the base, aligned to 4 bytes, and below the side bank's end (R239). -/
def lanesFit (c : Core) (b x : RegNum) (p : PredNum) (pl : Place) : Prop :=
  ∀ i ∈ lanesOn c p, (laneAddress c b x i).toNat / 2 ^ 21 = (readG c b).toNat / 2 ^ 21 ∧
    (laneAddress c b x i).toNat % 4 = 0 ∧
    (∀ st o, pl = .vault st o → o - (readG c b).toNat % 2 ^ 21 + (laneAddress c b x i).toNat % 2 ^ 21 < 0xD80000)

/-- An atomic form of one memory word (R241, R242): its word, what it does, whether it is a 4-byte form whatever its
size field, whether it returns a result, and whether D-mode rules it out (R109). -/
structure AtomRow where
  word   : RegNum → RegNum → Bool → Scope → Order → Bool → Instr
  fn     : AtomFn
  always : Bool
  result : Bool
  ruled  : Bool

def atomRows : List AtomRow :=
  [⟨.ast, .ast, false, false, false⟩,
   ⟨.atomAdd, .add, false, true, true⟩, ⟨.atomAnd, .and, false, true, true⟩, ⟨.atomOr, .or, false, true, true⟩,
   ⟨.atomXor, .xor, false, true, true⟩, ⟨.atomMin, .min, false, true, true⟩, ⟨.atomMax, .max, false, true, true⟩,
   ⟨.atomMinu, .minu, false, true, true⟩, ⟨.atomMaxu, .maxu, false, true, true⟩,
   ⟨.atomSwap, .swap, false, true, true⟩,
   ⟨fun d a t s o _ => .atomFadd d a t s o, .fadd, true, true, true⟩,
   ⟨fun d a t s o _ => .atomFmin d a t s o, .fmin, true, true, true⟩,
   ⟨fun d a t s o _ => .atomFmax d a t s o, .fmax, true, true, true⟩,
   ⟨.aredAdd, .add, false, false, false⟩, ⟨.aredAnd, .and, false, false, false⟩, ⟨.aredOr, .or, false, false, false⟩,
   ⟨.aredXor, .xor, false, false, false⟩, ⟨.aredMin, .min, false, false, false⟩, ⟨.aredMax, .max, false, false, false⟩,
   ⟨.aredMinu, .minu, false, false, false⟩, ⟨.aredMaxu, .maxu, false, false, false⟩,
   ⟨fun d a t s o _ => .aredFadd d a t s o, .fadd, true, false, true⟩,
   ⟨fun d a t s o _ => .aredFmin d a t s o, .fmin, true, false, false⟩,
   ⟨fun d a t s o _ => .aredFmax d a t s o, .fmax, true, false, false⟩]

/-- NV at issue for FMIN and FMAX with a signalling NaN as their operand (R243). -/
def issueFlags (f : AtomFn) (x : Word) : Flags := if (f = .fmin ∨ f = .fmax) ∧ isSnan (readFp32 x) then flagNV else 0

/-- The state after an atomic has issued (R241): a release advances the epoch, each result register waits for its
result, and the atomic is the last entry of the check window. -/
def atomIssued (u : State) (o : Order) (first results : Nat) (fl : Flags) (a : AtomReq) : State :=
  let w := (List.range results).foldl (fun s i => issueLoad s .g (first + i) 63 (.result i)) u
  let e := if o = .release ∨ o = .acqRel ∨ o = .sc then nextEpoch (live u).epoch else (live u).epoch
  let a : AtomReq := { a with epoch := e }
  setLive w { live w with
    epoch := e, fflags := (live w).fflags ||| fl, window := (live w).window ++ [⟨wordId u, u.dev.issues, .atomic a⟩] }

/-- The new value of an 8-byte word under an atomic with one operand (R242), in exact arithmetic. -/
def dwordRows : List (AtomFn × (Dword → Dword → Dword)) :=
  [(.ald, fun m _ => m), (.ast, fun _ x => x), (.swap, fun _ x => x), (.and, fun m x => m &&& x),
   (.or, fun m x => m ||| x), (.xor, fun m x => m ^^^ x), (.min, fun m x => BitVec.ofInt 64 (min m.toInt x.toInt)),
   (.max, fun m x => BitVec.ofInt 64 (max m.toInt x.toInt)), (.minu, fun m x => BitVec.ofNat 64 (min m.toNat x.toNat)),
   (.maxu, fun m x => BitVec.ofNat 64 (max m.toNat x.toNat))]

/-- The new value of a 4-byte word. -/
def wordRows : List (AtomFn × (Word → Word → Word)) :=
  [(.ald, fun m _ => m), (.ast, fun _ x => x), (.swap, fun _ x => x), (.add,
      fun m x => BitVec.ofNat 32 (m.toNat + x.toNat)),
   (.and, fun m x => m &&& x), (.or, fun m x => m ||| x), (.xor, fun m x => m ^^^ x),
   (.min, fun m x => BitVec.ofInt 32 (min m.toInt x.toInt)), (.max, fun m x => BitVec.ofInt 32 (max m.toInt x.toInt)),
   (.minu, fun m x => BitVec.ofNat 32 (min m.toNat x.toNat)), (.maxu, fun m x => BitVec.ofNat 32 (max m.toNat x.toNat)),
   (.fadd, fun m x => (floatAdd m x).1), (.fmin, fun m x => floatPick false m x), (.fmax, fun m x => floatPick true m x)]

/-- No waiting task's counter is reached in a device: a change of memory wakes none (R283). -/
def wakesNone (d : Dev) : Prop := metWaits d = []


/-! ## Vector words (R249 to R267) -/

/-- Whether lane i takes part under a predicate (R250). -/
def laneOn (c : Core) (p : PredNum) (i : Nat) : Bool := (readP c p.toNat).getLsbD (4 * i)

/-- A lane-wise result: active lanes take theirs, the others the old lane, and the flags are those of active lanes
(R250, R251). -/
def laneWise (c : Core) (p : PredNum) (old : Vec) (f : Nat → Word × Flags) (x : Vec) (fl : Flags) : Prop :=
  (∀ i, i < 32 → lane32 x i = if laneOn c p i then (f i).1 else lane32 old i) ∧
    ∀ j, j < 5 → (fl.getLsbD j = true ↔ ∃ i, i < 32 ∧ laneOn c p i = true ∧ (f i).2.getLsbD j = true)

/-- A word of two v registers, and perhaps its old result: latency, and the value of a lane in exact arithmetic, reduced
to 32 bits (R253 to R255). -/
structure LaneRow where
  word    : RegNum → RegNum → RegNum → Bool → PredNum → Instr
  latency : Nat
  value   : Word → Word → Word → Word

/-- Byte k of a lane as int8. -/
def byteInt (a : Word) (k : Nat) : Int := (a.extractLsb' (8 * k) 8).toInt

def laneRows : List LaneRow :=
  [⟨.vadd, 2, fun a b _ => BitVec.ofInt 32 (a.toInt + b.toInt)⟩,
   ⟨.vsub, 2, fun a b _ => BitVec.ofInt 32 (a.toInt - b.toInt)⟩,
   ⟨.vmul, 3, fun a b _ => BitVec.ofInt 32 (a.toInt * b.toInt)⟩,
   ⟨.vmin, 2, fun a b _ => BitVec.ofInt 32 (min a.toInt b.toInt)⟩,
   ⟨.vmax, 2, fun a b _ => BitVec.ofInt 32 (max a.toInt b.toInt)⟩,
   ⟨.vand, 2, fun a b _ => a &&& b⟩, ⟨.vor, 2, fun a b _ => a ||| b⟩, ⟨.vxor, 2, fun a b _ => a ^^^ b⟩,
   ⟨.vshl, 2, fun a b _ => BitVec.ofNat 32 (a.toNat * 2 ^ (b.toNat % 32))⟩,
   ⟨.vshr, 2, fun a b _ => BitVec.ofNat 32 (a.toNat / 2 ^ (b.toNat % 32))⟩,
   ⟨.vshra, 2, fun a b _ => BitVec.ofInt 32 (a.toInt / ((2 ^ (b.toNat % 32) : Nat) : Int))⟩,
   ⟨.vmad, 3, fun a b d => BitVec.ofInt 32 (a.toInt * b.toInt + d.toInt)⟩,
   ⟨.vdot4, 3, fun a b d => BitVec.ofInt 32 (d.toInt + byteInt a 0 * byteInt b 0 + byteInt a 1 * byteInt b 1 +
      byteInt a 2 * byteInt b 2 + byteInt a 3 * byteInt b 3)⟩]

/-- A floating-point word of v registers (R256 to R258): latency, and a lane's value and flags under sr.frm.Mode and
sr.seed. -/
structure FloatRow where
  word    : RegNum → RegNum → RegNum → Bool → PredNum → Instr
  latency : Nat
  value   : Mode → Dword → Word → Word → Word → FpRes

def floatRows : List FloatRow :=
  [⟨.vfadd, 4, fun m k a b _ => fpAdd m k a b⟩, ⟨.vfsub, 4, fun m k a b _ => fpSub m k a b⟩,
   ⟨.vfmul, 4, fun m k a b _ => fpMul m k a b⟩, ⟨.vfdiv, 16, fun m k a b _ => fpDiv m k a b⟩,
   ⟨.vfmin, 4, fun _ _ a b _ => fpMinMax false a b⟩, ⟨.vfmax, 4, fun _ _ a b _ => fpMinMax true a b⟩,
   ⟨.vfma, 4, fun m k a b d => fpFma m k false false a b d⟩, ⟨.vfms, 4, fun m k a b d => fpFma m k false true a b d⟩,
   ⟨.vfnma, 4, fun m k a b d => fpFma m k true false a b d⟩, ⟨.vfnms, 4, fun m k a b d => fpFma m k true true a b d⟩]

/-- A floating-point word of one v register (R256, R264). -/
structure SingleRow where
  word    : RegNum → RegNum → Bool → PredNum → Instr
  latency : Nat
  value   : Mode → Dword → Word → FpRes

def singleRows : List SingleRow :=
  [⟨.vfsqrt, 16, fpSqrt⟩, ⟨.vfabs, 4, fun _ _ a => fpAbs a⟩, ⟨.vexp2, 8, fun _ _ a => fpExp2 a⟩,
   ⟨.vlog2, 8, fun _ _ a => fpLog2 a⟩, ⟨.vrcp, 8, fun _ _ a => fpRcp a⟩, ⟨.vrsqrt, 8, fun _ _ a => fpRsqrt a⟩,
   ⟨.vsinpi, 8, fun _ _ a => fpSinpi a⟩, ⟨.vtanh, 8, fun _ _ a => fpTanh a⟩]

/-- An FP32 NaN, and a signalling one (R122). -/
def nanWord (a : Word) : Bool := 0x7F800000 < a.toNat % 2 ^ 31
def snanWord (a : Word) : Bool := nanWord a && !a.getLsbD 22

/-- An FP32 number that is no NaN as a multiple of 2^−149; an infinity lies beyond every finite number (R122). -/
def fp32Key (a : Word) : Int :=
  let e := a.toNat / 2 ^ 23 % 256
  let m := a.toNat % 2 ^ 23
  let k : Int := ((if e = 0 then m else (2 ^ 23 + m) * 2 ^ (e - 1) : Nat) : Int)
  if a.getLsbD 31 then -k else k

/-- A compare: its outcome on two lanes, and whether they set NV (R265). -/
structure CompareRow where
  word    : PredNum → RegNum → RegNum → Bool → PredNum → Instr
  holds   : Word → Word → Bool
  invalid : Word → Word → Bool

def compareRows : List CompareRow :=
  [⟨.vcmpeq, fun a b => a == b, fun _ _ => false⟩,
   ⟨.vcmplt, fun a b => decide (a.toInt < b.toInt), fun _ _ => false⟩,
   ⟨.vcmple, fun a b => decide (a.toInt ≤ b.toInt), fun _ _ => false⟩,
   ⟨.vfcmpeq, fun a b => !nanWord a && !nanWord b && decide (fp32Key a = fp32Key b), fun a b => snanWord a || snanWord b⟩,
   ⟨.vfcmplt, fun a b => !nanWord a && !nanWord b && decide (fp32Key a < fp32Key b), fun a b => nanWord a || nanWord b⟩,
   ⟨.vfcmple, fun a b => !nanWord a && !nanWord b && decide (fp32Key a ≤ fp32Key b), fun a b => nanWord a || nanWord b⟩]

/-- The lanes that take part in a reduction (R263). -/
def presentLanes (c : Core) (a : RegNum) (p : PredNum) : List Word :=
  ((List.range 32).filter (laneOn c p)).map (lane32 (readV c a))

/-- The code of FP32 that stands for 2^n. -/
def powerWord (n : Int) : Word := BitVec.ofInt 32 ((n + 127) * 2 ^ 23)

/-! ## The array and the copy engine (R289 to R344) -/

/-- A counted word on a bank can issue: the core holds the lease, and no other task holds the bank, nor a restore that
is due, in the device after what a release of the bank leaves (R290, R303). -/
def arrayReady (s : State) (r : Running) (x : Launch) (b : Nat) (v : Dev) : Prop :=
  (src s).lease = true ∧ launchOf s.dev s.cur = some x ∧ (src s).run = some r ∧
    v = releaseBank s.dev (stopeOf s.cur) b ∧ launchOf v s.cur = some x ∧
    bankPending v (stopeOf s.cur) b r.launch r.task = false ∧ bankTaken v (stopeOf s.cur) b r.launch r.task = false ∧
    arrayDie (stopeOf s.cur) &&& v.lost = 0

/-- What a counted word does at issue (R289, R291, R296, R303): its command is the last of the array's queue, with n
entries of the scoreboard; the bank is the task's, without what a task of another context left there; and one word of
the lease is used. -/
def arrayIssued (s u : State) (v : Dev) (r : Running) (x : Launch) (b : Nat) (op : ArrayOp) (n : Nat) : Prop :=
  let st := stopeOf s.cur
  (∃ i, (stopeAt u.dev st).arrayQ = (stopeAt v st).arrayQ ++ [⟨v.names, i, x.ctx, b, op, false⟩] ∧
    i.launch = r.launch ∧ i.task = r.task ∧ i.core = s.cur ∧ i.word = wordId s ∧ i.epoch = (live s).epoch) ∧
  (bankAt u.dev st b).owner = some (r.launch, r.task) ∧
  ((bankAt v st b).last ≠ some x.ctx → (bankAt v st b).owner = none →
    (bankAt u.dev st b).cells = [] ∧ (bankAt u.dev st b).flags = 0) ∧
  ((bankAt v st b).last = some x.ctx → (bankAt u.dev st b).cells = (bankAt v st b).cells) ∧
  ((live s).leaseRem.toNat ≤ 1 → (live u).lease = false ∧ (live u).leaseRem = 0) ∧
  (2 ≤ (live s).leaseRem.toNat → (live u).lease = (live s).lease ∧ (live u).leaseRem = (live s).leaseRem - 1) ∧
  (stopeAt u.dev st).board.length = (stopeAt v st).board.length + n ∧
  (∀ e ∈ (stopeAt u.dev st).board, e ∉ (stopeAt v st).board → e.cmd = v.names) ∧
  u.dev.mem = s.dev.mem ∧ (live u).g = (live s).g ∧ (live u).v = (live s).v ∧ (live u).p = (live s).p ∧
  (live u).pc = (live s).pc

/-- A copy word and the kind of its command (R333 to R336). -/
def copyRows : List ((RegNum → BitVec 4 → RegNum → Bool → Bool → Instr) × CopyKind) :=
  [(.cpy, .cpy), (.cpyh, .cpyh), (.cpyp, .cpyp), (.cpye, .cpye)]

/-- A copy command at the head of its channel, whose launch stands and which nothing keeps back. -/
def copyAtWork (d : Dev) (st ch n : Nat) (q : CopyCmd) (x : Launch) : Prop :=
  headCopy d st ch = some (n, q) ∧ launchAt d q.issue.launch = some x ∧ q.next < copySectors q.kind q.desc ∧
    boardClear d n q.issue.core q.issue.word = true

/-- The places of a list of addresses of an end of a copy. -/
def placed (d : Dev) (x : Launch) (st space : Nat) (r : Right) (as : List Dword) (ps : List Place) : Prop :=
  endPlaces d x st space r as = .ok ps

/-- A register result of a task is due at its word: on the core that runs the task, where the word still owns it. -/
def awaits (c : Core) (w : Nat) (f : Flight) : Prop :=
  f ∈ c.flights ∧ f.word = w ∧ f.arrived = false ∧ f.fixed = false ∧ owns c f = true

/-! ## The fabric (R351 to R378) -/

/-- A fabric word of three g registers: its function, and whether it returns a result (R370, R371). -/
structure FabRow where
  word   : RegNum → RegNum → RegNum → Bool → Bool → Instr
  fn     : FabFn
  result : Bool

def fabRows : List FabRow :=
  [⟨.ratAdd, .add, true⟩, ⟨.ratAnd, .and, true⟩, ⟨.ratOr, .or, true⟩, ⟨.ratXor, .xor, true⟩, ⟨.ratMin, .min, true⟩,
   ⟨.ratMax, .max, true⟩, ⟨.ratSwap, .swap, true⟩, ⟨.rredAdd, .redAdd, false⟩, ⟨.rredAnd, .redAnd, false⟩,
   ⟨.rredOr, .redOr, false⟩, ⟨.rredXor, .redXor, false⟩, ⟨.rredMin, .redMin, false⟩, ⟨.rredMax, .redMax, false⟩,
   ⟨.rredFadd, .redFadd, false⟩, ⟨.rredFmin, .redFmin, false⟩, ⟨.rredFmax, .redFmax, false⟩]

/-- A fabric word with address va and control word cw passes its checks for the place p, with the place of its
completion counter here (R364, R365): nothing is reserved or out of its function's range, the target is aligned and
allows the function, D-mode does not rule it out, and nothing holds the word back (R366, R367). -/
def fabReady (s : State) (f : FabFn) (va cw : Dword) (x : Launch) (p : Place) (counter : Option Nat) : Prop :=
  ctlBad f cw = false ∧ reaches s ⟨fabUser f, fabRight f, va, 1, false, false⟩ x p ∧ ctlBadAt s.dev x f cw va = false ∧
    (isAgent p && isRed f) = false ∧ va.toNat % ctlSize cw = 0 ∧ (fabRuled f p = true → dmodeOf s.dev s.cur = false) ∧
    (ctlNotify cw = true ∨ ctlCounter cw = 0 → counter = none) ∧
    (ctlNotify cw = false → ctlCounter cw ≠ 0 →
      ∃ q, reaches s ⟨.coreAtomic, .atomic, ctlCounter cw, 8, true, false⟩ x q ∧ counter = locOf q) ∧
    fabHeld s (releases (ctlOrder cw)) (ctlScope cw == .system) = false ∧
        diesSound s (diesOf (stopeOf s.cur) p ||| diesAt (stopeOf s.cur) counter.toList)

/-- A fabric operation has issued (R365 to R367): it waits in the check window under a new name, for its task; its
result register is empty; an acquire holds the next clause; and the race epoch advances. -/
def fabIssued (s u : State) (x : Launch) (k : Running) (r : FabRec) : Prop :=
  mfind u.dev.fabric s.dev.names = some r ∧ r.issue.launch = k.launch ∧ r.issue.task = k.task ∧ r.issue.core = s.cur ∧
    r.ctx = x.ctx ∧ r.part = x.part.toNat ∧ r.seqNo = none ∧ r.post = none ∧
    (∀ n, n ≠ s.dev.names → mfind u.dev.fabric n = mfind s.dev.fabric n) ∧
    (live u).window = (live s).window ++ [⟨wordId s, s.dev.issues, .fabric s.dev.names⟩] ∧
    (live u).epoch = nextEpoch (live s).epoch ∧
    (live u).opGate = (live s).opGate ++ (if acquires r.order then [s.dev.names] else []) ∧
    (∀ f n, r.result = some (f, n) → n < 64 → hardwired f n = false → ownerOf (live s) f n ≤ wordId s →
      isEmpty (live u) f n = true ∧ ownerOf (live u) f n = wordId s) ∧
    (live u).g = (live s).g ∧ (live u).v = (live s).v ∧ (live u).p = (live s).p ∧ (live u).o = (live s).o ∧
    (live u).pc = (live s).pc ∧ u.dev.mem = s.dev.mem

/-- The record of a fabric operation holds an operation and where it goes. -/
def carries (s : State) (r : FabRec) (x : Launch) (f : FabFn) (cw : Dword) (p : Place) (data : Nat) (counter : Option Nat) :
    Prop :=
  r.op.fn = f ∧ r.op.size = ctlSize cw ∧ r.op.addr = destAddr p ∧
    r.op.data = BitVec.ofNat 1024 (data % 2 ^ (8 * ctlSize cw)) ∧ r.op.notify = ctlTarget cw ∧
    r.dest = (destOf s.dev x.ctx p).1 ∧ r.loc = locOf p ∧ r.counter = counter ∧ r.scope = ctlScope cw ∧
    r.order = ctlOrder cw

/-- An arriving operation finds its place of memory: its context is here, and its address leads to loc for the access it
makes, aligned to its size (R351, R352). -/
def arrives (d : Dev) (k : Nat) (c : Conn) (pkt : Packet) (op : FabOp) (loc : Nat) : Prop :=
  connOf d (partOf d pkt.context) pkt.context pkt.package.toNat = some k ∧ mfind d.conns k = some c ∧
      pkt.body = .operation op ∧
    op.notify = none ∧ op.fn ≠ .ticket ∧ op.addr.toNat % op.size = 0 ∧
    ∃ ctx x p, ctxOf d pkt.context = some (ctx, x) ∧ locOf p = some loc ∧
      xlate d (guestLaunch x.part.toNat ctx) (guestStope d x.part.toNat) (arrivalRight op.fn).1 (arrivalRight op.fn).2
        op.addr = .place p

/-- A fabric operation of this package on memory or an agent can be performed: it has left its check window, no earlier
one of its task is to be performed first at its channel, and no command holds its place (R296, R367). -/
def performable (d : Dev) (n : Nat) (r : FabRec) : Prop :=
  mfind d.fabric n = some r ∧ r.post = none ∧ leftWindow d n r = true ∧ earlierFab d n r = false ∧ fabBlocked d r = false

/-! ## The dispatcher and the Foreman (R14 to R57) -/

/-- The task of core k can be snapshotted at once: it stands at a clause boundary, and nothing of it is outstanding
(R57, R213). -/
def canSnapshot (d : Dev) (k : Nat) (r : Running) (x : Launch) (t : Task) : Prop :=
  issuing d k = true ∧ (coreAt d k).run = some r ∧ (coreAt d k).leaving = false ∧ launchAt d r.launch = some x ∧
    mfind x.tasks r.task = some t ∧ (coreAt d k).window = [] ∧ (coreAt d k).acks = [] ∧ loadsLeft (coreAt d k) = false ∧
    arrayBusy d (stopeOf k) r.launch r.task = false ∧ clauseReplays d k = false ∧ (coreAt d k).bubble = false ∧
    (coreAt d k).pend = none ∧ (coreAt d k).written = []

/-- The task has been snapshotted (R47, R56, R213): it is in State 7, its place has moved on, and its snapshot holds its
registers and its position; the core is free. -/
def snapshotted (d d' : Dev) (k : Nat) (r : Running) (t : Task) : Prop :=
  (coreAt d' k).run = none ∧ (coreAt d' k).lease = false ∧
    ∃ y z sn, launchAt d' r.launch = some y ∧ mfind y.tasks r.task = some z ∧ z.state = .snapshot ∧ z.cause = 6 ∧
      z.place = t.place + 1 ∧ z.snap = some sn ∧ sameRegisters (dropLatched (coreAt d k)) sn.core ∧
      sn.latch.pc = (coreAt d k).pc ∧ sn.latch.rrb = (coreAt d k).rrb ∧ sn.latch.lc = (coreAt d k).lc

/-- A request by its type (R25, R27). -/
def requestRows : List (Request → Instr) :=
  [.identify, .attest, .firmwareLoad, .partitionAssign, .partitionRelease, .sessionOpen, .lttLoad, .contextRelease,
   .lttShootdown, .launchRequest, .launchStatus, .launchCancel, .launchCancelForce, .memRead, .memWrite, .snapshotRead,
   .snapshotWrite, .telemetryStatus, .telemetryStartSampling, .telemetryStopSampling, .telemetryDrainSamples]

/-- A request that the Foreman serves: it runs, its Auth holds where it is checked, and its header breaks no rule (R16,
R25, R26). -/
def served (d : Dev) (r : Request) : Prop :=
  d.foreman.booted = true ∧ d.foreman.pairsLost < 2 ∧ d.foreman.recovery = false ∧
    (authExempt r = true ∨ authHolds d r = true) ∧ headerBad r = false

/-- A reply to r with a status and a body (R25, R26). -/
def repliesTo (x : Reply) (r : Request) (status : Nat) (body : List Byte) : Prop :=
  x.seq = r.seq ∧ x.context = r.context ∧ x.type = r.type ∧ x.partition = r.partition ∧ x.function = r.function ∧
    x.status = BitVec.ofNat 16 status ∧ x.body = body

/-- r has its one reply, with a status and a body: it has left, or, under reliable ordered delivery, it may wait for the
replies before it (R25, R26). -/
def answered (d d' : Dev) (r : Request) (status : Nat) (body : List Byte) : Prop :=
  ∃ x, repliesTo x r status body ∧
    ((d'.foreman.replies = d.foreman.replies ++ [x] ∧ d'.foreman.held = d.foreman.held) ∨
      (r.ordered = true ∧ d'.foreman.replies = d.foreman.replies ∧ d'.foreman.held = d.foreman.held ++ [x]))

/-- r has its one reply: it leaves at once, unless r came under reliable ordered delivery and a request of its endpoint
from before it is still to be answered (R26). -/
def answeredInOrder (d d' : Dev) (r : Request) (status : Nat) (body : List Byte) : Prop :=
  ∃ x, repliesTo x r status body ∧
    if r.ordered = true ∧ replyWaits d r.partition r.function r.seq = true then
      d'.foreman.replies = d.foreman.replies ∧ d'.foreman.held = d.foreman.held ++ [x]
    else d'.foreman.replies = d.foreman.replies ++ [x] ∧ d'.foreman.held = d.foreman.held

/-- A request in a context that its sender owns (R19, R27). -/
def owned (d : Dev) (r : Request) (n : Nat) (c : Context) : Prop :=
  r.context ≠ 0 ∧ contextIn d r.partition.toNat r.context = some (n, c) ∧ c.owner = r.function.toNat

/-- A request on a launch, by a handle, whose context its sender owns (R41). -/
def handled' (d : Dev) (r : Request) (l : Nat) (x : Launch) : Prop :=
  launchByHandle d (BitVec.ofNat 64 (fieldAt r.body 0 8)) = some (l, x) ∧ othersContext d r = false ∧
    ∃ c, ctxAt d x.ctx = some c ∧ c.part.toNat = r.partition.toNat ∧ c.owner = r.function.toNat

end Sys2Proof.Machine
end

