-- ==== Sys2Proof/Certificates/Slice0/Obligations.lean ====
section
/-! DEFINITION. The statements for the provers, each with the rules of spec/ that it rests on. -/

open Sys2Proof Sys2Proof.Machine

/-! ## Encoding and steps -/

/-- R181 to R191: a word of a well-formed instruction, with either chain bit, decodes to that instruction and bit. -/
def Obligations.EncodedWordsDecode : Prop :=
  ∀ (c : Bool) (i : Instr) (w : Word), wellFormed i = true → w ∈ encode c i → decode w = .ok (c, i)

/-- R181, R191: a word that decodes is the one word of the instruction it decodes to, which is well formed: no bit of a
legal word is left out, and a reserved bit that is set makes a word illegal. -/
def Obligations.DecodedWordsEncode : Prop :=
  ∀ (c : Bool) (i : Instr) (w : Word), decode w = .ok (c, i) → encode c i = [w] ∧ wellFormed i = true

/-- The worked examples of R194 and R232: words of the spec, each with the instruction that the spec writes for it. -/
def Obligations.ExampleWordsDecode : Prop :=
  decode 0xBE8A6A48#32 = .ok (true, .vfadd 40 41 42 false 9) ∧
  decode 0x84518700#32 = .ok (true, .add 5 6 7 false false) ∧
  decode 0x2480C302#32 = .ok (false, .ld 8 3 false 6 2) ∧
  decode 0x08619FFF#32 = .ok (false, .addi 6 6 false 0x1FFF) ∧
  decode 0x146007FF#32 = .ok (false, .bne 6 0 false 0x3FF) ∧
  decode 0x12144000#32 = .ok (false, .li 33 1 0x4000) ∧
  decode 0x20204600#32 = .ok (false, .loop 2 1 6 false) ∧
  decode 0x0000000B#32 = .ok (false, .endstep)

/-- R191: a word of major 29, 30 or 31, and a word of major 0 and function 0 with another bit set, is illegal; a core
that fetches it as a clause of its own traps ILLEGAL_OPCODE with the word's address, and nothing else of the machine
changes but the core's entry, and the bits of sr.dmask that the fetch sets. -/
def Obligations.IllegalWordsTrap : Prop :=
  (∀ w : Word, 29 ≤ (w.extractLsb' 26 5).toNat → ∃ e, decode w = .error e) ∧
  (∀ w : Word, w.extractLsb' 26 5 = 0 → w.extractLsb' 0 6 = 0 → w.extractLsb' 0 26 ≠ 0 → ∃ e, decode w = .error e) ∧
  (∀ (s : State) (k : Nat) (x : Launch) (w : Word) (e : DecodeError),
    launchOf s.dev k = some x → fetchWaits s.dev k x = false → fetchDies s.dev k x &&& s.dev.lost = 0 →
    let d := touchDies s.dev x.ctx (fetchDies s.dev k x)
    fetchWords d x (stopeOf k) 6 (coreAt s.dev k).pc = .words [w] → decode w = .error e →
    fetchIssue { s with cur := k } = .next { s with
      cur := k, dev := takeTrap d k causeIllegalOpcode ((coreAt s.dev k).pc.setWidth 64) (coreAt s.dev k).pc })

/-- A step is the turn at the head of the agenda. The turn of a core that is clear to issue, whose clause at the pc is
one word that decodes, runs exec of the decoded instruction, as the word of a clause that ends one word on; the clause
then ends, unless the word traps or waits. R196, R202: a core that waits has not yet written the results that are due
(log 8). The turn of an event that is well formed is exec of the event, and that of an input is what the input does.
The model's choices in log 2, 6, 8, 68 stand behind it. -/
def Obligations.StepRunsTheDecodedInstruction : Prop :=
  (∀ (s : State) (dt k : Nat) (r : List Turn) (x : Launch) (w : Word) (i : Instr),
    s.agenda = ⟨dt, .core k⟩ :: r → k < 256 → clearToIssue (passTime s.dev dt) k →
    let d := atFetch (passTime s.dev dt) k x
    let pc := (coreAt d k).pc
    launchOf (atTurn (passTime s.dev dt) k) k = some x → fetchWords d x (stopeOf k) 6 pc = .words [w] →
    decode w = .ok (false, i) →
    step s = match exec i { dev := d, agenda := r, cur := k, clause := some ⟨d, 0, pc, pc + 4, none, .going⟩ } with
      | .next t => .next (endTurn false (passTime s.dev dt) k (if goesOn t then endClause t else { t with clause := none }))
      | .fault e => .fault e
      | .refused e => .refused e) ∧
  (∀ (s : State) (dt : Nat) (r : List Turn) (i : Instr), s.agenda = ⟨dt, .event i⟩ :: r → isWord i = false →
    wellFormed i = true →
    step s = exec i { s with dev := passTime s.dev dt, agenda := r, clause := none }) ∧
  (∀ (s : State) (dt : Nat) (r : List Turn) (x : Input), s.agenda = ⟨dt, .input x⟩ :: r →
    step s = .next { s with dev := takeInput (passTime s.dev dt) x, agenda := r, clause := none })

/-- Every instruction, in every state, answers a next state; and so does a step whose agenda names no word as an event
and no ill-formed event.
The model's choices in log 2, 59 stand behind it. -/
def Obligations.NothingFaultsOrIsRefused : Prop :=
  (∀ (i : Instr) (s : State), ∃ t, exec i s = .next t) ∧ (∀ s : State, fairAgenda s → ∃ t, step s = .next t)

/-- Every step keeps memory in its canonical form.
The model's choices in log 60 stand behind it. -/
def Obligations.StepKeepsMemoryCanonical : Prop :=
  ∀ s t : State, s.memOk = true → step s = .next t → t.memOk = true

/-- Right after reset memory is canonical, and lists nothing.
The model's choices in log 5 stand behind it. -/
def Obligations.ResetMemoryIsCanonical : Prop :=
  State.reset.memOk = true ∧ ∀ loc, readByte State.reset.dev.mem loc = 0

/-- R203, R270, R348, R349: what the spec gives after reset: a freeze limit of 1,024, no trap cause, and the defaults of
a port with every wavelength active; a core runs nothing, and no partition, context or launch exists.
The model's choices in log 1, 9 stand behind it. -/
def Obligations.ResetValues : Prop :=
  (∀ k, (coreAt State.reset.dev k).limit = 1024 ∧ (coreAt State.reset.dev k).tcause = 0 ∧
    (coreAt State.reset.dev k).noResume = false ∧ (coreAt State.reset.dev k).run = none ∧
    (coreAt State.reset.dev k).inHandler = false ∧ ∀ f n, isEmpty (coreAt State.reset.dev k) f n = false) ∧
  portReset.thr = 4096 ∧ portReset.park = 4 ∧ portReset.wake = 32 ∧ (∀ l ∈ portReset.rx, l.state = .active) ∧
  portReset.rx.length = 8 ∧ portReset.tx.length = 8 ∧
  (∀ p, partAt State.reset.dev p = none) ∧ (∀ c, ctxAt State.reset.dev c = none) ∧
  ∀ l, launchAt State.reset.dev l = none

/-! ## Registers and traps -/

/-- R197, R200: g0 reads zero and p0 all ones, both always full; a write to either, its mark and its owner are
discarded, and so is a result that lands in it, but for its flags. R198: the names of a rotating part are its physical
registers, each once; names outside keep their number; and after a taken back edge the next name in a part names the
register that a name named before. -/
def Obligations.RegisterNames : Prop :=
  (∀ (c : Core) (n w : Nat) (e t : Bool) (x : Vec), (∀ f : RegFile, f = .g ∨ f = .p →
     writeReg c f 0 x = c ∧ setEmpty c f 0 e = c ∧ setOwner c f 0 w = c ∧ readable c ⟨f, 0, t⟩ = true ∧
     (∀ l : Flight, l.file = f → l.num = 0 → land c l = { c with fflags := c.fflags ||| l.flags })) ∧
     readG c 0 = 0 ∧ readP c 0 = BitVec.allOnes 128 ∧ physReadG (writeReg c .g n x) 0 = 0 ∧
     physReadP (writeReg c .p n x) 0 = BitVec.allOnes 128) ∧
  (∀ r : BitVec 8,
     (rotated r).toNat = (r.toNat + 95) % 96 ∧
     (∀ n, 32 ≤ n → n < 56 → physG r n = 32 + (n - 32 + r.toNat) % 24 ∧
       physG (rotated r) (if n = 55 then 32 else n + 1) = physG r n) ∧
     (∀ n, n < 32 ∨ 56 ≤ n → physG r n = n) ∧
     (∀ n, 32 ≤ n → n < 64 → physV r n = 32 + (n - 32 + r.toNat) % 32 ∧
       physV (rotated r) (if n = 63 then 32 else n + 1) = physV r n) ∧
     (∀ n, n < 32 → physV r n = n) ∧
     (∀ n, 8 ≤ n → n < 16 → physP r n = 8 + (n - 8 + r.toNat) % 8 ∧
       physP (rotated r) (if n = 15 then 8 else n + 1) = physP r n) ∧
     (∀ n, n < 8 → physP r n = n) ∧
     (∀ m n, m < 64 → n < 64 → (physG r m = physG r n → m = n) ∧ (physV r m = physV r n → m = n)) ∧
     (∀ m n, m < 16 → n < 16 → physP r m = physP r n → m = n))

/-- R200, R201: a result is written, and its register marked full, only where its word is the register's owner; its
flags always count; and no other register is touched.
The model's choices in log 7 stand behind it. -/
def Obligations.LandingsGoToTheOwner : Prop :=
  ∀ (c : Core) (l : Flight), l.num < 64 →
    (land c l).fflags = c.fflags ||| l.flags ∧
    (hardwired l.file l.num = false → ownerOf c l.file l.num = l.word →
      regValue (land c l) l.file l.num = BitVec.ofNat 1024 (l.data.toNat % 2 ^ regWidth l.file) ∧
      isEmpty (land c l) l.file l.num = false ∧
      ∀ f n, n < 64 → (f ≠ l.file ∨ n ≠ l.num) →
        regValue (land c l) f n = regValue c f n ∧ isEmpty (land c l) f n = isEmpty c f n) ∧
    (ownerOf c l.file l.num ≠ l.word → land c l = { c with fflags := c.fflags ||| l.flags })

/-- R195, R196: a fixed-latency result of latency k leaves its register as it was for k − 1 cycles, and is there in the
k-th, whatever else is in flight; clauses that issue before read the old value. R200: what a word with a result does
at issue: its result goes on its way, and its register is its own, full where its latency is fixed and empty where its
data comes later, unless a later word has it; and every other register, the rest of the core, the other cores and
memory are as before.
The model's choices in log 7, 8 stand behind it. -/
def Obligations.ResultsAtIssue : Prop :=
  (∀ (c : Core) (l : Flight) (j : Nat), l.fixed = true → 1 ≤ l.remain → l.remain ≤ 16 → hardwired l.file l.num = false →
     ownerOf c l.file l.num ≤ l.word → (∀ m ∈ c.flights, m.word ≠ l.word) →
     (j < l.remain →
       regValue (cycles j (launchFlight c l)) l.file l.num = regValue c l.file l.num) ∧
     regValue (cycles l.remain (launchFlight c l)) l.file l.num = BitVec.ofNat 1024 (l.data.toNat % 2 ^ regWidth l.file)) ∧
  ((∀ (s : State) (l : Flight), l.num < 64 →
     let t := setLive s (launchFlight (live s) l)
     sameButFlights (live s) (live t) ∧ (live t).flights = (live s).flights ++ [l] ∧
     (hardwired l.file l.num = false → ownerOf (live s) l.file l.num ≤ l.word →
       ownerOf (live t) l.file l.num = l.word ∧ isEmpty (live t) l.file l.num = !l.fixed) ∧
     (∀ f n, n < 64 → (f ≠ l.file ∨ n ≠ l.num) →
       ownerOf (live t) f n = ownerOf (live s) f n ∧ isEmpty (live t) f n = isEmpty (live s) f n) ∧
     t = { s with dev := { s.dev with cores := t.dev.cores } } ∧
     (∀ k, k ≠ s.cur → coreAt t.dev k = coreAt s.dev k) ∧ sameBytes s.dev.mem t.dev.mem) ∧
   (∀ (s : State) (f : RegFile) (n k : Nat) (x : Vec) (fl : Flags), issueFixed s f n k x fl = setLive s
     (launchFlight (live s) ⟨wordId s, f, n, k, true, true, false, x, fl, .none⟩)) ∧
   ∀ (s : State) (f : RegFile) (n k : Nat) (a : LoadSrc), issueLoad s f n k a = setLive s (launchFlight (live s)
     ⟨wordId s, f, phys (src s) f n, landingCount k, false, false, false, 0, 0, a⟩))

/-- R182, R200, R202: a word with an empty source does nothing else. The first empty source in order decides: with its
trap bit set the clause traps EMPTY_READ with the register, and with it clear the domain freezes on the register.
The model's choices in log 54 stand behind it. -/
def Obligations.EmptySourcesTrapOrFreeze : Prop :=
  ∀ (i : Instr) (s : State) (x : Source), (sourcesOf i s).find? (fun x => !readable (src s) x) = some x →
    exec i s = if x.trap then trap s causeEmptyRead (BitVec.ofNat 64 (regCode x.file x.num))
      else stallOn s .freeze (some (x.file, x.num))

/-- R205, R206, R207: taking a trap on core k where there is a handler. R58, R205: without a handler, or in a handler's
first clause, a trap stops the launch with the cause and the task; the registers and memory stay, and a launch that
has stopped already keeps its first stop. R178, R205: where a word of a clause traps, no word of the clause takes
effect: the device after it is the device before the clause, with the trap taken at the clause's own address. R304: a
request for a lease that waits is withdrawn. -/
def Obligations.TrapEntry : Prop :=
  (∀ (d : Dev) (k cause : Nat) (info : Dword) (resume : Va), handled d k →
     let d' := takeTrap d k cause info resume
     let c := coreAt d k
     let c' := coreAt d' k
     d' = putCore (withdrawLease d k) k c' ∧ c'.pc = c.tvec ∧ c'.tcause = BitVec.ofNat 16 cause ∧
     (c'.noResume = true ↔ cause = 5 ∨ cause = 14 ∨ cause = 17) ∧ c'.tinfo = info ∧ c'.active = false ∧
     c'.inHandler = true ∧ c'.stall = none ∧ c'.gpc = c.gpc ∧ c'.window = c.window ∧ c'.run = c.run ∧
     sameRegisters c c' ∧ (∃ l, c'.latch = some l ∧ latched c l resume) ∧ (∀ f ∈ c'.flights, owns c' f = false)) ∧
  (∀ (d : Dev) (k cause : Nat) (info : Dword) (resume : Va) (r : Running) (x : Launch), ¬ handled d k →
     (coreAt d k).run = some r → launchAt d r.launch = some x →
     let d' := takeTrap d k cause info resume
     sameRegisters (coreAt d k) (coreAt d' k) ∧ samePosition (coreAt d k) (coreAt d' k) ∧ d'.mem = d.mem ∧
     (x.stop = none → ∃ st, launchAt d' r.launch = some { x with stop := some st } ∧ st.task = some r.task ∧
       st.cause = cause ∧ st.status = 8) ∧
     (x.stop ≠ none → launchAt d' r.launch = some x)) ∧
  (∀ (s : State) (q : Clause) (cause : Nat) (info : Dword), s.clause = some q →
     ∃ t, trap s cause info = .next t ∧ goesOn t = false ∧
       t.dev = takeTrap q.base s.cur cause info (coreAt q.base s.cur).pc ∧ t.dev.mem = q.base.mem ∧
       ∀ k, k ≠ s.cur → coreAt t.dev k = coreAt q.base k)

/-- R273: TRAP enters the handler with code 64 + k, NoResume 0 and the value of its source, latching the address of the
clause that follows, where ERET continues; the effects of the other words stand. That a back edge of the clause is among
them, so that the state after it is latched (R229), is the model's reading of log 65, and that a landing of delay 0 is
still due (R236) that of log 8. With sr.tvec zero the launch completes FAULTED with that code: it stops with that status
and cause. -/
def Obligations.TrapWord : Prop :=
  ∀ (a k : RegNum) (t : Bool) (s : State), sourcesFull (.trap a k t) s →
    (handled (putCore s.dev s.cur (afterClause s)) s.cur →
      let c := { tickFlights (afterClause s) with
        flights := (tickFlights (afterClause s)).flights.filter fun f => f.remain != overdue }
      ∃ u, exec (.trap a k t) s = .next u ∧ u.cur = s.cur ∧ (live u).tcause = 64 + k.setWidth 16 ∧
        (live u).noResume = false ∧ (live u).tinfo = readG (src s) a ∧ (live u).inHandler = true ∧
        (live u).pc = (live s).tvec ∧ (∃ l, (live u).latch = some l ∧ latched c l c.pc) ∧
        (∀ f ∈ (afterClause s).flights, f.remain = overdue → f ∈ (live u).flights) ∧
        sameRegisters (afterClause s) (live u) ∧ u.dev = putCore (withdrawLease s.dev s.cur) s.cur (live u) ∧
        (coreAt (returnFromTrap u.dev s.cur) s.cur).pc = c.pc) ∧
    (∀ (r : Running) (x : Launch), (live s).tvec = 0 → (live s).run = some r → launchAt s.dev r.launch = some x →
      x.stop = none →
      ∃ u st, exec (.trap a k t) s = .next u ∧ launchAt u.dev r.launch = some { x with stop := some st } ∧
        st.task = some r.task ∧ st.cause = 64 + k.toNat ∧ st.status = statusFaulted ∧
        sameRegisters (afterClause s) (live u) ∧
        u.dev.mem = s.dev.mem)

/-- R208, R274: in a handler whose trap may resume, ERET restores the position that the trap entry latched, and the
registers keep the handler's values; the latched results, no two of one register, own their registers again and go on
with their data and their counts, of which the cycle at hand takes one, a landing empty until it lands. Outside a
handler it traps ILLEGAL_OPCODE, and where the trap may not resume it stops the launch with the latched cause. R205,
R208: a trap entry followed by a return, with no word of a handler between, leaves the position as it was, and puts the
task back where the trap was taken. -/
def Obligations.EretWord : Prop :=
  ((∀ (s : State) (l : Latch), (src s).inHandler = true → (src s).noResume = false → (live s).latch = some l →
      ∃ u, exec .eret s = .next u ∧ u.cur = s.cur ∧ (live u).pc = l.pc ∧ (live u).gpc = l.gpc ∧
        (live u).lstart = l.lstart ∧ (live u).lend = l.lend ∧ (live u).lgpc = l.lgpc ∧ (live u).active = l.active ∧
        (live u).lc = l.lc ∧ (live u).ec = l.ec ∧ (live u).rrb = l.rrb ∧ (live u).inHandler = false ∧
        (live u).g = (live s).g ∧ (live u).v = (live s).v ∧ (live u).p = (live s).p ∧ (live u).o = (live s).o ∧
        u.dev = putCore s.dev s.cur (live u) ∧
        (live u).flights.length =
          (live s).flights.length + ((l.inflight ++ l.landing).filter fun e => e.valid).length ∧
        (∀ e ∈ l.landing, e.valid = true → hardwired (fileOfCode e.file) e.number.toNat = false →
          isEmpty (live u) (fileOfCode e.file) e.number.toNat = true) ∧
        ((((l.inflight ++ l.landing).filter fun e => e.valid).map fun e => (e.file, e.number)).Nodup →
          ∀ (fixed : Bool) (e : SnapEntry), e ∈ (if fixed then l.inflight else l.landing) → e.valid = true →
            let f := fileOfCode e.file
            let n := e.number.toNat
            hardwired f n = false → ownerOf (live u) f n = e.word ∧ isEmpty (live u) f n = !fixed ∧
              ∃ q ∈ (live u).flights, q.word = e.word ∧ q.file = f ∧ q.num = n ∧ q.fixed = fixed ∧ q.data = e.data ∧
                q.src = e.src ∧ q.arrived = (e.arrived || fixed) ∧
                (1 ≤ e.remain.toNat → e.remain.toNat < 63 → q.remain + 1 = e.remain.toNat) ∧
                (e.remain.toNat = 63 → q.remain = 63))) ∧
   (∀ s : State,
      ((src s).inHandler = false → exec .eret s = trap s causeIllegalOpcode ((wordAddr s).setWidth 64)) ∧
      (∀ (r : Running) (x : Launch), (src s).inHandler = true → (src s).noResume = true → (src s).run = some r →
        launchAt s.dev r.launch = some x → x.stop = none →
        ∃ u st, exec .eret s = .next u ∧ launchAt u.dev r.launch = some { x with stop := some st } ∧
          st.task = some r.task ∧ st.cause = (src s).tcause.toNat ∧ st.status = 8))) ∧
  (∀ (d : Dev) (k cause : Nat) (info : Dword) (resume : Va), handled d k →
     let c := coreAt d k
     let c' := coreAt (returnFromTrap (takeTrap d k cause info resume) k) k
     samePosition { c with pc := resume } c' ∧ c'.inHandler = false ∧ c'.g = c.g ∧ c'.v = c.v ∧ c'.p = c.p ∧ c'.o = c.o)

/-- R217, R219: a word of majors 1 and 3 with two sources puts its value, reduced to 64 bits, on its way to g(d) with
its latency, and completes whatever its operands are. R217, R218, R220: the words of one g source and the constants,
each with latency 1. -/
def Obligations.ScalarWords : Prop :=
  (∀ row ∈ pairRows, ∀ (d a b : RegNum) (t u : Bool) (s : State), sourcesFull (row.word d a b t u) s →
     exec (row.word d a b t u) s = .next (issueG s d row.latency (row.value (readG (src s) a) (readG (src s) b)))) ∧
  ((∀ (d a : RegNum) (t : Bool) (s : State), sourcesFull (.clz d a t) s →
     exec (.clz d a t) s = .next (issueG s d 1 (BitVec.ofNat 64 (leadingZeros (readG (src s) a)))) ∧
     exec (.popc d a t) s = .next (issueG s d 1 (BitVec.ofNat 64 (oneBits (readG (src s) a))))) ∧
   (∀ (d a k : RegNum) (t : Bool) (s : State), sourcesFull (.slli d a k t) s →
     let x := readG (src s) a
     exec (.slli d a k t) s = .next (issueG s d 1 (BitVec.ofNat 64 (x.toNat * 2 ^ k.toNat))) ∧
     exec (.srli d a k t) s = .next (issueG s d 1 (BitVec.ofNat 64 (x.toNat / 2 ^ k.toNat))) ∧
     exec (.srai d a k t) s = .next (issueG s d 1 (BitVec.ofInt 64 (x.toInt / ((2 ^ k.toNat : Nat) : Int)))) ∧
     exec (.rotli d a k t) s =
       .next (issueG s d 1 (BitVec.ofNat 64 (x.toNat * 2 ^ k.toNat + x.toNat / 2 ^ (64 - k.toNat))))) ∧
   (∀ (d : RegNum) (q : BitVec 2) (i : BitVec 16) (s : State),
     exec (.li d q i) s = .next (issueG s d 1 (BitVec.ofInt 64 (i.toInt * ((2 ^ (16 * q.toNat) : Nat) : Int))))) ∧
   (∀ (d : RegNum) (q : BitVec 2) (i : BitVec 16) (s : State), sourcesFull (.lik d q i) s →
     ∃ x : Dword, exec (.lik d q i) s = .next (issueG s d 1 x) ∧
       ∀ j, j < 64 → x.getLsbD j = if 16 * q.toNat ≤ j ∧ j < 16 * q.toNat + 16 then i.getLsbD (j - 16 * q.toNat)
         else (readG (src s) d).getLsbD j))

/-- R218: ADDI is a word of major 2 in format I, for pipe S; its immediate lies in −4,096 … 4,095, its latency is 1, and
from g0 it loads its immediate. -/
def Obligations.AddImmediate : Prop :=
  (∀ (d a : RegNum) (t : Bool) (i : BitVec 13) (s : State), sourcesFull (.addi d a t i) s →
    -4096 ≤ i.toInt ∧ i.toInt ≤ 4095 ∧
    exec (.addi d a t i) s = .next (issueG s d 1 (BitVec.ofInt 64 ((readG (src s) a).toInt + i.toInt))) ∧
    (a = 0 → exec (.addi d a t i) s = .next (issueG s d 1 (BitVec.ofInt 64 i.toInt)))) ∧
  ∀ (c : Bool) (d a : RegNum) (t : Bool) (i : BitVec 13), ∃ w, encode c (.addi d a t i) = [w] ∧ pipeOf w = .s ∧
    w.getLsbD 31 = c ∧ w.extractLsb' 26 5 = 2 ∧ w.extractLsb' 20 6 = d ∧ w.extractLsb' 14 6 = a ∧ w.getLsbD 13 = t ∧
    w.extractLsb' 0 13 = i

/-- R227: the predicate words, bit by bit; PCNT writes a g register. -/
def Obligations.PredicateWords : Prop :=
  (∀ row ∈ predRows, ∀ (d a b : RegNum) (t u : Bool) (s : State), sourcesFull (row.word d a b t u) s →
    ∃ x : Pred, exec (row.word d a b t u) s = .next (issueP s d.toNat 1 x 0) ∧
      ∀ j, j < 128 → x.getLsbD j =
        row.value ((readP (src s) a.toNat).getLsbD j) ((readP (src s) b.toNat).getLsbD j)) ∧
  (∀ (d a : RegNum) (t : Bool) (s : State), sourcesFull (.pnot d a t) s →
    (∃ x : Pred, exec (.pnot d a t) s = .next (issueP s d.toNat 1 x 0) ∧
      ∀ j, j < 128 → x.getLsbD j = !(readP (src s) a.toNat).getLsbD j) ∧
    exec (.pcnt d a t) s = .next (issueG s d 1 (BitVec.ofNat 64 (oneBits (readP (src s) a.toNat)))))

/-- R221, R230: a branch whose condition holds passes control to its target, and makes the loop inactive where the
target lies outside its body; one whose condition fails changes nothing. R222, R223: the jumps, outside a clause or in
one: where control goes, the link value in its register, and what CALL, RET and GSET do to the gloss position. R224: a
register transfer whose target has a high bit traps TRANSLATION_ABSENT, and one whose target is no packet start traps
MISALIGNED, each with the target. -/
def Obligations.BranchesJumpsAndCalls : Prop :=
  (∀ row ∈ branchRows, ∀ (a b : RegNum) (t : Bool) (o : BitVec 10) (s : State), sourcesFull (row.word a b t o) s →
     (row.holds (readG (src s) a) (readG (src s) b) →
       exec (row.word a b t o) s = .next (goTo s (leavingLoop (live s) (branchTarget s o)) (branchTarget s o))) ∧
     (¬ row.holds (readG (src s) a) (readG (src s) b) → exec (row.word a b t o) s = .next s)) ∧
  ((∀ (o : BitVec 25) (s : State),
     exec (.jmp o) s = .next (goTo s (leavingLoop (live s) (branchTarget s o)) (branchTarget s o)) ∧
     exec (.jal o) s = .next (goTo s (live (issueG s 62 1 ((clauseEnd s).setWidth 64))) (branchTarget s o))) ∧
   (∀ (a : RegNum) (t : Bool) (s : State), sourcesFull (.jr a t) s → goodTarget s (readG (src s) a) →
     let x : Va := (readG (src s) a).setWidth 48
     exec (.jr a t) s = .next (goTo s (leavingLoop (live s) x) x) ∧
     exec (.ret a t) s = .next (goTo s { live s with gpc := (live s).glink } x)) ∧
   (∀ (d a : RegNum) (t : Bool) (s : State), sourcesFull (.jalr d a t) s → goodTarget s (readG (src s) a) →
     exec (.jalr d a t) s =
       .next (goTo s (live (issueG s d 1 ((clauseEnd s).setWidth 64))) ((readG (src s) a).setWidth 48))) ∧
   (∀ (d a b : RegNum) (t u : Bool) (s : State), sourcesFull (.call d a b t u) s → goodTarget s (readG (src s) a) →
     (b ≠ 0 → (readG (src s) b).toNat < 2 ^ 48) →
     let c := live (issueG s d 1 ((clauseEnd s).setWidth 64))
     exec (.call d a b t u) s =
       .next (goTo s { c with glink := c.gpc, gpc := if b = 0 then c.gpc else (readG (src s) b).setWidth 48 }
         ((readG (src s) a).setWidth 48))) ∧
   (∀ (a : RegNum) (t : Bool) (s : State), sourcesFull (.gset a t) s → (readG (src s) a).toNat < 2 ^ 48 →
     exec (.gset a t) s = .next (setLive s { live s with gpc := (readG (src s) a).setWidth 48 }))) ∧
  (∀ (d a b : RegNum) (t u : Bool) (s : State), sourcesFull (.call d a b t u) s → readG (src s) b = 0 →
     let x := readG (src s) a
     (2 ^ 48 ≤ x.toNat →
       exec (.jr a t) s = trap s causeAbsent x ∧ exec (.jalr d a t) s = trap s causeAbsent x ∧
       exec (.ret a t) s = trap s causeAbsent x ∧ exec (.gset a t) s = trap s causeAbsent x ∧
       exec (.call d a b t u) s = trap s causeAbsent x) ∧
     (x.toNat < 2 ^ 48 → ((x.toNat : Int) - ((anchorOf s.dev s.cur).toNat : Int)) % 12 ≠ 0 →
       exec (.jr a t) s = trap s causeMisaligned x ∧ exec (.jalr d a t) s = trap s causeMisaligned x ∧
       exec (.ret a t) s = trap s causeMisaligned x ∧ exec (.call d a b t u) s = trap s causeMisaligned x))

/-- R228: LOOP sets the loop registers for the body of l packets after its clause; with trips it starts the first pass
with p8 all ones and p9 to p15 all zeros, those that no later word of its clause owns (R200), and with none it passes
to the end of the body. -/
def Obligations.LoopStarts : Prop :=
  ∀ (l a e : RegNum) (t : Bool) (s : State), sourcesFull (.loop l a e t) s →
    let next := clauseEnd s
    let n : Word := (readG (src s) a).setWidth 32
    let body : Core := { live s with
      lstart := next, lend := next + 12 * l.setWidth 48, lgpc := (live s).gpc, ec := e.setWidth 16 }
    (packetStart (anchorOf s.dev s.cur) next = false →
      exec (.loop l a e t) s = trap s causeMisaligned (next.setWidth 64)) ∧
    (packetStart (anchorOf s.dev s.cur) next = true → n = 0 →
      exec (.loop l a e t) s = .next (goTo s { body with lc := 0, active := false } (next + 12 * l.setWidth 48))) ∧
    (packetStart (anchorOf s.dev s.cur) next = true → n ≠ 0 →
      ∃ c, exec (.loop l a e t) s = .next (setLive s c) ∧ stagesSet (live s) c (wordId s) ∧
        { c with p := (live s).p, empty := (live s).empty, owner := (live s).owner } =
          { body with lc := n - 1, active := true })

/-- R229: in an active loop the clause whose last word lies at sr.lend − 4 takes the back edge, after its effects, and
no other does; whether it is taken, the loop registers and p8 after it, and the next clause: the body's first where it
is taken, else the one at sr.lend. It costs no cycle, and what is in flight keeps its physical register. -/
def Obligations.BackEdge : Prop :=
  (∀ c : Core,
    let r := backEdge c
    r.1.flights = c.flights ∧ r.1.bubble = c.bubble ∧ r.1.lstart = c.lstart ∧ r.1.lend = c.lend ∧ r.1.lgpc = c.lgpc ∧
    (c.lc ≠ 0 →
      r.2 = true ∧ r.1.lc = c.lc - 1 ∧ r.1.ec = c.ec ∧ r.1.rrb.toNat = (c.rrb.toNat + 95) % 96 ∧ r.1.gpc = c.lgpc ∧
      r.1.active = c.active ∧ physReadP r.1 (physP r.1.rrb 8) = BitVec.allOnes 128) ∧
    (c.lc = 0 → 1 < c.ec.toNat →
      r.2 = true ∧ r.1.lc = 0 ∧ r.1.ec = c.ec - 1 ∧ r.1.rrb.toNat = (c.rrb.toNat + 95) % 96 ∧ r.1.gpc = c.lgpc ∧
      r.1.active = c.active ∧ physReadP r.1 (physP r.1.rrb 8) = 0) ∧
    (c.lc = 0 → c.ec.toNat ≤ 1 → r.2 = false ∧ r.1 = { c with ec := 0, active := false })) ∧
  ∀ (s : State) (q : Clause), s.clause = some q → q.target = none → q.verdict ≠ .moved → (live s).leaving = false →
    (live s).active = true →
    let r := backEdge (live s)
    ∃ e f, live (endClause s) = { tickFlights e with stall := none, swpt := none, replays := 0, fresh := f } ∧
      (q.next = (live s).lend → e = { r.1 with pc := if r.2 then (live s).lstart else (live s).lend }) ∧
      (q.next ≠ (live s).lend → e = { live s with pc := q.next, active := e.active })


/-! ## System words -/

/-- R188, R276, R104: NOP changes nothing. A fence of any scope with nothing outstanding advances the race epoch and
changes nothing else; while an earlier load, store, atomic or acknowledgement is outstanding, the clause is held. R269
puts the fence after the other words of its clause; that it has the accesses of its own clause performed, loads first,
and waits for them too, is the model's reading of log 6. -/
def Obligations.NopAndFences : Prop :=
  (∀ s : State, exec .nop s = .next s) ∧
  (∀ i ∈ [Instr.fenceS, .fenceD, .fenceY], ∀ s : State,
     (quiet s → exec i s = .next (setLive s { live s with epoch := nextEpoch (live s).epoch })) ∧
     (loadsBefore (src s) (wordId s) = true ∨ (src s).window ≠ [] ∨ (src s).acks ≠ [] → exec i s = hold s) ∧
     (earlierClear s = true →
       let t := performOwn s
       (storesLeft (live t) = true ∨ loadsBefore (live t) (7 * s.dev.issues + 7) = true → exec i s = hold s) ∧
       (storesLeft (live t) = false → loadsBefore (live t) (7 * s.dev.issues + 7) = false →
         exec i s = .next (setLive t { live t with epoch := nextEpoch (live t).epoch }))))

/-- R270 to R272: RDSR puts the register on its way to g(d) with latency 2; WRSR writes a register for the clauses that
follow: registers of plain data take the low bits, sr.frm a legal mode, sr.rrb a legal base, sr.lend its address and
its active bit; a read-only register keeps its value without a trap, and no other register changes. R275: SNAPRD at the
offsets of the g, v, p and o files, of the system registers and of the acquire log: the stored bits are read without a
wait, the registers as RDSR reads them, and an entry of the log as the last trap latched it; the header, the log and
the entries read as zero where nothing is latched. SNAPWR at the offsets of the g file: the bits are written without a
change of a mark or an owner; g0 takes nothing. A misaligned offset traps MISALIGNED, and one past the image
ACCESS_TYPE. -/
def Obligations.SystemRegisterAndSnapshotWords : Prop :=
  ((∀ (d : RegNum) (r : SysReg) (s : State),
     exec (.rdsr d r) s = .next (issueG s d 2 (readSys (srcDev s) s.cur r))) ∧
   (∀ (a : RegNum) (r : SysReg) (t : Bool) (s : State), sourcesFull (.wrsr a r t) s →
     let x := readG (src s) a
     let now := fun (u : State) (q : SysReg) => readSys u.dev s.cur q
     ∃ u, exec (.wrsr a r t) s = .next u ∧ u.cur = s.cur ∧
       (∀ e ∈ plainRegs, e.1 = r → now u r = BitVec.ofNat 64 (x.toNat % 2 ^ e.2)) ∧
       (r = .frm → now u r = if x.toNat % 8 ≤ 4 then BitVec.ofNat 64 (x.toNat % 8) else now s r) ∧
       (r = .rrb → now u r = if x.toNat % 256 < 96 then BitVec.ofNat 64 (x.toNat % 256) else now s r) ∧
       (r = .lend → now u r = x &&& 0x8000FFFFFFFFFFFF#64) ∧
       (r ∈ readOnlyRegs → live u = live s) ∧
       (r = .plevel → (live u).riskEn = x.getLsbD 16 ∧ (live u).riskPend = ((live s).riskPend && x.getLsbD 17)) ∧
       (∀ q, q ≠ r → now u q = now s q) ∧ sameRegisters (live s) (live u) ∧ u.dev.mem = s.dev.mem)) ∧
  ((∀ (d a : RegNum) (t : Bool) (s : State) (n : Nat), sourcesFull (.snaprd d a t) s → n < 64 →
     (readG (src s) a).toNat = 0x40 + 8 * n →
     exec (.snaprd d a t) s = .next (issueG s d 2 (physReadG (src s) n))) ∧
   (∀ (d a : RegNum) (t : Bool) (s : State) (n i : Nat), sourcesFull (.snaprd d a t) s → n < 64 → i < 16 →
     (readG (src s) a).toNat = 0x400 + 128 * n + 8 * i →
     exec (.snaprd d a t) s = .next (issueG s d 2 ((physReadV (src s) n).extractLsb' (64 * i) 64))) ∧
   (∀ (d a : RegNum) (t : Bool) (s : State) (n i : Nat), sourcesFull (.snaprd d a t) s →
     let off := (readG (src s) a).toNat
     (n < 16 → i < 2 → off = 0x280 + 16 * n + 8 * i →
       exec (.snaprd d a t) s = .next (issueG s d 2 ((physReadP (src s) n).extractLsb' (64 * i) 64))) ∧
     (n < 8 → off = 0x380 + 8 * n → exec (.snaprd d a t) s = .next (issueG s d 2 (readO (src s) n))) ∧
     (∀ r, imageRegs[n]? = some r → off = 0x3C0 + 8 * n →
       exec (.snaprd d a t) s = .next (issueG s d 2 (readSys (srcDev s) s.cur r))) ∧
     (off % 8 = 0 → off < 0x40 ∨ 0x2400 ≤ off ∧ off < 40960 → (src s).latch = none →
       exec (.snaprd d a t) s = .next (issueG s d 2 0)) ∧
     (∀ (l : Latch) (e : AcqEntry), (src s).latch = some l → n < 16 → off = 0x2400 + 8 * n → l.acq[n]? = some (true, e) →
       exec (.snaprd d a t) s = .next (issueG s d 2
         (BitVec.ofNat 64 (e.owner.toNat * 2 ^ 40 + e.epoch.toNat * 2 ^ 28 + (if e.engine then 2 ^ 27 else 0) + 2 ^ 26))))) ∧
   (∀ (a b : RegNum) (t u : Bool) (s : State) (n : Nat), sourcesFull (.snapwr a b t u) s → n < 64 →
     (readG (src s) a).toNat = 0x40 + 8 * n →
     ∃ v, exec (.snapwr a b t u) s = .next v ∧ v.cur = s.cur ∧
       physReadG (live v) n = (if n = 0 then 0 else readG (src s) b) ∧
       (∀ m, m ≠ n → physReadG (live v) m = physReadG (live s) m) ∧ (live v).v = (live s).v ∧ (live v).p = (live s).p ∧
       (live v).o = (live s).o ∧ (live v).empty = (live s).empty ∧ (live v).owner = (live s).owner ∧
       v.dev.mem = s.dev.mem) ∧
   (∀ (d a b : RegNum) (t u : Bool) (s : State), sourcesFull (.snapwr a b t u) s →
     ((readG (src s) a).toNat % 8 ≠ 0 →
       exec (.snaprd d a t) s = trap s causeMisaligned (readG (src s) a) ∧
       exec (.snapwr a b t u) s = trap s causeMisaligned (readG (src s) a)) ∧
     ((readG (src s) a).toNat % 8 = 0 → 40960 ≤ (readG (src s) a).toNat →
       exec (.snaprd d a t) s = trap s causeAccess (readG (src s) a) ∧
       exec (.snapwr a b t u) s = trap s causeAccess (readG (src s) a))))

/-- R49, R229, R277: SUSPEND, ENDSTEP and EXIT with code 0 end the task's run at the clause that follows, in the states
0, 4 and 5; EXIT with another code stops the launch with its low 16 bits. That a back edge which the clause takes
(R229) comes before the continuation is recorded is the model's reading of log 65. -/
def Obligations.SuspensionWords : Prop :=
  (∀ (s : State) (q : Suspending),
    let d := putCore s.dev s.cur (afterClause s)
    let pc := (afterClause s).pc
    q.holds d s.cur →
    (∃ u, exec .suspend s = .next u ∧ suspendedTo d u.dev s.cur q.run .ready pc) ∧
    (∃ u, exec .endstep s = .next u ∧ suspendedTo d u.dev s.cur q.run .stepEnd pc) ∧
    (∀ (a : RegNum) (t : Bool), sourcesFull (.exit a t) s → readG (src s) a = 0 →
      ∃ u, exec (.exit a t) s = .next u ∧ suspendedTo d u.dev s.cur q.run .exited pc)) ∧
  (∀ (a : RegNum) (t : Bool) (s : State) (r : Running) (x : Launch), sourcesFull (.exit a t) s →
    readG (src s) a ≠ 0 → (live s).run = some r → launchAt s.dev r.launch = some x → x.stop = none →
    ∃ u st, exec (.exit a t) s = .next u ∧ launchAt u.dev r.launch = some { x with stop := some st } ∧
      st.task = some r.task ∧ st.cause = 0 ∧ st.exit = (readG (src s) a).setWidth 16 ∧ st.status = 8 ∧
      live u = live s ∧ u.dev.mem = s.dev.mem)

/-- R278, R87: LAUNCH reads 256 bytes as an engine access of the task, marks g(d) empty, and puts the record into the
check window; it waits while an earlier access is outstanding, and in D-mode only g0 may take the handle. R279, R143:
DEADLINE declares the current step's deadline and remaining work for the task's launch; a deadline of 0 withdraws it;
nothing but that launch, and its regeneration launches, is touched; one that does not count changes nothing. R142, R280:
SWPT reads the entry of a switch point at the level granted, or entry 7 while RiskPend is set, as its first issue cycle
finds it; an entry of PC 0 changes nothing, and another transfers to its PC with its gloss position.
The model's choices in log 15, 66 stand behind it. -/
def Obligations.LaunchDeadlineAndSwitchPointWords : Prop :=
  (∀ (d a : RegNum) (t : Bool) (s : State) (x : Launch) (ls : List Nat),
     sourcesFull (.launch d a t) s → (readG (src s) a).toNat < 2 ^ 48 → fetchable s x (readG (src s) a) 256 ls →
     (readG (src s) a).toNat % 8 = 0 →
     (∀ tags : SMap Tag, raceFree s x (granulesOf ls) false false true tags → diesSound s (diesAt (stopeOf s.cur) ls) →
       quiet s → readWaits s (granulesOf ls) = false → (d ≠ 0 → dmodeOf s.dev s.cur = false) →
       let u := issueLoad (accessed s x (diesAt (stopeOf s.cur) ls) tags) .g d.toNat 63 .none
       exec (.launch d a t) s = .next (setLive u { live u with
         window := [⟨wordId s, s.dev.issues, .launch (ls.map (readByte s.dev.mem))⟩],
         epoch := nextEpoch (live s).epoch })) ∧
     (loadsBefore (src s) (wordId s) = true ∨ (src s).window ≠ [] ∨ (src s).acks ≠ [] →
       (d ≠ 0 → dmodeOf s.dev s.cur = false) → exec (.launch d a t) s = hold s) ∧
     (d ≠ 0 → dmodeOf s.dev s.cur = true →
       exec (.launch d a t) s = trap s causeDet ((wordAddr s).setWidth 64))) ∧
  ((∀ (a b : RegNum) (t u : Bool) (s : State) (r : Running) (x : Launch), sourcesFull (.deadline a b t u) s →
      (src s).run = some r → launchAt s.dev r.launch = some x →
      (declares s.dev.now (gangCore x s.cur) x = false → exec (.deadline a b t u) s = .next s) ∧
      (declares s.dev.now (gangCore x s.cur) x = true →
      ∃ v y, exec (.deadline a b t u) s = .next v ∧ launchAt v.dev r.launch = some y ∧
        y.deadline = (if readG (src s) a = 0 then none else some (s.dev.now + (readG (src s) a).toNat)) ∧
        y.work = (readG (src s) b).toNat ∧ y.spent = 0 ∧ y.declared = true ∧ y.tasks = x.tasks ∧ y.state = x.state ∧
        y.step = x.step ∧ live v = live s ∧ v.dev.mem = s.dev.mem ∧
        ∀ l z, launchAt s.dev l = some z → l ≠ r.launch → z.parent ≠ some r.launch → launchAt v.dev l = some z)) ∧
   (∀ (j : BitVec 12) (s : State) (x : Launch) (p : Place) (loc n : Nat) (tags : SMap Tag),
      let lev := (src s).swpt.getD (if (src s).riskPend then 7 else s.dev.power.grant.toNat)
      let va : Dword := x.record.switchTab.setWidth 64 + BitVec.ofNat 64 (128 * j.toNat + 16 * lev)
      reaches s ⟨.fetch, .read, va, 1, true, false⟩ x p → locOf p = some loc → diesSound s (diesOf (stopeOf s.cur) p) →
      j.toNat < x.record.switches → x.record.switchTab.toNat % 16 = 0 →
      readable' s (granules loc 16) → raceFree s x (granules loc 16) false false false tags → n = readN s.dev.mem loc 16 →
      n / 2 ^ 48 % 2 ^ 16 = 0 → n / 2 ^ 112 = 0 →
      let pc : Va := BitVec.ofNat 48 n
      let gl : Va := BitVec.ofNat 48 (n / 2 ^ 64)
      let v := accessed (onBase s fun d => modCore d s.cur fun c => { c with swpt := some lev }) x
        (diesOf (stopeOf s.cur) p) tags
      let c := { live s with swpt := none }
      gl.toNat % 4 = 0 →
      (pc = 0 → exec (.swpt j) s = .next (setLive v c)) ∧
      (pc ≠ 0 → packetStart (anchorOf s.dev s.cur) pc = true →
        exec (.swpt j) s = .next (goTo v (leavingLoop { c with gpc := gl } pc) pc))))

/-- R282, R283, R105: WAITGE on a counter that has reached its value advances the race epoch and adds the counter's
records to the acquire log; on one that has not, the task suspends in State 2 at the wait's own clause; on one in
overrun it traps COUNTER_OVERRUN with the address. ARMCNT puts the arming of a counter into the check window and
advances the race epoch; when it is performed the counter is 0 with its limit, and without an overrun or a record; a
limit of all ones disarms it. R284: BAR with a slot above 63, or a size of 0 or above the launch's tasks, traps
ACCESS_TYPE; a barrier of one task is complete at once and takes the arrival; a barrier of more, whose group is not
complete, suspends the task in State 2 at the clause that follows, after a back edge that the clause takes. R87: WAITGE
and ARMCNT are checked as atomics to the counter's granule.
The model's choices in log 14, 15, 65, 66 stand behind it. -/
def Obligations.CounterAndBarrierWords : Prop :=
  ((∀ (a b : RegNum) (t u : Bool) (s : State) (x : Launch) (p : Place) (loc : Nat) (tags : SMap Tag),
      sourcesFull (.waitge a b t u) s →
      reaches s ⟨.coreAtomic, .read, readG (src s) a, 8, true, false⟩ x p → locOf p = some loc →
      diesSound s (diesOf (stopeOf s.cur) p) → readable' s (granules loc 8) →
      raceFree s x (granules loc 8) false true false tags →
      (dmodeOf s.dev s.cur = true → armOf s.dev loc ≠ none) →
      let v := accessed s x (diesOf (stopeOf s.cur) p) tags
      let value := readN s.dev.mem loc 8
      (overrunAt s.dev loc = true → exec (.waitge a b t u) s = trap v causeOverrun (readG (src s) a)) ∧
      (overrunAt s.dev loc = false → (readG (src s) b).toNat ≤ value →
        exec (.waitge a b t u) s = .next (setLive v { live s with
          epoch := nextEpoch (live s).epoch,
          acq := (acquired v.dev loc (stopeOf s.cur) (BitVec.ofNat 64 value)).foldl addAcq (live s).acq })) ∧
      (overrunAt s.dev loc = false → value < (readG (src s) b).toNat →
        let d := modCore v.dev s.cur fun c => { c with gpc := (src s).gpc }
        ∀ q : Suspending, q.holds d s.cur →
          ∃ w, exec (.waitge a b t u) s = .next w ∧ suspendedTo d w.dev s.cur q.run .waiting (src s).pc)) ∧
   ((∀ (a b : RegNum) (t u : Bool) (s : State) (x : Launch) (p : Place) (loc : Nat) (tags : SMap Tag),
      sourcesFull (.armcnt a b t u) s →
      reaches s ⟨.coreAtomic, .write, readG (src s) a, 8, true, false⟩ x p → locOf p = some loc →
      diesSound s (diesOf (stopeOf s.cur) p) → raceFree s x (granules loc 8) true true false tags →
      (readG (src s) b = BitVec.allOnes 64 ∨ armFits s.dev x.part loc = true) →
      let v := accessed s x (diesOf (stopeOf s.cur) p) tags
      exec (.armcnt a b t u) s = .next (setLive v { live s with
        window := (live s).window ++ [⟨wordId s, s.dev.issues, .arm loc (readG (src s) b)⟩],
        epoch := nextEpoch (live s).epoch })) ∧
    (∀ (d : Dev) (part : BitVec 4) (ctx loc : Nat) (limit : Dword), limit ≠ BitVec.allOnes 64 →
      metWaits { d with mem := writeN d.mem loc 8 0, arms := minsert d.arms loc ⟨part, ctx, limit, false, []⟩ } = [] →
      armOf (armCounter d part ctx loc limit) loc = some ⟨part, ctx, limit, false, []⟩ ∧
      counterValue (armCounter d part ctx loc limit) loc = 0) ∧
    (∀ (d : Dev) (part : BitVec 4) (ctx loc : Nat), metWaits { d with arms := merase d.arms loc } = [] →
      armOf (armCounter d part ctx loc (BitVec.allOnes 64)) loc = none ∧
      (armCounter d part ctx loc (BitVec.allOnes 64)).mem = d.mem))) ∧
  (∀ (a b : RegNum) (t u : Bool) (s : State) (x : Launch) (r : Running), sourcesFull (.bar a b t u) s →
     launchOf s.dev s.cur = some x → (src s).run = some r → (live s).run = some r →
     let sl := (readG (src s) a).toNat
     let n := (readG (src s) b).toNat
     (63 < sl ∨ n = 0 ∨ x.record.tasks < n → exec (.bar a b t u) s = trap s causeAccess (readG (src s) a)) ∧
     (∀ tk, sl ≤ 63 → 1 ≤ n → n ≤ x.record.tasks → mfind x.tasks r.task = some tk → quiet s →
       mfind x.barriers (slotKey sl (mget 0 tk.arrivals sl)) = none →
       (n = 1 → ∃ v y, exec (.bar a b t u) s = .next v ∧ launchAt v.dev r.launch = some y ∧
         (live v).leaving = (live s).leaving ∧ sameRegisters (live s) (live v) ∧
         ∃ tk', mfind y.tasks r.task = some tk' ∧ mget 0 tk'.arrivals sl = mget 0 tk.arrivals sl + 1) ∧
       (∀ q : Suspending, 2 ≤ n → r.task / n * n + 1 < x.record.tasks →
         (∀ i tk', i ≠ r.task → i / n = r.task / n → mfind x.tasks i = some tk' → tk'.state ≠ .exited) →
         let c := afterClause (setLive s { live s with epoch := nextEpoch (live s).epoch })
         let d := putCore s.dev s.cur c
         q.holds d s.cur →
         ∃ v, exec (.bar a b t u) s = .next v ∧ suspendedTo d v.dev s.cur r .waiting c.pc)))

/-! ## Loads, stores and atomics -/

/-- R185, R236, R238: a load whose access passes its checks leaves its register empty and its data to come, to land
after the word's delay: of a place in memory the 8 or 128 bytes there, of the counter window or of an agent's the 8
bytes that the window gives. Memory is as before.
The model's choices in log 8 stand behind it. -/
def Obligations.LoadWords : Prop :=
  ∀ (d b : RegNum) (t : Bool) (l : RegNum) (o : BitVec 7) (s : State) (x : Launch) (p : Place) (tags : SMap Tag),
    (sourcesFull (.ld d b t l o) s →
      let va := readG (src s) b + BitVec.ofInt 64 (8 * o.toInt)
      reaches s ⟨.core, .read, va, 8, false, false⟩ x p → raceFree s x (accessGranules p 8) false false false tags →
      diesSound s (diesOf (stopeOf s.cur) p) →
      ∃ from', exec (.ld d b t l o) s =
          .next (issueLoad (accessed s x (diesOf (stopeOf s.cur) p) tags) .g d.toNat l.toNat from') ∧
        (∀ loc, locOf p = some loc → from' = .bytes loc 8) ∧ (∀ w, p = .sysreg w → from' = .window w) ∧
        (∀ k w, p = .agent k w → from' = .agent k w)) ∧
    (sourcesFull (.vld d b t l) s →
      reaches s ⟨.core, .read, readG (src s) b, 128, true, false⟩ x p →
      raceFree s x (accessGranules p 128) false false false tags → diesSound s (diesOf (stopeOf s.cur) p) →
      ∃ from', exec (.vld d b t l) s =
          .next (issueLoad (accessed s x (diesOf (stopeOf s.cur) p) tags) .v d.toNat l.toNat from') ∧
        ∀ loc, locOf p = some loc → from' = .bytes loc 128)

/-- R233, R60, R67: the checks of LD and ST in their order: a high bit or an address that the table does not map traps,
with the cause that translation gives; then a misaligned address traps MISALIGNED; each with the address. R101, R106,
R108: a store that races with an earlier access traps RACE, with the address of the first granule that races, and no
byte is written. -/
def Obligations.AccessFaults : Prop :=
  (∀ (d b : RegNum) (t u : Bool) (l : RegNum) (o : BitVec 7) (e : BitVec 12) (s : State) (x : Launch),
     launchOf s.dev s.cur = some x → sourcesFull (.st d b t u e) s → sourcesFull (.ld d b t l o) s →
     let va := readG (src s) b + BitVec.ofInt 64 (8 * o.toInt)
     let vs := readG (src s) b + BitVec.ofInt 64 (8 * e.toInt)
     (2 ^ 48 ≤ va.toNat → exec (.ld d b t l o) s = trap s causeAbsent va) ∧
     (2 ^ 48 ≤ vs.toNat → exec (.st d b t u e) s = trap s causeAbsent vs) ∧
     (∀ c, va.toNat < 2 ^ 48 → xlate s.dev x (stopeOf s.cur) .core .read va = .trap c →
       exec (.ld d b t l o) s = trap s c va) ∧
     (∀ c, vs.toNat < 2 ^ 48 → xlate s.dev x (stopeOf s.cur) .core .write vs = .trap c →
       exec (.st d b t u e) s = trap s c vs) ∧
     (∀ p, va.toNat < 2 ^ 48 → xlate s.dev x (stopeOf s.cur) .core .read va = .place p → va.toNat % 8 ≠ 0 →
       exec (.ld d b t l o) s = trap s causeMisaligned va) ∧
     (∀ p, vs.toNat < 2 ^ 48 → xlate s.dev x (stopeOf s.cur) .core .write vs = .place p → vs.toNat % 8 ≠ 0 →
       exec (.st d b t u e) s = trap s causeMisaligned vs)) ∧
  (∀ (r b : RegNum) (t u : Bool) (o : BitVec 12) (s : State) (x : Launch) (p : Place) (loc g : Nat) (k : Running),
     sourcesFull (.st r b t u o) s → s.clause = none → (live s).run = some k →
     let va := readG (src s) b + BitVec.ofInt 64 (8 * o.toInt)
     reaches s ⟨.core, .write, va, 8, false, false⟩ x p → locOf p = some loc → loc % 32 = va.toNat % 32 →
     raceAll (heldNumber s.dev x.ctx) (live s).acq (accessOf x k.task (live s).epoch true false false) (granules loc 8)
       s.dev.tags = .error g →
     exec (.st r b t u o) s = trap s causeRace (BitVec.ofNat 64 (va.toNat / 32 * 32)) ∧
     ∀ v, exec (.st r b t u o) s = .next v → v.dev.mem = s.dev.mem ∧ (live v).window = (live s).window)

/-- R237, R238, R150: a store whose access passes its checks puts its bytes into the core's check window, at the places
that its address gives: ST the 8 bytes of a g register, and VST.W, VST.H and VST.B the bytes of a v register whose
element the predicate selects. The bytes of memory are as before, and so is every register. -/
def Obligations.StoreWords : Prop :=
  (∀ (r b : RegNum) (t u : Bool) (o : BitVec 12) (s : State) (x : Launch) (p : Place) (tags : SMap Tag) (loc : Nat),
    sourcesFull (.st r b t u o) s →
    let va := readG (src s) b + BitVec.ofInt 64 (8 * o.toInt)
    reaches s ⟨.core, .write, va, 8, false, false⟩ x p → locOf p = some loc →
    raceFree s x (granules loc 8) true false false tags → diesSound s (diesOf (stopeOf s.cur) p) →
    let v := accessed s x (diesOf (stopeOf s.cur) p) tags
    exec (.st r b t u o) s = .next (setLive v { live s with window := (live s).window ++
      [⟨wordId s, s.dev.issues, .store ((List.range 8).map fun k =>
        (loc + k, BitVec.ofNat 8 ((readG (src s) r).toNat / 256 ^ k)))⟩] })) ∧
  (∀ (r b : RegNum) (t u : Bool) (o : BitVec 12) (s : State) (x : Launch) (stack off : Nat) (tags : SMap Tag),
    sourcesFull (.st r b t u o) s →
    let va := readG (src s) b + BitVec.ofInt 64 (8 * o.toInt)
    reaches s ⟨.core, .write, va, 8, false, false⟩ x (.agent stack off) → raceFree s x [] true false false tags →
    diesSound s (diesOf (stopeOf s.cur) (.agent stack off)) →
    let v := accessed s x (diesOf (stopeOf s.cur) (.agent stack off)) tags
    exec (.st r b t u o) s = .next (setLive v { live s with window := (live s).window ++
      [⟨wordId s, s.dev.issues, .agentStore stack off (readG (src s) r)⟩] })) ∧
  (∀ row ∈ vectorStores, ∀ (r b : RegNum) (t : Bool) (p : PredNum) (s : State) (x : Launch) (pl : Place)
      (tags : SMap Tag) (loc : Nat),
    sourcesFull (row.1 r b t p) s → reaches s ⟨.core, .write, readG (src s) b, 128, true, false⟩ x pl →
    locOf pl = some loc →
    let ks := selectedBytes (readP (src s) p.toNat) row.2
    raceFree s x (storedGranules pl (readG (src s) b) ks) true false false tags →
    diesSound s (diesOf (stopeOf s.cur) pl) →
    let v := accessed s x (diesOf (stopeOf s.cur) pl) tags
    exec (row.1 r b t p) s = .next (setLive v { live s with window := (live s).window ++
      [⟨wordId s, s.dev.issues, .store (ks.map fun k => (loc + k, (readV (src s) r).extractLsb' (8 * k) 8))⟩] }))

/-- R239: a gather or scatter whose base passes its checks, and whose active lanes lie in the base's page and are
aligned. The gather's register waits for the words at the active lanes' places; the scatter puts the active lanes' words
into the check window in lane order. -/
def Obligations.GatherAndScatter : Prop :=
  ∀ (v b i : RegNum) (t : Bool) (p : PredNum) (s : State) (x : Launch) (pl : Place) (loc : Nat) (tags : SMap Tag),
    let c := src s
    let base := readG c b
    let place := fun (k : Nat) => loc - base.toNat % 2 ^ 21 + (laneAddress c b i k).toNat % 2 ^ 21
    let gs := (laneGranules ((lanesOn c p).map fun k => (k, laneAddress c b i k)) (inPage pl base)).map (·.1)
    let u := accessed s x (diesOf (stopeOf s.cur) pl) tags
    locOf pl = some loc → lanesFit c b i p pl → diesSound s (diesOf (stopeOf s.cur) pl) →
    (sourcesFull (.vgather v b i t p) s → reaches s ⟨.core, .read, base, 1, true, false⟩ x pl →
      raceFree s x gs false false false tags →
      exec (.vgather v b i t p) s = .next (issueLoad u .v v.toNat 63 (.lanes ((List.range 32).map fun k =>
        if (readP c p.toNat).getLsbD (4 * k) then some (place k) else none)))) ∧
    (sourcesFull (.vscatter v b i t p) s → reaches s ⟨.core, .write, base, 1, true, false⟩ x pl →
      raceFree s x gs true false false tags →
      exec (.vscatter v b i t p) s = .next (setLive u { live s with window := (live s).window ++
        [⟨wordId s, s.dev.issues, .store ((lanesOn c p).flatMap fun k => (List.range 4).map fun j =>
          (place k + j, (readV c v).extractLsb' (32 * k + 8 * j) 8))⟩] }))

/-- R235, R201: load data arrives: the bytes that the load reads, as memory stands, where no forced pre-emption awaits
it and nothing replays. A result whose word owns its register is written at once where it is untimed or its landing
cycle has come, and else waits in the landing buffer, where there is room; one whose word owns its register no more is
discarded. R90, R150: a store at the head of the check window, which nothing keeps back, leaves with its clause: every
byte of memory reads as the store's last byte for its place, or as before; the core's registers are untouched. -/
def Obligations.ArrivalsAndWindowStores : Prop :=
  (∀ (core : CoreId) (w loc n : Nat) (s : State) (f : Flight) (r : Running),
     let k := coreNum core
     let c := coreAt s.dev k
     c.run = some r → c.flights.find? (fun f => f.word == w && isLoad f.src && !f.arrived) = some f →
     f.src = .bytes loc n → f.num < 64 → loadReady s.dev k f.word f.src = true → preemptDue s.dev.now c = false →
     replaying s.dev (stopeOf k) = false →
     (owns c f = true → f.remain = 0 ∨ 63 ≤ f.remain →
       ∃ t, exec (.loadDataArrival core w false) s = .next t ∧ t = setDev s (putCore s.dev k (coreAt t.dev k)) ∧
         regValue (coreAt t.dev k) f.file f.num = BitVec.ofNat 1024 (readN s.dev.mem loc n % 2 ^ regWidth f.file) ∧
         isEmpty (coreAt t.dev k) f.file f.num = false ∧
         ∀ e m, m < 64 → (e ≠ f.file ∨ m ≠ f.num) → regValue (coreAt t.dev k) e m = regValue c e m) ∧
     (owns c f = true → f.remain < 63 → f.remain ≠ 0 → buffered c < 16 →
       ∃ t g, exec (.loadDataArrival core w false) s = .next t ∧ t = setDev s (putCore s.dev k (coreAt t.dev k)) ∧
         sameRegisters c (coreAt t.dev k) ∧ g ∈ (coreAt t.dev k).flights ∧ g.word = w ∧ g.file = f.file ∧ g.num = f.num ∧
         g.arrived = true ∧ g.buffered = true ∧ g.remain = f.remain ∧
             g.data = BitVec.ofNat 1024 (readN s.dev.mem loc n)) ∧
     (owns c f = false →
       ∃ t, exec (.loadDataArrival core w false) s = .next t ∧ t = setDev s (putCore s.dev k (coreAt t.dev k)) ∧
         sameRegisters c (coreAt t.dev k) ∧ ∀ g ∈ (coreAt t.dev k).flights, ¬ (g.word = w ∧ g.file = f.file ∧
             g.num = f.num))) ∧
  (∀ (core : CoreId) (s : State) (w : WindowItem) (r : List WindowItem) (cs : List Host.Cell),
     let k := coreNum core
     (coreAt s.dev k).window = w :: r → (∀ e ∈ r, e.seq ≠ w.seq) → w.op = .store cs →
     canLeave s.dev (coreAt s.dev k) (7 * s.dev.issues + 8) w = true → replaying s.dev (stopeOf k) = false →
     wakesNone { putCore s.dev k { coreAt s.dev k with window := r } with mem := writeCells s.dev.mem cs } →
     ∃ t, exec (.checkWindowClose core) s = .next t ∧ coreAt t.dev k = { coreAt s.dev k with window := r } ∧
       writtenBytes s.dev.mem t.dev.mem cs ∧ (∀ j, j ≠ k → coreAt t.dev j = coreAt s.dev j) ∧
       t.dev.launches = s.dev.launches ∧ t.dev.ctxs = s.dev.ctxs ∧ t.dev.stopes = s.dev.stopes)

/-- R241, R242, R109: an atomic of one memory word, and ALD and ACAS, issues: it joins the check window with its
operands and its order, its result register waits, and a release advances the epoch. D-mode lets only ALD, AST and the
reductions but FADD pass: the others trap DET_VIOLATION, ACAS, ACAS2, AENQ and APCHASE among them. R245 to R247: the
atomics of several registers or words issue: ACAS with the pair g(d) and g(d + 1), ACAS2 with the quad from g(d) on two
words, AENQ with an element of the list's own page, and APCHASE with its control word; these two check at issue also
the old tail, or the links, that memory then shows (log 15). -/
def Obligations.AtomicWords : Prop :=
  ((∀ row ∈ atomRows, ∀ (d a : RegNum) (t : Bool) (sc : Scope) (o : Order) (z : Bool) (s : State) (x : Launch) (p : Place)
       (loc : Nat) (tags : SMap Tag),
     let half := row.always || z
     let n := if half then 4 else 8
     let va := readG (src s) a
     sourcesFull (row.word d a t sc o z) s → reaches s ⟨.coreAtomic, .atomic, va, n, true, true⟩ x p →
     locOf p = some loc → (row.ruled = true → dmodeOf s.dev s.cur = false) →
     raceFree s x ((granulesAt p va n).map (·.1)) true true false tags → diesSound s (diesOf (stopeOf s.cur) p) →
     ∃ tk e, exec (row.word d a t sc o z) s = .next (atomIssued (accessed s x (diesOf (stopeOf s.cur) p) tags) o d.toNat
       (if row.result then 1 else 0) (issueFlags row.fn ((readG (src s) d).setWidth 32))
       { fn := row.fn, loc := loc, va := va.setWidth 48, half := half, x := readG (src s) d, y := 0, z := 0, w := 0,
         scope := sc, order := o, task := tk, epoch := e, loc2 := 0 })) ∧
   (∀ (d a : RegNum) (t : Bool) (sc : Scope) (o : Order) (z : Bool) (s : State) (x : Launch) (p : Place) (loc : Nat)
       (tags : SMap Tag),
     let n := if z then 4 else 8
     let va := readG (src s) a
     sourcesFull (.ald d a t sc o z) s → reaches s ⟨.coreAtomic, .atomic, va, n, true, true⟩ x p → locOf p = some loc →
     raceFree s x ((granulesAt p va n).map (·.1)) true true false tags → diesSound s (diesOf (stopeOf s.cur) p) →
     ∃ tk e, exec (.ald d a t sc o z) s = .next (atomIssued (accessed s x (diesOf (stopeOf s.cur) p) tags) o d.toNat 1 0
       { fn := .ald, loc := loc, va := va.setWidth 48, half := z, x := 0, y := 0, z := 0, w := 0,
         scope := sc, order := o, task := tk, epoch := e, loc2 := 0 })) ∧
   (∀ row ∈ atomRows, row.ruled = true → ∀ (d a : RegNum) (t : Bool) (sc : Scope) (o : Order) (z : Bool) (s : State)
       (x : Launch) (p : Place),
     sourcesFull (row.word d a t sc o z) s →
     reaches s ⟨.coreAtomic, .atomic, readG (src s) a, if row.always || z then 4 else 8, true, true⟩ x p →
     dmodeOf s.dev s.cur = true → exec (row.word d a t sc o z) s = trap s causeDet ((wordAddr s).setWidth 64)) ∧
   (∀ (a : RegNum) (t : Bool) (sc : Scope) (o : Order) (s : State) (x : Launch) (p : Place),
     let va := readG (src s) a
     let near := fun (e : Dword) (n : Nat) => reaches s ⟨.coreAtomic, .atomic, e, n, true, true⟩ x
     dmodeOf s.dev s.cur = true →
     (∀ (d : BitVec 5) (z : Bool), sourcesFull (.acas d a t sc o z) s → near va (if z then 4 else 8) p →
       exec (.acas d a t sc o z) s = trap s causeDet ((wordAddr s).setWidth 64)) ∧
     (∀ d : BitVec 4, sourcesFull (.acas2 d a t sc o) s → near va 16 p →
       exec (.acas2 d a t sc o) s = trap s causeDet ((wordAddr s).setWidth 64)) ∧
     (∀ (d : RegNum) (pa eloc : Nat), sourcesFull (.aenq d a t sc o) s → near va 16 (.hbm pa) → near (readG (src s) d) 8 p →
       locOf p = some eloc → (readG (src s) d).toNat / 2 ^ 21 = va.toNat / 2 ^ 21 →
       exec (.aenq d a t sc o) s = trap s causeDet ((wordAddr s).setWidth 64)) ∧
     (∀ (d : RegNum) (pa : Nat), sourcesFull (.apchase d a t sc o) s → near va 8 (.hbm pa) →
       exec (.apchase d a t sc o) s = trap s causeDet ((wordAddr s).setWidth 64)))) ∧
  ((∀ (d : BitVec 5) (a : RegNum) (t : Bool) (sc : Scope) (o : Order) (z : Bool) (s : State) (x : Launch) (p : Place)
       (loc : Nat) (tags : SMap Tag),
     let r : RegNum := BitVec.ofNat 6 (2 * d.toNat)
     let n := if z then 4 else 8
     let va := readG (src s) a
     sourcesFull (.acas d a t sc o z) s → reaches s ⟨.coreAtomic, .atomic, va, n, true, true⟩ x p → locOf p = some loc →
     dmodeOf s.dev s.cur = false → raceFree s x ((granulesAt p va n).map (·.1)) true true false tags →
     diesSound s (diesOf (stopeOf s.cur) p) →
     ∃ tk e, exec (.acas d a t sc o z) s =
       .next (atomIssued (accessed s x (diesOf (stopeOf s.cur) p) tags) o (2 * d.toNat) 1 0
       { fn := .acas, loc := loc, va := va.setWidth 48, half := z, x := readG (src s) r, y := readG (src s) (r + 1),
         z := 0, w := 0, scope := sc, order := o, task := tk, epoch := e, loc2 := 0 })) ∧
   (∀ (d : BitVec 4) (a : RegNum) (t : Bool) (sc : Scope) (o : Order) (s : State) (x : Launch) (p : Place) (loc : Nat)
       (tags : SMap Tag),
     let r : RegNum := BitVec.ofNat 6 (4 * d.toNat)
     let va := readG (src s) a
     sourcesFull (.acas2 d a t sc o) s → reaches s ⟨.coreAtomic, .atomic, va, 16, true, true⟩ x p → locOf p = some loc →
     dmodeOf s.dev s.cur = false → raceFree s x ((granulesAt p va 16).map (·.1)) true true false tags →
     diesSound s (diesOf (stopeOf s.cur) p) →
     ∃ tk e, exec (.acas2 d a t sc o) s =
       .next (atomIssued (accessed s x (diesOf (stopeOf s.cur) p) tags) o (4 * d.toNat) 2 0
       { fn := .acas2, loc := loc, va := va.setWidth 48, half := false, x := readG (src s) r, y := readG (src s) (r + 1),
         z := readG (src s) (r + 2), w := readG (src s) (r + 3), scope := sc, order := o, task := tk,
         epoch := e, loc2 := 0 })) ∧
   (∀ (d a : RegNum) (t : Bool) (sc : Scope) (o : Order) (s : State) (x : Launch) (pa eloc : Nat) (q : Place)
       (tags : SMap Tag),
     let va := readG (src s) a
     let el := readG (src s) d
     let gs := addGranules (granulesAt (.hbm pa) va 16)
       ((eloc, el) :: walkPlaces (memSeen s) .aenq (hbmLoc pa) (va.setWidth 48) el)
     sourcesFull (.aenq d a t sc o) s → reaches s ⟨.coreAtomic, .atomic, va, 16, true, true⟩ x (.hbm pa) →
     reaches s ⟨.coreAtomic, .atomic, el, 8, true, true⟩ x q → locOf q = some eloc →
     el.toNat / 2 ^ 21 = va.toNat / 2 ^ 21 → dmodeOf s.dev s.cur = false →
     raceFree s x (gs.map (·.1)) true true false tags → diesSound s (diesOf (stopeOf s.cur) (.hbm pa)) →
     ∃ tk e, exec (.aenq d a t sc o) s =
       .next (atomIssued (accessed s x (diesOf (stopeOf s.cur) (.hbm pa)) tags) o d.toNat 1 0
       { fn := .aenq, loc := hbmLoc pa, va := va.setWidth 48, half := false, x := el, y := 0, z := 0, w := 0, scope := sc,
         order := o, task := tk, epoch := e, loc2 := eloc, checked := gs.map (·.1), began := (live s).epoch })) ∧
   (∀ (d a : RegNum) (t : Bool) (sc : Scope) (o : Order) (s : State) (x : Launch) (pa : Nat) (tags : SMap Tag),
     let va := readG (src s) a
     let gs := addGranules (granulesAt (.hbm pa) va 8)
       (walkPlaces (memSeen s) .apchase (hbmLoc pa) (va.setWidth 48) (readG (src s) d))
     sourcesFull (.apchase d a t sc o) s → reaches s ⟨.coreAtomic, .atomic, va, 8, true, true⟩ x (.hbm pa) →
     dmodeOf s.dev s.cur = false → raceFree s x (gs.map (·.1)) true true false tags →
     diesSound s (diesOf (stopeOf s.cur) (.hbm pa)) →
     ∃ tk e, exec (.apchase d a t sc o) s =
       .next (atomIssued (accessed s x (diesOf (stopeOf s.cur) (.hbm pa)) tags) o d.toNat 1 0
       { fn := .apchase, loc := hbmLoc pa, va := va.setWidth 48, half := false, x := readG (src s) d, y := 0, z := 0,
         w := 0, scope := sc, order := o, task := tk, epoch := e, loc2 := 0, checked := gs.map (·.1),
         began := (live s).epoch })))

/-- R241 to R246: what an atomic does where it is performed, when nothing waits for the memory it changes: the result is
the old value, a 4-byte one zero-extended; memory takes the new value there and nowhere else. A compare that fails
writes nothing, ACAS2 compares both words, and AENQ on an empty list makes the element its head and its tail. R281: an
increment of a counter that is not armed adds to it; of an armed one whose limit the sum would pass it is refused,
keeps the value and puts the counter into overrun; and in overrun every increment is refused. R241, R201: the
acknowledgement of an atomic brings its result to the register that waits for it, where the atomic still owns it, and
its flags to sr.fflags; the acknowledgement is gone, and no other result in flight is touched. -/
def Obligations.AtomicsAndIncrements : Prop :=
  ((∀ row ∈ dwordRows, ∀ (d : Dev) (st : Nat) (a : AtomReq), a.fn = row.1 → a.half = false →
     let m := BitVec.ofNat 64 (readN d.mem a.loc 8)
     let mem := writeN d.mem a.loc 8 (row.2 m a.x).toNat
     wakesNone { d with mem := mem } →
     (performAtomic d st a).1 = [m] ∧ (performAtomic d st a).2.1 = 0 ∧ (performAtomic d st a).2.2.mem = mem) ∧
   (∀ row ∈ wordRows, ∀ (d : Dev) (st : Nat) (a : AtomReq), a.fn = row.1 → a.half = true →
     let m : Word := BitVec.ofNat 32 (readN d.mem a.loc 4)
     let mem := writeN d.mem a.loc 4 (row.2 m (a.x.setWidth 32)).toNat
     wakesNone { d with mem := mem } →
     (performAtomic d st a).1 = [m.setWidth 64] ∧ (performAtomic d st a).2.2.mem = mem) ∧
   (∀ (d : Dev) (st : Nat) (a : AtomReq), a.fn = .acas → a.half = false → wakesNone d →
     let m := BitVec.ofNat 64 (readN d.mem a.loc 8)
     (performAtomic d st a).1 = [m] ∧ (m ≠ a.x → sameBytes d.mem (performAtomic d st a).2.2.mem) ∧
     (m = a.x → wakesNone { d with mem := writeN d.mem a.loc 8 a.y.toNat } →
       (performAtomic d st a).2.2.mem = writeN d.mem a.loc 8 a.y.toNat)) ∧
   (∀ (d : Dev) (st : Nat) (a : AtomReq), a.fn = .acas2 →
     let m0 := readN d.mem a.loc 8
     let m1 := readN d.mem (a.loc + 8) 8
     let mem := writeN (writeN d.mem a.loc 8 a.z.toNat) (a.loc + 8) 8 a.w.toNat
     (performAtomic d st a).1 = [BitVec.ofNat 64 m0, BitVec.ofNat 64 m1] ∧
     (m0 = a.x.toNat ∧ m1 = a.y.toNat → wakesNone { d with mem := mem } → (performAtomic d st a).2.2.mem = mem) ∧
     (¬ (m0 = a.x.toNat ∧ m1 = a.y.toNat) → wakesNone d → (performAtomic d st a).2.2.mem = d.mem)) ∧
   (∀ (d : Dev) (st : Nat) (a : AtomReq), a.fn = .aenq → readN d.mem (a.loc + 8) 8 = 0 →
     let mem := writeN (writeN (writeN d.mem a.loc2 8 0) a.loc 8 a.x.toNat) (a.loc + 8) 8 a.x.toNat
     wakesNone { d with mem := mem } →
     (performAtomic d st a).1 = [0] ∧ (performAtomic d st a).2.2.mem = mem) ∧
   (∀ (d : Dev) (st : Nat) (a : AtomReq), a.fn = .apchase → (performAtomic d st a).2.2 = d)) ∧
  (∀ (d : Dev) (loc : Nat) (n : Dword) (m : Option Mark),
     let v := counterValue d loc
     (armOf d loc = none → wakesNone { d with mem := writeN d.mem loc 8 (v + n).toNat } →
       (increment d loc n m).mem = writeN d.mem loc 8 (v + n).toNat ∧ (increment d loc n m).arms = d.arms) ∧
     (∀ a, armOf d loc = some a → a.overrun = false → a.limit ≠ 0 → a.limit.toNat < v.toNat + n.toNat →
       wakesNone { d with arms := minsert d.arms loc { a with overrun := true } } →
       (increment d loc n m).mem = d.mem ∧ armOf (increment d loc n m) loc = some { a with overrun := true }) ∧
     (∀ a, armOf d loc = some a → a.overrun = false → (a.limit = 0 ∨ v.toNat + n.toNat ≤ a.limit.toNat) →
       wakesNone { d with mem := writeN d.mem loc 8 (v + n).toNat,
                          arms := minsert d.arms loc { a with log := addContrib a.log m (v + n) } } →
       (increment d loc n m).mem = writeN d.mem loc 8 (v + n).toNat ∧
       ∃ b, armOf (increment d loc n m) loc = some b ∧ b.limit = a.limit ∧ b.overrun = false) ∧
     (∀ a, armOf d loc = some a → a.overrun = true → wakesNone d →
       (increment d loc n m).mem = d.mem ∧ (increment d loc n m).arms = d.arms)) ∧
  (∀ (core : CoreId) (s : State) (a : AckItem) (y : Dword) (f : Flight) (p q : List Flight),
     let k := coreNum core
     let c := coreAt s.dev k
     c.acks.find? (fun b => b.word == a.word) = some a → a.results = [y] → c.flights = p ++ f :: q → f.word = a.word →
     (∀ e ∈ p ++ q, e.word ≠ a.word ∧ ¬ (e.remain = 63 ∧ e.arrived = true)) → f.src = .result 0 →
     preemptDue s.dev.now c = false → replaying s.dev (stopeOf k) = false →
     f.fixed = false → f.arrived = false → f.remain = 63 → f.file = .g → f.num < 64 → owns c f = true →
     ∃ t, exec (.atomicAcknowledgement core a.word) s = .next t ∧ t = setDev s (putCore s.dev k (coreAt t.dev k)) ∧
       physReadG (coreAt t.dev k) f.num = y ∧ isEmpty (coreAt t.dev k) .g f.num = false ∧
       (coreAt t.dev k).flights = p ++ q ∧ (coreAt t.dev k).fflags = c.fflags ||| f.flags ||| a.flags ∧
       (coreAt t.dev k).acks = c.acks.filter (fun b => b.word != a.word) ∧
       ∀ m, m ≠ f.num → physReadG (coreAt t.dev k) m = physReadG c m)

/-! ## Vector words -/

/-- R250, R253, R254, R255, R266: the words of the integer lanes issue their results, lane by lane, with the latency of
the word: VADD to VXOR, the shifts, VMAD and VDOT4 in exact arithmetic; VPERM and VBCAST, which move lanes; and VSEL,
whose inactive lanes are those of its second source. None sets a flag. -/
def Obligations.VectorIntegerWords : Prop :=
  (∀ row ∈ laneRows, ∀ (d a b : RegNum) (t : Bool) (p : PredNum) (s : State), sourcesFull (row.word d a b t p) s →
    ∃ x, exec (row.word d a b t p) s = .next (issueV s d row.latency x 0) ∧
      laneWise (src s) p (readV (src s) d) (fun i => (row.value (lane32 (readV (src s) a) i) (lane32 (readV (src s) b) i)
        (lane32 (readV (src s) d) i), 0)) x 0) ∧
  ∀ (d a b : RegNum) (h t : Bool) (p : PredNum) (s : State),
    let c := src s
    (sourcesFull (.vperm d a b t p) s → ∃ x, exec (.vperm d a b t p) s = .next (issueV s d 2 x 0) ∧
      laneWise c p (readV c d) (fun i => (if (lane32 (readV c b) i).toNat < 32 then
        lane32 (readV c a) (lane32 (readV c b) i).toNat else 0, 0)) x 0) ∧
    (sourcesFull (.vbcast d a h t p) s → ∃ x, exec (.vbcast d a h t p) s = .next (issueV s d 2 x 0) ∧
      laneWise c p (readV c d) (fun _ => ((readG c a).extractLsb' (if h then 32 else 0) 32, 0)) x 0) ∧
    (sourcesFull (.vsel d a b t p) s → ∃ x, exec (.vsel d a b t p) s = .next (issueV s d 2 x 0) ∧
      laneWise c p (readV c b) (fun i => (lane32 (readV c a) i, 0)) x 0)

/-- R250, R251, R256, R257, R258, R264, R267: the floating-point words, the special functions and VRNG issue their
results and flags, lane by lane, with the latency of the word, under the rounding mode and the seed that stand at
issue. -/
def Obligations.VectorFloatWords : Prop :=
  (∀ row ∈ floatRows, ∀ (d a b : RegNum) (t : Bool) (p : PredNum) (s : State), sourcesFull (row.word d a b t p) s →
    ∃ x fl, exec (row.word d a b t p) s = .next (issueV s d row.latency x fl) ∧
      laneWise (src s) p (readV (src s) d) (fun i => row.value (frmMode (src s)) (src s).seed
        (lane32 (readV (src s) a) i) (lane32 (readV (src s) b) i) (lane32 (readV (src s) d) i)) x fl) ∧
  (∀ row ∈ singleRows, ∀ (d a : RegNum) (t : Bool) (p : PredNum) (s : State), sourcesFull (row.word d a t p) s →
    ∃ x fl, exec (row.word d a t p) s = .next (issueV s d row.latency x fl) ∧
      laneWise (src s) p (readV (src s) d) (fun i => row.value (frmMode (src s)) (src s).seed
        (lane32 (readV (src s) a) i)) x fl) ∧
  ∀ (d a : RegNum) (t : Bool) (p : PredNum) (s : State), sourcesFull (.vrng d a t p) s →
    ∃ x, exec (.vrng d a t p) s = .next (issueV s d 8 x 0) ∧
      laneWise (src s) p (readV (src s) d) (fun i =>
        let r := cbg (src s).seed 6 (lane32 (readV (src s) a) 1) (lane32 (readV (src s) a) 0) (BitVec.ofNat 32 (i / 4))
        (if i % 4 = 0 then r.x0 else if i % 4 = 1 then r.x1 else if i % 4 = 2 then r.x2 else r.x3, 0)) x 0

/-- R250, R265, R266: a compare sets bits 4i to 4i + 3 of its predicate to the outcome on an active lane, and clears
them elsewhere; a floating-point compare is of numbers, with NV as its row says. VMSK takes a v register's low bits
under the predicate. -/
def Obligations.VectorCompareAndMasks : Prop :=
  (∀ row ∈ compareRows, ∀ (d : PredNum) (a b : RegNum) (t : Bool) (p : PredNum) (s : State),
    sourcesFull (row.word d a b t p) s →
    let x := fun i => lane32 (readV (src s) a) i
    let y := fun i => lane32 (readV (src s) b) i
    ∃ bits fl, exec (row.word d a b t p) s = .next (issueP s d.toNat 2 bits fl) ∧
      (∀ j, j < 128 → bits.getLsbD j = (laneOn (src s) p (j / 4) && row.holds (x (j / 4)) (y (j / 4)))) ∧
      ((fl = flagNV ∧ ∃ i, i < 32 ∧ laneOn (src s) p i = true ∧ row.invalid (x i) (y i) = true) ∨
       (fl = 0 ∧ ∀ i, i < 32 → laneOn (src s) p i = true → row.invalid (x i) (y i) = false))) ∧
  ∀ (d : PredNum) (a : RegNum) (t : Bool) (p : PredNum) (s : State), sourcesFull (.vmsk d a t p) s →
    ∃ bits, exec (.vmsk d a t p) s = .next (issueP s d.toNat 2 bits 0) ∧
      ∀ j, j < 128 → bits.getLsbD j = ((readV (src s) a).getLsbD j && (readP (src s) p.toNat).getLsbD j)

/-- R259 to R263: VCVT converts the 32 elements, keeps the old element of an inactive lane, and clears what lies above
the last element; VPACK replaces a part and VUNPACK reads one; VQNT writes the codes and the scale of the active lanes,
an inactive lane counting as zero; and VRED reduces the active lanes, as integers by their sum, least or greatest.
The model's choices in log 55 stand behind it. -/
def Obligations.VectorConvertWords : Prop :=
  (∀ (d a : RegNum) (r : Rnd) (f : CvtFmt) (z : Bool) (p : PredNum) (g : CvtFmt) (s : State),
    sourcesFull (.vcvt d a r f z p g) s →
    let c := src s
    let y := fun i => convert f g (rndMode c r) c.seed z (bitsAt (readV c a) (cvtBits f * i) (cvtBits f))
    ∃ x fl, exec (.vcvt d a r f z p g) s = .next (issueV s d 3 x fl) ∧
      (∀ i, i < 32 → bitsAt x (cvtBits g * i) (cvtBits g) =
        if laneOn c p i then (y i).1 % 2 ^ cvtBits g else bitsAt (readV c d) (cvtBits g * i) (cvtBits g)) ∧
      (∀ j, 32 * cvtBits g ≤ j → x.getLsbD j = false) ∧
      ∀ j, j < 5 → (fl.getLsbD j = true ↔ ∃ i, i < 32 ∧ laneOn c p i = true ∧ (y i).2.getLsbD j = true)) ∧
  (∀ (d a : RegNum) (q : PartSel) (t : Bool) (s : State),
    let w := (partPlace q).1
    let o := (partPlace q).2
    (sourcesFull (.vpack d a q t) s → ∃ x, exec (.vpack d a q t) s = .next (issueV s d 3 x 0) ∧
      ∀ j, j < 1024 → x.getLsbD j =
        if o ≤ j ∧ j < o + w then (readV (src s) a).getLsbD (j - o) else (readV (src s) d).getLsbD j) ∧
    (sourcesFull (.vunpack d a q t) s → ∃ x, exec (.vunpack d a q t) s = .next (issueV s d 3 x 0) ∧
      ∀ j, j < 1024 → x.getLsbD j = (decide (j < w) && (readV (src s) a).getLsbD (o + j)))) ∧
  (∀ (d a : RegNum) (f : ElemFmt) (t : Bool) (p : PredNum) (s : State), sourcesFull (.vqnt d a f t p) s →
    let c := src s
    let r := quantBlock f (frmMode c) c.seed ((List.range 32).map fun i =>
      readFp32 (if laneOn c p i then lane32 (readV c a) i else 0))
    exec (.vqnt d a f t p) s = .next (issueV s d 6 (quantReg f r.1 r.2.1) r.2.2)) ∧
  ∀ (d a : RegNum) (t : Bool) (p : PredNum) (s : State), sourcesFull (.vred d a .add t p) s →
    let c := src s
    let xs := presentLanes c a p
    exec (.vred d a .add t p) s = .next (issueG s d 6
      ((BitVec.ofInt 32 ((xs.map BitVec.toInt).foldr (fun x y => x + y) 0)).signExtend 64)) ∧
    exec (.vred d a .min t p) s = .next (issueG s d 6
      (BitVec.ofInt 64 ((xs.map BitVec.toInt).foldr min 0x7FFFFFFF))) ∧
    exec (.vred d a .max t p) s = .next (issueG s d 6
      (BitVec.ofInt 64 ((xs.map BitVec.toInt).foldr max (-0x80000000)))) ∧
    ∀ o, o = .fadd ∨ o = .fmin ∨ o = .fmax → ∃ (x : Word) (fl : Flags), exec (.vred d a o t p) s =
        .next (issueFixed s .g (phys c .g d.toNat) 6 (x.setWidth 1024) fl) ∧
      (nanWord x = true → x = 0x7FC00000) ∧ ((∃ w ∈ xs, snanWord w = true) → fl.getLsbD 4 = true) ∧
      (xs = [] → x = (if o = .fadd then 0 else 0x7FC00000) ∧ fl = 0) ∧
      (∀ w, xs = [w] → nanWord w = false → x = w ∧ fl = 0)

/-- R121, R122, R256, R258: the exact sum, product, quotient and square root that rounding starts from. A value is a
multiple of a power of two below both operands; a quotient and a root are cut to whole units, with the tail for what
is cut. R123: an exact magnitude n · 2^e in units of 2^(e + k), rounded: RNE to the nearest with ties to even, RTZ
down, RUP and RDN by the sign, RSH to one of the two neighbours; a value that is a whole number of units stays. And
FP32 results beyond the largest finite number overflow as the mode says, with OF and NX. R122, R256, R258, R264: NaNs,
infinities and zeros: a NaN operand gives the canonical NaN, with NV where one signals; the invalid operations give it
with NV; a finite number other than zero over zero is an infinity with DZ; and VEXP2 is exact at whole numbers, and
VLOG2, VRCP and VRSQRT at powers of two, VRSQRT at the even ones. -/
def Obligations.FloatingPointArithmetic : Prop :=
  (∀ (x y : Exact), x.tail = false → y.tail = false →
     (∀ (z : Bool) (e : Int), e ≤ x.exp → e ≤ y.exp →
       scaledInt (addExact x y z) e = scaledInt x e + scaledInt y e) ∧
     (∀ d e : Int, d ≤ x.exp → e ≤ y.exp → scaledInt (mulExact x y) (d + e) = scaledInt x d * scaledInt y e) ∧
     (y.num ≠ 0 → let r := divExact x y
       ∃ n : Nat, r.exp = x.exp - y.exp - n ∧ r.num * y.num ≤ x.num * 2 ^ n ∧ x.num * 2 ^ n < (r.num + 1) * y.num ∧
         (r.tail = true ↔ r.num * y.num ≠ x.num * 2 ^ n) ∧ (r.neg = true ↔ x.neg ≠ y.neg)) ∧
     (let r := sqrtExact x
       ∃ n : Nat, x.exp - 2 * r.exp = n ∧ r.num ^ 2 ≤ x.num * 2 ^ n ∧ x.num * 2 ^ n < (r.num + 1) ^ 2 ∧
         (r.tail = true ↔ r.num ^ 2 ≠ x.num * 2 ^ n))) ∧
  ((∀ (m : Mode) (seed : Dword) (neg : Bool) (n k : Nat) (e : Int),
     let r := roundMag m seed ⟨neg, n, e, false⟩ (e + k)
     (n % 2 ^ k = 0 → r = n / 2 ^ k) ∧
     (n % 2 ^ k ≠ 0 →
       (m = .rne → 2 * (n % 2 ^ k) < 2 ^ k ∧ r = n / 2 ^ k ∨ 2 ^ k < 2 * (n % 2 ^ k) ∧ r = n / 2 ^ k + 1 ∨
         2 ^ k = 2 * (n % 2 ^ k) ∧ r % 2 = 0 ∧ (r = n / 2 ^ k ∨ r = n / 2 ^ k + 1)) ∧
       (m = .rtz → r = n / 2 ^ k) ∧
       (m = .rup → r = if neg then n / 2 ^ k else n / 2 ^ k + 1) ∧
       (m = .rdn → r = if neg then n / 2 ^ k + 1 else n / 2 ^ k) ∧
       (m = .rsh → r = n / 2 ^ k ∨ r = n / 2 ^ k + 1))) ∧
   ∀ (m : Mode) (seed : Dword) (x : Exact), x.num ≠ 0 → 128 ≤ topExact x →
     roundFp32 m seed x =
       (match m, x.neg with
         | .rne, true | .rsh, true | .rdn, true => 0xFF800000
         | .rne, false | .rsh, false | .rup, false => 0x7F800000
         | .rtz, true | .rup, true => 0xFF7FFFFF
         | .rtz, false | .rdn, false => 0x7F7FFFFF, flagOF ||| flagNX)) ∧
  ((∀ (m : Mode) (k : Dword) (a b d : Word) (np nd : Bool), nanWord a = true ∨ nanWord b = true →
     let r : FpRes := (0x7FC00000, if snanWord a || snanWord b then flagNV else 0)
     fpAdd m k a b = r ∧ fpSub m k a b = r ∧ fpMul m k a b = r ∧ fpDiv m k a b = r ∧
       (snanWord d = false → fpFma m k np nd a b d = r)) ∧
   (∀ (m : Mode) (k : Dword) (a : Word), nanWord a = true →
     ∀ r ∈ [fpSqrt m k a, fpAbs a, fpExp2 a, fpLog2 a, fpRcp a, fpRsqrt a, fpSinpi a, fpTanh a],
       r = (0x7FC00000, if snanWord a then flagNV else 0)) ∧
   (∀ (m : Mode) (k : Dword) (n p : Bool) (a d : Word), fp32Key a = 0 →
     (n ≠ p → fpAdd m k (infFp32 n) (infFp32 p) = invalidRes) ∧ (n = p → fpSub m k (infFp32 n) (infFp32 p) = invalidRes) ∧
       fpMul m k (infFp32 n) a = invalidRes ∧ fpMul m k a (infFp32 n) = invalidRes ∧
       fpFma m k p p (infFp32 n) a d = invalidRes ∧ fpFma m k p p a (infFp32 n) d = invalidRes ∧
       fpDiv m k (infFp32 n) (infFp32 p) = invalidRes ∧ fpDiv m k a a = invalidRes ∧
       (∀ b, nanWord b = false → b.toNat % 2 ^ 31 < 0x7F800000 → fp32Key b ≠ 0 →
         fpDiv m k b a = (infFp32 (b.getLsbD 31 != a.getLsbD 31), flagDZ))) ∧
   (∀ (m : Mode) (k : Dword) (a : Word), nanWord a = false → fp32Key a < 0 →
     fpSqrt m k a = invalidRes ∧ fpLog2 a = invalidRes ∧ fpRsqrt a = invalidRes) ∧
   (∀ n : Int, -126 ≤ n → n ≤ 127 →
     fpExp2 (roundFp32 .rne 0 (exactInt n)).1 = (powerWord n, 0) ∧
         fpLog2 (powerWord n) = (roundFp32 .rne 0 (exactInt n)) ∧
     (n ≤ 126 → fpRcp (powerWord n) = (powerWord (-n), 0)) ∧
     (2 * n ≤ 126 → -126 ≤ 2 * n → fpRsqrt (powerWord (2 * n)) = (powerWord (-n), 0))))

/-! ## Events of a core -/

/-- R196, R202: at a write of results, the results of a kind that are due leave, with their flags; each is written where
its word owns the register; and no other register changes. A core that stands still, for its stope or for itself, writes
none. R203: where one core of a stope holds a freeze on an empty register for longer than its limit of 1,024 ns units,
that core traps FREEZE_TIMEOUT with the register; where none has, nothing happens.
The model's choices in log 8 stand behind it. -/
def Obligations.DueResultsAndFreezes : Prop :=
  (∀ (core : CoreId) (s : State) (fixed : Bool),
     let k := coreNum core
     let c := coreAt s.dev k
     let i : Instr := if fixed then .resultWrite core else .landingWrite core
     let gone := fun (f : Flight) => f.fixed == fixed && due f
     (standsStill s.dev k = true → exec i s = .next s) ∧
     (standsStill s.dev k = false → ∃ t, exec i s = .next t ∧ t = setDev s (putCore s.dev k (coreAt t.dev k)) ∧
       (coreAt t.dev k).flights = c.flights.filter (fun f => !gone f) ∧
       (∀ f ∈ c.flights, gone f = true → owns c f = true → f.num < 64 →
         (∀ e ∈ c.flights, gone e = true → owns c e = true → e ≠ f → e.file ≠ f.file ∨ e.num ≠ f.num) →
         regValue (coreAt t.dev k) f.file f.num = BitVec.ofNat 1024 (f.data.toNat % 2 ^ regWidth f.file) ∧
         isEmpty (coreAt t.dev k) f.file f.num = false) ∧
       (∀ f n, n < 64 → (∀ e ∈ c.flights, gone e = true → owns c e = true → e.num < 64 ∧ (e.file ≠ f ∨ e.num ≠ n)) →
         regValue (coreAt t.dev k) f n = regValue c f n) ∧
       ∀ j, (coreAt t.dev k).fflags.getLsbD j = true ↔
         c.fflags.getLsbD j = true ∨ ∃ f ∈ c.flights, gone f = true ∧ f.flags.getLsbD j = true)) ∧
  (∀ (st : BitVec 6) (s : State),
     ((∀ q, q < 4 → freezeOver s.dev.now (coreAt s.dev (4 * st.toNat + q)) = false) →
       exec (.freezeTimeout st) s = .next s) ∧
     ∀ (q n since : Nat) (f : RegFile), q < 4 → (coreAt s.dev (4 * st.toNat + q)).bubble = false →
       let k := 4 * st.toNat + q
       let c := coreAt s.dev k
       (∀ j, j < 4 → j ≠ q → (coreAt s.dev (4 * st.toNat + j)).stall = none) →
       c.stall = some ⟨.freeze, some (f, n), since⟩ →
       isEmpty c f n = true → c.limit ≠ 0 → c.limit.toNat * 1024 < s.dev.now - since → issuing s.dev k = true →
       exec (.freezeTimeout st) s =
         .next (setDev s (takeTrap s.dev k causeFreezeTimeout (BitVec.ofNat 64 (regCode f n)) c.pc)))

/-- R150, R151: a timing replay of a clause has no effect of its own: it counts in the stope's two counters and the
core's, and the stope stands still; the fourth in a row is logged and starts the count again, and below 700 mV the stope
waits for 20 mV more on MX and VX, whose arrival lets it go on. R147, R205: a DEADLINE_RISK interrupt that waits enters
the handler of a task that enables it, outside a handler, with its level value; without a handler it is dropped; and a
task that does not enable it runs on.
The model's choices in log 44 stand behind it. -/
def Obligations.ReplaysAndDeadlineRisk : Prop :=
  (∀ (core : CoreId) (s : State), issuing s.dev (coreNum core) = true →
     let k := coreNum core
     let c := coreAt s.dev k
     let x := stopeAt s.dev (stopeOf k)
     (∀ q ∈ x.arrayQ, q.started = false) → lateLanding c = none →
     ∃ t, exec (.timingReplay core) s = .next t ∧ t.dev.mem = s.dev.mem ∧ sameRegisters c (coreAt t.dev k) ∧
       samePosition c (coreAt t.dev k) ∧ t.dev.power = s.dev.power ∧
       (stopeAt t.dev (stopeOf k)).replays = x.replays + 1 ∧ (stopeAt t.dev (stopeOf k)).period = x.period + 1 ∧
       (stopeAt t.dev (stopeOf k)).replay = some (k % 4, s.dev.now) ∧
       (mxMv s.dev.power < 700 → issuing t.dev k = true ∧ replaying t.dev (stopeOf k) = true) ∧
       (c.replays < 3 → (coreAt t.dev k).replays = c.replays + 1) ∧
       (3 ≤ c.replays → (coreAt t.dev k).replays = 0 ∧ (∃ e ∈ t.dev.foreman.logs, e.kind = 0 ∧ e.time = s.dev.now) ∧
         (stopeAt t.dev (stopeOf k)).settling = if mxMv s.dev.power < 700 then some s.dev.now else none)) ∧
  (∀ (s : State) (st since : Nat), (stopeAt s.dev st).settling = some since → mxMv s.dev.power < 700 →
     let d := settleVolts s.dev st
     d.power = { s.dev.power with extraMv := s.dev.power.extraMv + 20 } ∧ (stopeAt d st).settling = none) ∧
  (∀ (core : CoreId) (s : State) (v : Dword),
     let k := coreNum core
     let c := coreAt s.dev k
     issuing s.dev k = true → cycleOver c = true → c.notice = [] → c.risk = some v → clauseReplays s.dev k = false →
     c.pend = none → c.written = [] →
     (c.riskEn = true → dmodeOf s.dev k = false → c.inHandler = false →
       (c.tvec ≠ 0 → packetStart (anchorOf s.dev k) c.tvec = true →
         ∃ t l, exec (.deadlineRiskInterrupt core) s = .next t ∧
           t = setDev s (putCore (withdrawLease s.dev k) k (coreAt t.dev k)) ∧
           (coreAt t.dev k).pc = c.tvec ∧ (coreAt t.dev k).tcause = 32 ∧ (coreAt t.dev k).tinfo = v ∧
           (coreAt t.dev k).risk = none ∧ (coreAt t.dev k).inHandler = true ∧ (coreAt t.dev k).latch = some l ∧
           latched c l c.pc ∧ sameRegisters c (coreAt t.dev k)) ∧
       (c.tvec = 0 → exec (.deadlineRiskInterrupt core) s = .next (setDev s (putCore s.dev k { c with risk := none })))) ∧
     (c.riskEn = false → exec (.deadlineRiskInterrupt core) s = .next s))

/-! ## The array -/

/-- R291, R304, R305, R306: MLEASE with the lease free takes it for 64 words; with it held, or asked for, a request
joins the queue and the clause waits. MREL gives the lease up. MOFS writes an offset register at once. MSTAT reads the
lease, an offset register, or a bank's owner and flags.
The model's choices in log 36, 37 stand behind it. -/
def Obligations.LeaseAndStatusWords : Prop :=
  (∀ s : State, (src s).leaseOk = false → (src s).leaseReq = false →
    let st := stopeOf s.cur
    let x := stopeAt s.dev st
    (x.leaseQ = [] → x.holder = none ∨ x.holder = some (s.cur % 4) →
      ∃ u, exec .mlease s = .next u ∧ (live u).lease = true ∧ (live u).leaseRem = 64 ∧
        stopeAt u.dev st = { x with holder := some (s.cur % 4) } ∧
        live u = { live s with lease := true, leaseRem := 64 } ∧ u.dev.mem = s.dev.mem) ∧
    (s.clause = none → x.leaseQ ≠ [] ∨ (x.holder ≠ none ∧ x.holder ≠ some (s.cur % 4)) →
      ∃ u, exec .mlease s = .next u ∧ (live u).leaseReq = true ∧ (live u).lease = false ∧
        (stopeAt u.dev st).leaseQ = x.leaseQ ++ [s.cur % 4] ∧ (∃ z, (live u).stall = some z ∧ z.kind = .hold))) ∧
  (∀ s : State,
    ((src s).lease = true → ∃ u, exec .mrel s = .next u ∧
      live u = { live s with lease := false, leaseRem := 0, leaseOk := false } ∧
      (stopeAt u.dev (stopeOf s.cur)).holder ≠ some (s.cur % 4) ∧
      (stopeAt u.dev (stopeOf s.cur)).arrayQ = (stopeAt s.dev (stopeOf s.cur)).arrayQ ∧ u.dev.mem = s.dev.mem) ∧
    ((src s).lease = false → exec .mrel s = .next s)) ∧
  (∀ (d : BitVec 3) (a : RegNum) (t : Bool) (s : State), sourcesFull (.mofs d a t) s →
    ownerOf (live s) .o d.toNat ≤ wordId s →
    ∃ u, exec (.mofs d a t) s = .next u ∧ readO (live u) d.toNat = readG (src s) a ∧
      (∀ n, n < 8 → n ≠ d.toNat → readO (live u) n = readO (live s) n) ∧ (live u).g = (live s).g ∧
      (live u).v = (live s).v ∧ (live u).p = (live s).p ∧ (live u).flights = (live s).flights ∧
      u = setLive s (live u)) ∧
  (∀ (d : RegNum) (s : State),
    exec (.mstat d .lease) s = .next (issueG s d 2
      (BitVec.ofNat 64 (if (src s).lease then 128 + (src s).leaseRem.toNat else 0))) ∧
    (∀ r : BitVec 3, sourcesFull (.mstat d (.offset r)) s →
      exec (.mstat d (.offset r)) s = .next (issueG s d 2 (readO (src s) r.toNat))) ∧
    ∀ (b : BitVec 2) (r : Running), (src s).run = some r →
      let st := stopeOf s.cur
      let v := releaseBank s.dev st b.toNat
      bankBusy v st b.toNat r.launch r.task = false → bankPending v st b.toNat r.launch r.task = false →
      let o := (bankAt v st b.toNat).owner
      exec (.mstat d (.bank b)) s = .next (issueG (setDev s v) d 2 (BitVec.ofNat 64
        ((if o = none then 0 else if o = some (r.launch,
            r.task) then 256 else 512) + (bankAt v st b.toNat).flags.toNat))))

/-- R303, R308, R310, R312: the counted words, with the lease and a bank that is the task's or free: MCLR, MMA and MMAW
with their gloss word and operands within their limits, and MDRAIN with its descriptor. Each issues its command; a
product moves sr.gpc on by 4 and its offset registers by their step, and it and a drain advance the race epoch. Without
the lease each traps LEASE_ABSENT.
The model's choices in log 37 stand behind it. -/
def Obligations.CountedArrayWords : Prop :=
  (∀ (k : BitVec 2) (s : State) (r : Running) (x : Launch) (v : Dev),
    (arrayReady s r x k.toNat v → ∃ u, exec (.mclr k) s = .next u ∧ arrayIssued s u v r x k.toNat .clear 0 ∧
      (live u).epoch = (live s).epoch) ∧
    ((src s).lease = false → exec (.mclr k) s = trap s causeLease ((wordAddr s).setWidth 64))) ∧
  (∀ (wide : Bool) (w a : BitVec 5) (x y : BitVec 3) (t : Bool) (s : State) (r : Running) (l : Launch) (v : Dev) (loc : Nat)
      (p : Place),
    let i : Instr := if wide then .mmaw w a x y t else .mma w a x y t
    let gl : Word := BitVec.ofNat 32 (readN s.dev.mem loc 4)
    let g := fun (q : BitVec 5) (j : Nat) => readG (src s) (BitVec.ofNat 6 (2 * q.toNat + j))
    let uw : BitVec 24 := (readO (src s) x.toNat).setWidth 24
    let ua : BitVec 24 := (readO (src s) y.toNat).setWidth 24
    sourcesFull i s → arrayReady s r l (glBank gl) v → (src s).gpc.toNat % 4 = 0 →
    xlate s.dev l (stopeOf s.cur) .fetch .read ((src s).gpc.setWidth 64) = .place p → locOf p = some loc →
    byteBlocks (srcDev s) (wordId s) false loc = false → diesSound s (diesOf (stopeOf s.cur) p) →
    glossBad gl = false → (wide = true → glSynth gl ≠ 0) →
    productFault v l.ctx (stopeOf s.cur) (productOf (g w 0) (g w 1) (g a 0) (g a 1) uw ua gl wide) = none →
    3 ≤ boardFree v (stopeOf s.cur) → ownerOf (live s) .o x.toNat ≤ wordId s → ownerOf (live s) .o y.toNat ≤ wordId s →
    ∃ u, exec i s = .next u ∧
      arrayIssued s u v r l (glBank gl) (.mma (g w 0) (g w 1) (g a 0) (g a 1) uw ua gl wide) 3 ∧
      (live u).gpc = (live s).gpc + 4 ∧ (live u).epoch = nextEpoch (live s).epoch ∧
      readO (live u) x.toNat = stepOffset (readO (src s) x.toNat) ∧
      readO (live u) y.toNat = stepOffset (readO (src s) y.toNat) ∧
      ∀ n, n < 8 → n ≠ x.toNat → n ≠ y.toNat → readO (live u) n = readO (live s) n) ∧
  (∀ (q : BitVec 5) (k : BitVec 2) (m : Rnd) (f : DrainFmt) (t : Bool) (s : State) (r : Running) (x : Launch) (v : Dev),
    let d0 := readG (src s) (BitVec.ofNat 6 (2 * q.toNat))
    let d1 := readG (src s) (BitVec.ofNat 6 (2 * q.toNat + 1))
    sourcesFull (.mdrain q k m f t) s → arrayReady s r x k.toNat v → drainFault v x.ctx (stopeOf s.cur) d0 d1 f = none →
    1 ≤ boardFree v (stopeOf s.cur) →
    ∃ u, exec (.mdrain q k m f t) s = .next u ∧
      arrayIssued s u v r x k.toNat (.drain d0 d1 (rndMode (src s) m) (src s).seed f) 1 ∧
      (live u).epoch = nextEpoch (live s).epoch ∧ (live u).gpc = (live s).gpc) ∧
  (∀ (w a : BitVec 5) (x y : BitVec 3) (k : BitVec 2) (m : Rnd) (f : DrainFmt) (t : Bool) (s : State), (src s).lease = false →
    (sourcesFull (.mma w a x y t) s → exec (.mma w a x y t) s = trap s causeLease ((wordAddr s).setWidth 64)) ∧
    (sourcesFull (.mmaw w a x y t) s → exec (.mmaw w a x y t) s = trap s causeLease ((wordAddr s).setWidth 64)) ∧
    (sourcesFull (.mdrain w k m f t) s → exec (.mdrain w k m f t) s = trap s causeLease ((wordAddr s).setWidth 64)))

/-- R289 to R291, R298, R307, R308, R312, R313: a free lease goes to the request placed first. The oldest command of a
stope's array starts when its scoreboard entries wait no longer, with its steps or rows checked; at its completion it
leaves the queue, and a clear has emptied its bank, a product has added its steps to it, and a drain has written its
elements; an element that cannot be corrected (R300) instead ends the launch that owns the bank, with its task, and is
logged: that it is met at the end of a command, which is dropped with the bank unchanged, is the model's reading of log
63. A bank whose owner has ended is free again, and a saved bank is put back into a free one.
The model's choices in log 36, 37, 39, 63 stand behind it. -/
def Obligations.ArrayEvents : Prop :=
  ∀ (stope : BitVec 6) (s : State),
    let st := stope.toNat
    let x := stopeAt s.dev st
    (∀ q r, q < 4 → x.holder = none → x.leaseQ = q :: r → (coreAt s.dev (4 * st + q)).leaseBack = false →
      let c := coreAt s.dev (4 * st + q)
      let c' := { c with lease := true, leaseRem := c.leaseNext, leaseNext := 64, leaseReq := false, leaseOk := true }
      ∃ t, exec (.leaseGrant stope) s = .next t ∧ stopeAt t.dev st = { x with holder := some q, leaseQ := r } ∧
        coreAt t.dev (4 * st + q) = c') ∧
    (∀ c r, x.arrayQ = c :: r → stopeFrozen s.dev st = false →
      (c.started = false → boardClear s.dev c.id c.issue.core c.issue.word = true →
        (∀ e ∈ r, e.id ≠ c.id) →
        (c.op = .clear ∨ (∃ w0 w1 a0 a1 uw ua g wide v, c.op = .mma w0 w1 a0 a1 uw ua g wide ∧
            let q := productOf w0 w1 a0 a1 uw ua g wide
            feedSteps s.dev st c.ctx c.issue q 0 (opSteps q.w) = (none, v)) ∨
          (∃ d0 d1 m k f v, c.op = .drain d0 d1 m k f ∧
            drainRows s.dev st c.ctx c.issue (drainDesc d0 d1) f 0 (drainDesc d0 d1).rows = (none, v))) →
        ∃ t, exec (.matrixCommandStart stope) s = .next t ∧
          (stopeAt t.dev st).arrayQ = { c with started := true } :: r ∧ (stopeAt t.dev st).banks = x.banks ∧
          t.dev.mem = s.dev.mem) ∧
      (∀ parity : List ParityError, c.started = true → (∀ e ∈ r, e.id ≠ c.id) → (∀ e ∈ parity, e.times < 4) →
        let done := fun (t : State) => exec (.matrixCommandComplete stope parity none) s = .next t ∧
          (stopeAt t.dev st).arrayQ = r ∧ ∀ e ∈ (stopeAt t.dev st).board, e.cmd ≠ c.id
        (c.op = .clear → ∃ t, done t ∧ t.dev.mem = s.dev.mem ∧
          bankAt t.dev st c.bank = { bankAt s.dev st c.bank with flags := 0, cells := [] }) ∧
        (∀ w0 w1 a0 a1 uw ua g wide, c.op = .mma w0 w1 a0 a1 uw ua g wide →
          let q := productOf w0 w1 a0 a1 uw ua g wide
          let b := bankAt s.dev st c.bank
          ∃ t, done t ∧ t.dev.mem = s.dev.mem ∧
            bankAt t.dev st c.bank = { b with cells := promoteSteps s.dev st q (opSteps q.w) b.cells }) ∧
        (∀ d0 d1 m k f, c.op = .drain d0 d1 m k f →
          let q := drainDesc d0 d1
          let r := drainCells st q f m k (grid q.rows q.cols) (bankAt s.dev st c.bank) s.dev.mem
          wakesNone (putBank { s.dev with mem := r.2 } st c.bank r.1) →
          ∃ t, done t ∧ t.dev.mem = r.2 ∧ bankAt t.dev st c.bank = r.1)) ∧
      ∀ (el : BitVec 14) (l i : Nat) (y : Launch), c.started = true → (bankAt s.dev st c.bank).owner = some (l, i) →
        launchAt s.dev l = some y → y.stop = none →
        ∃ t e z p, exec (.matrixCommandComplete stope [] (some el)) s = .next t ∧ t.dev.mem = s.dev.mem ∧
          bankAt t.dev st c.bank = bankAt s.dev st c.bank ∧ t.dev.foreman.logs = s.dev.foreman.logs ++ [e] ∧
          e.kind = 4 ∧ launchAt t.dev l = some z ∧ z.stop = some p ∧ p.task = some i ∧ p.cause = causeAccess ∧
          p.status = statusFaulted) ∧
    ∀ b : BitVec 2,
      (ownerGone s.dev st b.toNat = true → (∀ r ∈ x.restores, r.bank ≠ b.toNat) →
        ∃ t, exec (.bankRelease stope b) s = .next t ∧
          bankAt t.dev st b.toNat = { bankAt s.dev st b.toNat with owner := none, released := none }) ∧
      ∀ r, (bankAt s.dev st b.toNat).owner = none → x.restores.find? (fun r => r.bank == b.toNat) = some r →
        ∃ t, exec (.bankRestore stope b) s = .next t ∧
          bankAt t.dev st b.toNat = { r.saved with owner := some (r.launch, r.task), released := none } ∧
          r ∉ (stopeAt t.dev st).restores

/-! ## Copies -/

/-- R319, R333 to R336, R339, R340, R342: a copy word whose descriptor keeps its limits, with room in its channel and
the scoreboards, issues its command: it joins the core's check window and waits for it, its token register is empty
until it is complete, and the race epoch advances. STAGE raises the stope's stage, when the core has no store that
waits. -/
def Obligations.CopyWords : Prop :=
  (∀ row ∈ copyRows, ∀ (t : RegNum) (q : BitVec 4) (n : RegNum) (a b : Bool) (s : State) (x : Launch) (r : Running)
      (p : Place),
    let i := row.1 t q n a b
    let st := stopeOf s.cur
    let ds := (List.range 4).map fun j => readG (src s) (BitVec.ofNat 6 (4 * q.toNat + j))
    sourcesFull i s → launchOf s.dev s.cur = some x → (src s).run = some r → copyFault row.2 ds = none →
    (n ≠ 0 → reaches s ⟨.coreAtomic, .atomic, readG (src s) n, 8, true, false⟩ x p) →
    badOffset s.dev x.ctx st row.2 ds = none → channelFull s.dev st (dwField ds 3 62 2) = false →
    entriesFit s.dev (copyEntries s.dev x st row.2 ds) = true →
    ∃ u c, exec i s = .next u ∧ mfind u.dev.copies s.dev.names = some c ∧ c.desc = ds ∧ c.kind = row.2 ∧ c.stope = st ∧
      c.chan = dwField ds 3 62 2 ∧ c.issue.launch = r.launch ∧ c.issue.task = r.task ∧ c.next = 0 ∧ c.queued = false ∧
      c.token = (if t = 0 then none else some (phys (src s) .g t.toNat)) ∧ c.place = (if n = 0 then none else locOf p) ∧
      (live u).window = (live s).window ++ [⟨wordId s, s.dev.issues, .copy s.dev.names⟩] ∧
      (live u).epoch = nextEpoch (live s).epoch ∧
      (t ≠ 0 → ownerOf (live s) .g (phys (src s) .g t.toNat) ≤ wordId s →
        isEmpty (live u) .g (phys (src s) .g t.toNat) = true) ∧
      (∀ m, m ≠ s.dev.names → mfind u.dev.copies m = mfind s.dev.copies m) ∧
      (live u).g = (live s).g ∧ (live u).v = (live s).v ∧ u.dev.mem = s.dev.mem) ∧
  (∀ (a : RegNum) (t : Bool) (s : State), sourcesFull (.stage a t) s →
    let n := (readG (src s) a).toNat
    (n = 0 → exec (.stage a t) s = .next s) ∧
    (255 < n → exec (.stage a t) s = trap s causeAccess (readG (src s) a)) ∧
    (∀ (r : Running) (x : Launch), 1 ≤ n → n ≤ 255 → quiet s → (src s).run = some r → launchAt s.dev r.launch = some x →
      x.record.schedule = 0 →
      ∃ u, exec (.stage a t) s = .next u ∧
        (stopeAt u.dev (stopeOf s.cur)).stage = max (stopeAt s.dev (stopeOf s.cur)).stage n ∧
        live u = live s ∧ u.dev.mem = s.dev.mem))

/-- R320, R322, R328, R329: a sector of a copy command, whose places are found and whose granules race with nothing,
writes the bytes that it read: CPY each byte of its stream, other kinds what their conversion gives; the next sector is
due. With its last sector written a command completes: it leaves its channel, its counter takes the bytes copied and its
token them and the flags. And the entry of a static schedule that is due joins its channel's queue.
The model's choices in log 38, 39, 40 stand behind it. -/
def Obligations.CopyEvents : Prop :=
  (∀ (stope : BitVec 6) (chan : BitVec 2) (s : State) (n : Nat) (q : CopyCmd) (x : Launch) (sc : Sector) (ps ts : List Place)
      (d d' e e' : Dev),
    let st := stope.toNat
    copyAtWork s.dev st chan.toNat n q x → q.stope = st → sectorOf s.dev q = .ok sc →
    placed s.dev x st sc.srcSpace .read sc.srcs ps → placed s.dev x st sc.dstSpace .write sc.dsts ts →
    ownPending s.dev q.issue ps = false → diesTouched st (ps ++ ts) &&& s.dev.lost = 0 →
    passGranules q.ctx q.issue sc.srcSpace false (fun d _ (_ : Unit) => d) (byGranule ((sc.srcs.zip ps).map fun e => (e.1, e.2, ())))
      (touchDies s.dev q.ctx (diesTouched st (ps ++ ts))) = (.ok d, d') →
    let data := sectorData q sc (ps.map (copyRead d))
    passGranules q.ctx q.issue sc.dstSpace true copyWrite (byGranule ((data.1.zip ts).map fun e => (e.1.1, e.2, e.1.2)))
      { d with names := d.names + 1 } = (.ok e, e') →
    wakesNone e →
    ∃ t, exec (.copySector stope chan false) s = .next t ∧ t.dev.mem = e.mem ∧
      (∃ c, mfind t.dev.copies n = some c ∧ c.next = q.next + 1 ∧ c.desc = q.desc ∧ c.flags = q.flags ||| data.2.2) ∧
      ((ts.filterMap locOf).Nodup → ts.length = data.1.length → ∀ loc, readByte t.dev.mem loc =
        match ((data.1.zip ts).find? fun e => locOf e.2 == some loc) with
        | some e => e.1.2
        | none => readByte s.dev.mem loc) ∧
      (q.kind = .cpy → data.1 = sc.dsts.zip (ps.map (copyRead d)))) ∧
  (∀ (stope : BitVec 6) (chan : BitVec 2) (s : State) (n : Nat) (q : CopyCmd),
    let st := stope.toNat
    headCopy s.dev st chan.toNat = some (n, q) → q.stope = st → q.chan = chan.toNat →
    copySectors q.kind q.desc ≤ q.next → q.entry = none → q.token = none →
    (q.place = none → ∃ t, exec (.copyCompletion stope chan) s = .next t ∧ t.dev.mem = s.dev.mem ∧
      mfind t.dev.copies n = none ∧
      mget [] (stopeAt t.dev st).chans q.chan = (mget [] (stopeAt s.dev st).chans q.chan).filter (· != n)) ∧
    (∀ loc arms, q.place = some loc →
      let v := counterValue s.dev loc + BitVec.ofNat 64 (copyBytes q.kind q.desc)
      let m := engineMark q.issue .package st
      (armOf s.dev loc = none ∧ arms = s.dev.arms) ∨ (∃ a, armOf s.dev loc = some a ∧ a.overrun = false ∧
        (a.limit = 0 ∨ (counterValue s.dev loc).toNat + copyBytes q.kind q.desc ≤ a.limit.toNat) ∧
        arms = minsert s.dev.arms loc { a with log := addContrib a.log m v }) →
      copyBytes q.kind q.desc < 2 ^ 64 → byteBlocks s.dev q.issue.word true loc = false →
      diesAt st [loc] &&& s.dev.lost = 0 →
      (∃ v, engineRace (touchDies s.dev q.ctx (diesAt st [loc])) q.ctx q.issue true true [granuleOf loc] = .ok v) →
      wakesNone { s.dev with mem := writeN s.dev.mem loc 8 v.toNat, arms := arms } →
      ∃ t, exec (.copyCompletion stope chan) s = .next t ∧ mfind t.dev.copies n = none ∧ t.dev.arms = arms ∧
        t.dev.mem = writeN s.dev.mem loc 8 v.toNat)) ∧
  (∀ (stope : BitVec 6) (chan : BitVec 2) (s : State) (n tok : Nat) (q : CopyCmd) (x : Launch) (tk : Task) (c : Core)
      (core : Nat) (f : Flight),
    headCopy s.dev stope.toNat chan.toNat = some (n, q) → copySectors q.kind q.desc ≤ q.next → q.entry = none →
    q.token = some tok → q.place = none → launchAt s.dev q.issue.launch = some x → mfind x.tasks q.issue.task = some tk →
    (tk.state ≠ .snapshot ∨ tk.snap = none) → s.dev.cores.find? (fun e => e.2.run == some ⟨q.issue.launch,
        q.issue.task⟩) = some (core, c) →
    c = coreAt s.dev core → c.flights = [f] → awaits c q.issue.word f → f.file = .g → f.num < 64 → f.remain = 63 →
    f.src = .none → preemptDue s.dev.now c = false → replaying s.dev (stopeOf core) = false →
    ∃ t, exec (.copyCompletion stope chan) s = .next t ∧ isEmpty (coreAt t.dev core) .g f.num = false ∧
      physReadG (coreAt t.dev core) f.num = BitVec.ofNat 64 (q.flags.toNat * 2 ^ 48 + copyBytes q.kind q.desc)) ∧
  ∀ (l i : Nat) (s : State) (x : Launch) (e : SchedEntry) (k : CopyKind) (place : Option Nat),
    launchAt s.dev l = some x → x.state = .running → x.phase = .replay → x.stop = none →
    replayNext s.dev x = .ok (some i) → schedEntry s.dev x i = .ok e → kindOf e.kind = some k → e.res = 0 →
    (i ≠ 0 → ∃ p, schedEntry s.dev x (i - 1) = .ok p ∧ p.step ≤ e.step) → e.stope < gangSize x.record →
    let st := x.gang.getD e.stope 0
    copyFault k e.desc = none → entryCounter s.dev x st e.counter = .ok place →
    badOffset s.dev x.ctx st k e.desc = none → channelFull s.dev st e.chan = false →
    entriesFit s.dev (copyEntries s.dev x st k e.desc) = true →
    ∃ t c y, exec (.scheduleEntryStart l i) s = .next t ∧ mfind t.dev.copies s.dev.names = some c ∧ c.desc = e.desc ∧
      c.kind = k ∧ c.stope = st ∧ c.chan = e.chan ∧ c.place = place ∧ c.entry = some i ∧ c.token = none ∧
      mget [] (stopeAt t.dev st).chans e.chan = mget [] (stopeAt s.dev st).chans e.chan ++ [s.dev.names] ∧
      launchAt t.dev l = some y ∧ mfind y.entries i = some .released ∧ t.dev.mem = s.dev.mem

/-! ## The fabric -/

/-- R364 to R371: RLD, RST, RAT, RATCAS and RRED issue an operation: with the function, the address, the size, the data,
the counter, the scope and the order of the word and its control word; the result of RLD goes to a v register and those
of RAT and RATCAS to a g register. -/
def Obligations.FabricOperationWords : Prop :=
  (∀ row ∈ fabRows, ∀ (d a b : RegNum) (t u : Bool) (s : State) (x : Launch) (k : Running) (p : Place) (n : Option Nat),
    let i := row.word d a b t u
    let cw := readG (src s) b
    sourcesFull i s → (src s).run = some k → fabReady s row.fn (readG (src s) a) cw x p n →
    ∃ v r, exec i s = .next v ∧ fabIssued s v x k r ∧ carries s r x row.fn cw p (readG (src s) d).toNat n ∧
      r.result = if row.result then some (.g, phys (src s) .g d.toNat) else none) ∧
  (∀ (d a b : RegNum) (t u : Bool) (s : State) (x : Launch) (k : Running) (p : Place) (n : Option Nat),
    let cw := readG (src s) b
    (src s).run = some k →
    (sourcesFull (.rld d a b t u) s → fabReady s .load (readG (src s) a) cw x p n →
      ∃ v r, exec (.rld d a b t u) s = .next v ∧ fabIssued s v x k r ∧ carries s r x .load cw p 0 n ∧
        r.result = some (.v, phys (src s) .v d.toNat)) ∧
    (sourcesFull (.rst d a b t u) s → fabReady s .store (readG (src s) a) cw x p n →
      ∃ v r, exec (.rst d a b t u) s = .next v ∧ fabIssued s v x k r ∧
        carries s r x .store cw p (readV (src s) d).toNat n ∧ r.result = none)) ∧
  ∀ (d : BitVec 5) (a b : RegNum) (t u : Bool) (s : State) (x : Launch) (k : Running) (p : Place) (n : Option Nat),
    let cw := readG (src s) b
    let e : RegNum := BitVec.ofNat 6 (2 * d.toNat)
    sourcesFull (.ratCas d a b t u) s → (src s).run = some k → fabReady s .cas (readG (src s) a) cw x p n →
    ∃ v r, exec (.ratCas d a b t u) s = .next v ∧ fabIssued s v x k r ∧
      carries s r x .cas cw p (readG (src s) e).toNat n ∧ r.op.data2 = readG (src s) (e + 1) ∧
      r.result = some (.g, phys (src s) .g e.toNat)

/-- R372, R373, R374: TRIG issues an add to a counter, TICKET a request to a dispenser with its holder counter, FLAGADD
an add to a flag of one gang stope, and FLAGSET the raise of the flags of the gang stopes of a mask. R375: BARG arrives
at a generation of a switch group and suspends the task in State 2 at the clause that follows; the n-th arrival, and no
other, goes up; a size that differs from the generation's traps ACCESS_TYPE.
A group above 65,535, or a size of 0 or above the launch's tasks, traps ACCESS_TYPE. R360, R376, R377: POST reads its
descriptor as an engine access of the task, and binds a copy of it to its trigger counter; one whose threshold and gate
are reached is due at once. Two points are the model's readings: the position that BARG saves is that after a back edge
of its clause (log 65), and FLAGSET ignores the mask bits at or above the gang's size (log 61). -/
def Obligations.FabricCounterAndPostWords : Prop :=
  ((∀ (a b : RegNum) (t u : Bool) (s : State) (x : Launch) (k : Running) (p : Place),
     sourcesFull (.trig a b t u) s → (src s).run = some k →
     reaches s ⟨.trig, .atomic, readG (src s) a, 8, false, false⟩ x p → fabHeld s true (isRemote p) = false →
     diesSound s (diesOf (stopeOf s.cur) p) →
     ∃ v r, exec (.trig a b t u) s = .next v ∧ fabIssued s v x k r ∧ r.op.fn = .trig ∧ r.op.size = 8 ∧
       r.op.addr = destAddr p ∧ r.op.data = (readG (src s) b).setWidth 1024 ∧ r.loc = locOf p ∧ r.order = .release ∧
       r.scope = (if isRemote p then .system else .package) ∧ r.result = none ∧ r.counter = none) ∧
   (∀ (d a b : RegNum) (t u : Bool) (s : State) (x : Launch) (k : Running) (p h : Place),
     sourcesFull (.ticket d a b t u) s → (src s).run = some k →
     reaches s ⟨.fabric, .atomic, readG (src s) a, 1, false, false⟩ x p → ticketBad p = false →
     (d ≠ 0 → dmodeOf s.dev s.cur = false) →
     reaches s ⟨.coreAtomic, .atomic, readG (src s) b, 8, true, false⟩ x h → fabHeld s false false = false →
     diesSound s (diesOf (stopeOf s.cur) p ||| diesOf (stopeOf s.cur) h) →
     ∃ v r, exec (.ticket d a b t u) s = .next v ∧ fabIssued s v x k r ∧ r.op.fn = .ticket ∧ r.op.addr = destAddr p ∧
       r.op.data2 = readG (src s) b ∧ r.holder = locOf h ∧
       r.result = if d = 0 then none else some (.g, phys (src s) .g d.toNat)) ∧
   (∀ (m a b : RegNum) (t u : Bool) (s : State) (x : Launch) (k : Running),
     let w := readG (src s) a
     let off : Nat := w.toNat % 2 ^ 24
     launchOf s.dev s.cur = some x → (src s).run = some k → w.toNat / 2 ^ 24 % 2 ^ 34 = 0 → off % 8 = 0 → off < 0xC00000 →
     fabHeld s true false = false →
     (∀ st, sourcesFull (.flagadd a b t u) s → x.gang[w.toNat / 2 ^ 58]? = some st →
       rangeGranted s.dev x.ctx st 0xC00000 off 1 = true → diesSound s (diesOf (stopeOf s.cur) (.vault st off)) →
       ∃ v r, exec (.flagadd a b t u) s = .next v ∧ fabIssued s v x k r ∧ r.op.fn = .trig ∧ r.op.size = 8 ∧
         r.op.data = (readG (src s) b).setWidth 1024 ∧ r.loc = some (vaultLoc st off) ∧ r.sets = [] ∧ r.result = none) ∧
     (∀ sts : List Nat, sourcesFull (.flagset m a b t u) s → w.toNat / 2 ^ 58 = 0 →
       sts = ((List.range x.gang.length).filter fun j => (readG (src s) m).getLsbD j).filterMap (fun j => x.gang[j]?) →
       (∀ st ∈ sts, rangeGranted s.dev x.ctx st 0xC00000 off 1 = true) → s.dev.lost = 0 →
       ∃ v r, exec (.flagset m a b t u) s = .next v ∧ fabIssued s v x k r ∧
         r.op.data = (readG (src s) b).setWidth 1024 ∧ r.loc = none ∧ r.sets = sts.map (fun st => vaultLoc st off) ∧
         r.result = none))) ∧
  (∀ (a b' : RegNum) (t u : Bool) (s : State) (x : Launch) (r : Running), sourcesFull (.barg a b' t u) s →
     launchOf s.dev s.cur = some x → (src s).run = some r → (live s).run = some r →
     let g := (readG (src s) a).toNat
     let n := (readG (src s) b').toNat
     (65535 < g → exec (.barg a b' t u) s = trap s causeAccess (readG (src s) a)) ∧
     (g ≤ 65535 → n = 0 ∨ x.record.tasks < n → exec (.barg a b' t u) s = trap s causeAccess (readG (src s) b')) ∧
     (∀ (tk : Task) (b : Barrier), g ≤ 65535 → 1 ≤ n → n ≤ x.record.tasks → mfind x.tasks r.task = some tk →
       mfind x.gBarriers (groupKey g (mget 0 tk.gArrivals g)) = some b → b.size ≠ n →
       exec (.barg a b' t u) s = trap s causeAccess (BitVec.ofNat 64 (2 ^ 63 + g))) ∧
     (∀ (q : Suspending) (tk : Task) (b : Barrier), g ≤ 65535 → 1 ≤ n → n ≤ x.record.tasks → quiet s →
       (live s).leaving = false → mfind x.tasks r.task = some tk →
       let key := groupKey g (mget 0 tk.gArrivals g)
       (mfind x.gBarriers key).getD ⟨n, [], [], []⟩ = b → b.size = n →
       let b := { b with arrived := b.arrived ++ [r.task] }
       let last := b.arrived.length = n
       let flip := (mfind s.dev.groups g).map (·.flip) |>.getD false
       let d := (setLive s { live s with epoch := nextEpoch (live s).epoch }).dev
       let d := modLaunch d r.launch fun y => { y with gBarriers := minsert y.gBarriers key b }
       let d := modTask d r.launch r.task fun t => { t with gArrivals := minsert t.gArrivals g (mget 0 tk.gArrivals g + 1) }
       let e := { d with groups := mmod d.groups g fun q => { q with flip := !q.flip } }
       let d := if last then emit e x.part.toNat (.arrival g flip) else d
       let c := afterClause (setDev s d)
       let d := putCore d s.cur c
       let pc := c.pc
       q.holds d s.cur →
       ∃ w y c, exec (.barg a b' t u) s = .next w ∧ suspendedTo d w.dev s.cur r .waiting pc ∧
         launchAt w.dev r.launch = some y ∧ mfind y.tasks r.task = some c ∧
         mget 0 c.gArrivals g = mget 0 tk.gArrivals g + 1 ∧ mfind y.gBarriers key = some b ∧
         w.dev.sent = s.dev.sent ++ (if last then [.arrival g flip] else []))) ∧
  (∀ (a : RegNum) (t : Bool) (s : State) (x : Launch) (k : Running) (ls : List Nat) (tags : SMap Tag)
       (pt : Place) (trig : Nat) (gate counter : Option Nat),
     let va := readG (src s) a
     let bits := diesAt (stopeOf s.cur) ls
     let v := accessed s x bits tags
     let ds := (List.range 8).map fun j => BitVec.ofNat 64 (fieldAt (ls.map (readByte s.dev.mem)) (8 * j) 8)
     let st := stopeOf s.cur
     let look := fun (c : Dword) (n : Option Nat) => (c = 0 ∧ n = none) ∨
       (c ≠ 0 ∧ ∃ p, postLook v.dev x st .coreAtomic .atomic c 8 = .ok p ∧ n = locOf p)
     sourcesFull (.post a t) s → va.toNat % 64 = 0 → quiet s → fetchable s x va 64 ls →
         readWaits s (granulesOf ls) = false →
     raceFree s x (granulesOf ls) false false true tags → diesSound s bits → (src s).run = some k →
     postInvalid ds = false → postLook v.dev x st .coreAtomic .atomic (postTrigger ds) 8 = .ok pt → locOf pt = some trig →
     look (postGate ds) gate → postTargetBad v.dev x st ds = false →
     (postKind ds = 2 ∨ ds.getD 5 0 = 0 ∨
       rangeReads v.dev x st (ds.getD 5 0) (if postKind ds = 0 then ctlSize (ds.getD 7 0) else 8) = true) →
     look (if ctlNotify (ds.getD 7 0) then 0 else ctlCounter (ds.getD 7 0)) counter →
     postRoom v.dev x.part.toNat trig = true → (postRuled v.dev x st ds = true → dmodeOf s.dev s.cur = false) →
     postWaits v ds = false →
     ∃ w p, exec (.post a t) s = .next w ∧ mfind w.dev.posted s.dev.names = some p ∧ p.desc = ds ∧
       p.addr = va.setWidth 48 ∧ p.trigger = trig ∧ p.gate = gate ∧ p.counter = counter ∧ p.ctx = x.ctx ∧
       p.issue.launch = k.launch ∧ p.issue.task = k.task ∧ (p.due = none ∨ p.due = some (counterValue s.dev trig)) ∧
       (p.due ≠ none ↔ postMet s.dev p = true) ∧ (live w).epoch = nextEpoch (live s).epoch ∧
       sameRegisters (live s) (live w) ∧ w.dev.mem = s.dev.mem)

/-- R351 to R356, R369 to R371: an operation that arrives in sequence is performed at its target: a store writes its
bytes there and a read changes nothing; the sequence goes on, and its reply is kept and sent. A duplicate is answered
from what is kept and performed no second time; a packet that only acknowledges frees what it acknowledges.
The model's choices in log 12 stand behind it. -/
def Obligations.PacketsArrive : Prop :=
  ∀ (pkt : Packet) (s : State) (k : Nat) (c : Conn),
    (∀ op loc, arrives s.dev k c pkt op loc → pkt.seq.toNat = c.expect → arrivalHeld s.dev k pkt op = false →
      (op.fn = .store → wakesNone { s.dev with mem := writeN s.dev.mem loc op.size op.data.toNat } →
        ∃ t y, exec (.operationPacketArrival pkt) s = .next t ∧
          t.dev.mem = writeN s.dev.mem loc op.size op.data.toNat ∧ mfind t.dev.conns k = some y ∧
          y.expect = (c.expect + 1) % 2 ^ 32 ∧ (∃ st, mfind y.cache c.expect = some (st, ⟨0, 0, 0⟩)) ∧
          Sent.reply k c.expect ⟨0, 0, 0⟩ ∈ t.dev.sent) ∧
      (op.fn = .load → ∃ t y, exec (.operationPacketArrival pkt) s = .next t ∧ t.dev.mem = s.dev.mem ∧
        mfind t.dev.conns k = some y ∧ y.expect = (c.expect + 1) % 2 ^ 32 ∧
        Sent.reply k c.expect ⟨0, BitVec.ofNat 1024 (readN s.dev.mem loc op.size), 0⟩ ∈ t.dev.sent)) ∧
    (∀ op e, connOf s.dev (partOf s.dev pkt.context) pkt.context pkt.package.toNat = some k →
        mfind s.dev.conns k = some c →
      pkt.body = .operation op → pkt.seq.toNat ≠ c.expect → seqBelow pkt.seq.toNat c.expect = true →
      mfind c.cache pkt.seq.toNat = some e → seqBelow pkt.seq.toNat pkt.rack.toNat = false →
      arrivalHeld s.dev k pkt op = false →
      ∃ t, exec (.operationPacketArrival pkt) s = .next t ∧ t.dev.mem = s.dev.mem ∧
        t.dev.sent = s.dev.sent ++ [.reply k pkt.seq.toNat e.2] ∧
        (agentAt t.dev (partOf s.dev pkt.context) e.1).duplicates =
          (agentAt s.dev (partOf s.dev pkt.context) e.1).duplicates + 1) ∧
    (connOf s.dev (partOf s.dev pkt.context) pkt.context pkt.package.toNat = some k → mfind s.dev.conns k = some c →
      pkt.body = .ackOnly →
      let y := { c with part := partOf s.dev pkt.context,
                        cache := c.cache.filter fun e => !seqBelow e.1 pkt.rack.toNat }
      ∃ t, exec (.operationPacketArrival pkt) s = .next t ∧ mfind t.dev.conns k = some y ∧ t.dev.mem = s.dev.mem ∧
        t.dev.sent = s.dev.sent)

/-- R352, R353, R355, R367 to R369, R375, R378: a store to a dispenser raises Served, and sets Width unless it is 0; an
operation on memory here is performed and completes: a store with its write, a load and an add with the former value in
the register that waits, the add with its write; one on a connection completes with the reply of its oldest, once an
accepted flit has brought it; a timer sends again what is not
acknowledged, and the eighth in a row takes the connection down, with what is outstanding on it; an acknowledgement
packet says what has been received; a posted operation that is due leaves as an operation of its descriptor, or queues
the launch record that its descriptor names; and the release of a switch group makes the generation's tasks ready.
The model's choices in log 43 stand behind it. -/
def Obligations.FabricEvents : Prop :=
  (∀ (part : BitVec 4) (stack : BitVec 3) (disp : BitVec 11) (v : Dword) (s : State),
    let x := dispenserAt s.dev part.toNat stack.toNat disp.toNat
    x.holders = [] → ∃ t, exec (.dispenserStore part stack disp v) s = .next t ∧ t.dev.mem = s.dev.mem ∧
      let y := dispenserAt t.dev part.toNat stack.toNat disp.toNat
      y.served.toNat = max x.served.toNat (v.toNat / 256) ∧
      y.width.toNat = (if v.toNat % 256 = 0 then x.width.toNat else v.toNat % 256) ∧ y.next = x.next) ∧
  (∀ (n loc : Nat) (s : State) (r : FabRec) (d : Dev), performable s.dev n r → r.dest = .here → r.loc = some loc →
    r.result = none → r.counter = none → fabRace s.dev r = (none, d) → r.op.fn = .store →
    wakesNone { s.dev with mem := writeN s.dev.mem loc r.op.size r.op.data.toNat } →
    ∃ t, exec (.fabricOpCompletion n none) s = .next t ∧ mfind t.dev.fabric n = none ∧
      t.dev.mem = writeN s.dev.mem loc r.op.size r.op.data.toNat) ∧
  (∀ (n loc k : Nat) (s : State) (r : FabRec) (d : Dev) (x : Launch) (tk : Task) (c : Core) (f : Flight),
    performable s.dev n r → r.dest = .here → r.loc = some loc → r.counter = none → fabRace s.dev r = (none, d) →
    r.result = some (f.file, f.num) → launchAt s.dev r.issue.launch = some x → mfind x.tasks r.issue.task = some tk →
    (tk.state ≠ .snapshot ∨ tk.snap = none) →
    s.dev.cores.find? (fun e => e.2.run == some ⟨r.issue.launch, r.issue.task⟩) = some (k, c) → c = coreAt s.dev k →
    c.flights = [f] → awaits c r.issue.word f → f.num < 64 → f.remain = 63 → f.src = .none →
    preemptDue s.dev.now c = false → replaying s.dev (stopeOf k) = false →
    let old := readN s.dev.mem loc r.op.size
    let mem := writeN s.dev.mem loc 8 (old + r.op.data.toNat % 2 ^ 64)
    let done := fun (m : Memory) => ∃ t, exec (.fabricOpCompletion n none) s = .next t ∧ mfind t.dev.fabric n = none ∧
      t.dev.mem = m ∧ isEmpty (coreAt t.dev k) f.file f.num = false ∧
      regValue (coreAt t.dev k) f.file f.num = BitVec.ofNat 1024 (old % 2 ^ regWidth f.file)
    (r.op.fn = .load → r.op.size ≤ 128 → done s.dev.mem) ∧
    (r.op.fn = .add → r.op.size = 8 → armOf s.dev loc = none → wakesNone { s.dev with mem := mem } → done mem)) ∧
  (∀ (n k : Nat) (s : State) (r : FabRec) (c : Conn) (a : FabReply), mfind s.dev.fabric n = some r → r.dest = .conn k →
    r.post = none → r.result = none → r.counter = none → mfind s.dev.conns k = some c → c.unacked.head? = some n →
    a.status = 0 → takePacket s.dev r.part (replyBytes r.op a) a.data.toNat ≠ none →
    ∃ t, exec (.fabricOpCompletion n (some a)) s = .next t ∧ mfind t.dev.fabric n = none ∧ t.dev.mem = s.dev.mem ∧
      ∀ y, mfind t.dev.conns k = some y → n ∉ y.unacked) ∧
  (∀ (k : Nat) (s : State) (c : Conn), mfind s.dev.conns k = some c → c.down = false → c.unacked ≠ [] →
    (c.expiries < 7 → (∀ n ∈ c.unacked, ∃ r, mfind s.dev.fabric n = some r) →
      ∃ t, exec (.endToEndTimeout k) s = .next t ∧
        mfind t.dev.conns k = some { c with expiries := c.expiries + 1 } ∧ t.dev.mem = s.dev.mem ∧
        t.dev.sent.length = s.dev.sent.length + c.unacked.length) ∧
    (c.expiries = 7 → ∃ t y, exec (.endToEndTimeout k) s = .next t ∧ mfind t.dev.conns k = some y ∧ y.down = true ∧
      ∀ n ∈ outstandingOn s.dev k, mfind t.dev.fabric n = none)) ∧
  (∀ (k : Nat) (s : State) (c : Conn), mfind s.dev.conns k = some c → c.down = false →
    ∃ t, exec (.rackAcknowledgement k) s = .next t ∧ t.dev.sent = s.dev.sent ++ [.rack k (rackOf s.dev c)] ∧
      t.dev.mem = s.dev.mem ∧ t.dev.conns = s.dev.conns) ∧
  (∀ (n : Nat) (s : State) (p : Posted) (pl : Place) (ls : List Nat), mfind s.dev.posted n = some p →
    firesNext s.dev n p = true → postHeld s.dev p = false → postKind p.desc = 1 →
    xlate s.dev (postLaunch s.dev p) (stopeOf p.issue.core) .trig .atomic (p.desc.getD 4 0) = .place pl →
    (p.desc.getD 4 0).toNat % 8 = 0 → postSource s.dev p 8 = .ok ls → locOf pl ≠ none →
    (diesOf (stopeOf p.issue.core) pl ||| diesAt (stopeOf p.issue.core) ls) &&& s.dev.lost = 0 →
    ∃ t r, exec (.postedOpFire n) s = .next t ∧ mfind t.dev.fabric s.dev.names = some r ∧ r.post = some n ∧
      r.op.fn = .trig ∧ r.op.data = BitVec.ofNat 1024 (postData s.dev p 8 ls) ∧ r.loc = locOf pl ∧ r.op.size = 8) ∧
  (∀ (n : Nat) (s : State) (p : Posted) (fn : FabFn) (pl : Place) (ls : List Nat), mfind s.dev.posted n = some p →
    firesNext s.dev n p = true → postHeld s.dev p = false → postKind p.desc = 0 →
    postFn (postFunction p.desc) = some fn →
    let cw := p.desc.getD 7 0
    let va := p.desc.getD 4 0
    let st := stopeOf p.issue.core
    xlate s.dev (postLaunch s.dev p) st .fabricReduce (if fn = .store then .write else .atomic) va = .place pl →
    va.toNat % ctlSize cw = 0 → postSource s.dev p (ctlSize cw) = .ok ls → locOf pl ≠ none →
    (diesOf st pl ||| diesAt st ls) &&& s.dev.lost = 0 →
    ∃ t r, exec (.postedOpFire n) s = .next t ∧ mfind t.dev.fabric s.dev.names = some r ∧ r.post = some n ∧ r.op.fn = fn ∧
      r.op.size = ctlSize cw ∧ r.op.data = BitVec.ofNat 1024 (postData s.dev p (ctlSize cw) ls) ∧ r.loc = locOf pl ∧
      r.order = ctlOrder cw ∧ r.scope = ctlScope cw ∧ t.dev.mem = s.dev.mem) ∧
  (∀ (n l : Nat) (s : State) (p : Posted) (ls : List Nat) (d : Dev), mfind s.dev.posted n = some p →
    firesNext s.dev n p = true → postHeld s.dev p = false → postKind p.desc = 2 →
    let x := postLaunch s.dev p
    let st := stopeOf p.issue.core
    let bs := ls.map (readByte s.dev.mem)
    placeBytes s.dev x st .fetch .read (p.desc.getD 4 0) 256 = .ok ls → diesAt st ls &&& s.dev.lost = 0 →
    enqueueLaunch (touchDies s.dev p.ctx (diesAt st ls)) (BitVec.ofNat 4 p.part) p.ctx x.sender false bs = .ok (l, d) →
    ∃ t y, exec (.postedOpFire n) s = .next t ∧ mfind t.dev.posted n = none ∧ launchAt t.dev l = some y ∧
      y.state = .queued ∧ y.ctx = p.ctx ∧ y.record = parseRecord bs) ∧
  ∀ (g status : BitVec 16) (s : State) (l key i : Nat) (b : Barrier) (x : Launch) (tk : Task),
    openGeneration s.dev g.toNat = some (l, key, b) → launchAt s.dev l = some x → b.arrived = [i] →
    mfind x.tasks i = some tk → onCore s.dev l i = true →
    ∃ t y z, exec (.switchBarrierRelease g status) s = .next t ∧ launchAt t.dev l = some y ∧
      mfind y.gBarriers key = some { b with done := [0] } ∧ mfind y.tasks i = some z ∧ z.wait = .nothing ∧
      y.interval = (if x.record.tasks = 1 ∧ status = 0 then x.interval + 1 else x.interval) ∧
      (status ≠ 0 → z.notice = tk.notice ++ [⟨causeRemote, status.setWidth 64⟩]) ∧ t.dev.mem = s.dev.mem

/-! ## Links -/

/-- R347, R348, R350, R383 to R387: at a port that is up, a data flit that passes its checks and is the next expected is
accepted, with an acknowledgement where nothing waits to be sent; another sound one is discarded, with a NAK for the
first one missing where there is a gap, and so is a flit that fails a check; the beats of a flit go out in turn on the
active wavelengths; an acknowledgement frees the flits up to the one it names; and a NAK has the flits
from the one it names sent again. A flit that a port builds carries its own check value, its sequence and its mask. R346
to R349, R385, R387: requests and NAKs that wait go out again; a FEC window's end clears every count of errors; a
wavelength that loses lock retrains and its removal is asked for, but never the last; the end of a retraining asks for
its restore, and the third failure retires it, with the module's record and a log entry; parking takes the highest
active wavelength of the sending direction where its queue is short; a queue that reaches WakeDepth wakes the parked
ones, and they all join.
The model's choices in log 45, 46, 56, 72 stand behind it. -/
def Obligations.FlitsAndWavelengths : Prop :=
  ((∀ (port : BitVec 6) (f : Flit) (s : State), portLives s.dev port.toNat = true →
     let p := portAt s.dev port.toNat
     activeLanes p.rx ≠ [] → canSend p = true →
     let plain := hdrControl f = false ∧ hdrStripe f = 0 ∧ hdrNak f = false ∧
       p.buffer.all (fun e => e.1 != BitVec.ofNat 8 (hdrAck f)) = true ∧ p.requests = [] ∧ p.waiting = []
     (plain → flitBad p f = false → hdrSeq f = p.expect.toNat →
       ∃ t c, exec (.flitReceive port f []) s = .next t ∧ hdrControl c = true ∧ hdrAck c = p.expect.toNat ∧
         portAt t.dev port.toNat = { p with expect := p.expect + 1, missing := none, received := p.received ++ [⟨f.beats, 0⟩],
                                            sent := p.sent ++ [onWire p c] } ∧ t.dev.mem = s.dev.mem) ∧
     (plain → flitBad p f = false → hdrSeq f ≠ p.expect.toNat → behind p f = false → p.missing = none →
       ∃ t c, exec (.flitReceive port f []) s = .next t ∧ hdrControl c = true ∧ hdrNak c = true ∧
         hdrNakSeq c = p.expect.toNat ∧
         portAt t.dev port.toNat = { p with missing := some p.expect, sent := p.sent ++ [onWire p c] }) ∧
     (plain → flitBad p f = false → hdrSeq f ≠ p.expect.toNat → behind p f = true →
       ∃ t, exec (.flitReceive port f []) s = .next t ∧ portAt t.dev port.toNat = p) ∧
     (flitBad p f = true → p.missing = none →
       ∃ t c, exec (.flitReceive port f []) s = .next t ∧ hdrNak c = true ∧ hdrNakSeq c = p.expect.toNat ∧
         portAt t.dev port.toNat = { p with missing := some p.expect, sent := p.sent ++ [onWire p c] }) ∧
     (flitBad p f = true → p.missing ≠ none →
       ∃ t, exec (.flitReceive port f []) s = .next t ∧ portAt t.dev port.toNat = p)) ∧
   (∀ (p : Port) (a b : List (Byte × BitVec 1792)) (e : Byte × BitVec 1792), p.buffer = a ++ e :: b →
     (∀ x ∈ a, x.1 ≠ e.1) → acknowledge p e.1 = { p with buffer := b } ∧
     (replayFrom p e.1).sent = p.sent ++ (e :: b).map fun x => onWire p (buildFlit p false false x.1 x.2)) ∧
   (∀ (p : Port) (f : Flit) (b : Nat), b < 8 → let ws := activeLanes p.tx
     (onWire p f).flit = f ∧ (onWire p f).slots[b]? = some (ws.getD (b % ws.length) 0, b / ws.length)) ∧
   ∀ (p : Port) (nak control : Bool) (seq : Byte) (beats : BitVec 1792),
     let f := buildFlit p nak control seq beats
     hdrCrc f = (flitCrc beats (f.header.setWidth 64)).toNat ∧ hdrSeq f = seq.toNat ∧ hdrMask f = stripeMask p.tx ∧
       hdrControl f = control ∧ hdrNak f = nak ∧ f.beats = beats ∧ hdrAck f = (p.expect - 1).toNat) ∧
  ((∀ (port : BitVec 6) (s : State), portLives s.dev port.toNat = true →
     let p := portAt s.dev port.toNat
     canSend p = true →
     (∀ r rs, p.requests = r :: rs → ∃ t f, exec (.stripeRequestRepeat port) s = .next t ∧
       portAt t.dev port.toNat = { p with sent := p.sent ++ [onWire p f] } ∧ hdrStripe f = (if r.restore then 2 else 1) ∧
       hdrLambda f = r.lambda % 8) ∧
     (∀ m, p.missing = some m → ∃ t f, exec (.nakRepeat port) s = .next t ∧ hdrNak f = true ∧
       hdrNakSeq f = p.expect.toNat ∧
       portAt t.dev port.toNat = { p with missing := some p.expect, sent := p.sent ++ [onWire p f] }) ∧
     (p.woken = false → queueFlits p < p.park → p.tx.length = 8 → ∀ i, i < 8 → (laneAt p.tx i).state = .active →
       (∀ j, i < j → j < 8 → (laneAt p.tx j).state ≠ .active) → i ≠ lowestLane p.tx → 2 ≤ activeCount p.tx →
       let q := { p with tx := setLaneState p.tx i .parked }
       ∃ t f, exec (.wavelengthPark port) s = .next t ∧ hdrControl f = true ∧ hdrMask f = stripeMask p.tx ∧
         portAt t.dev port.toNat = { q with sent := p.sent ++ [onWire p f] }) ∧
     (p.woken = true → let q := { p with tx := wakeAll p.tx, woken := false }
       ∃ t f, exec (.wavelengthWake port) s = .next t ∧ hdrControl f = true ∧ hdrMask f = stripeMask p.tx ∧
       portAt t.dev port.toNat = { q with sent := p.sent ++ [onWire p f] } ∧
       (∀ l ∈ wakeAll p.tx, l.state ≠ .parked)) ∧
     (p.wake ≤ queueFlits p → (∃ l ∈ p.tx, l.state = .parked) → wakePort p = { p with woken := true })) ∧
   (∀ s : State, ∃ t, exec .fecWindowClear s = .next t ∧ t.dev.mem = s.dev.mem ∧
     ∀ n, (∀ l ∈ (portAt t.dev n).rx, l.errors = 0) ∧
       (portAt t.dev n).rx.map (·.state) = (portAt s.dev n).rx.map (·.state)) ∧
   ∀ (port : BitVec 6) (lambda : BitVec 3) (s : State), portLives s.dev port.toNat = true →
     let p := portAt s.dev port.toNat
     let i := lambda.toNat
     let l := laneAt p.rx i
     p.rx.length = 8 → canSend p = true →
     (l.state = .active → 2 ≤ activeCount p.rx → p.requests.contains ⟨false, i⟩ = false →
       ∃ t f, exec (.wavelengthLockLoss port lambda) s = .next t ∧ portAt t.dev port.toNat =
         { p with rx := setLaneState p.rx i .retraining, requests := p.requests ++ [⟨false, i⟩],
                  sent := p.sent ++ [onWire p f] }) ∧
     (l.state = .active → activeCount p.rx ≤ 1 →
       ∃ t, exec (.wavelengthLockLoss port lambda) s = .next t ∧ portAt t.dev port.toNat = p) ∧
     (l.state = .retraining → p.requests.contains ⟨true, i⟩ = false →
       ∃ t f, exec (.retrainingEnd port lambda true) s = .next t ∧ (laneAt (portAt t.dev port.toNat).rx i).fails = 0 ∧
         (portAt t.dev port.toNat).requests = p.requests ++ [⟨true, i⟩] ∧
         (portAt t.dev port.toNat).sent = p.sent ++ [onWire p f] ∧ hdrControl f = true) ∧
     (l.state = .retraining → l.fails < 2 → ∃ t, exec (.retrainingEnd port lambda false) s = .next t ∧
       laneAt (portAt t.dev port.toNat).rx i = { l with fails := l.fails + 1 } ∧ t.dev.foreman = s.dev.foreman) ∧
     (l.state = .retraining → 2 ≤ l.fails → ∃ t e, exec (.retrainingEnd port lambda false) s = .next t ∧
       (laneAt (portAt t.dev port.toNat).rx i).state = .retired ∧
       t.dev.foreman.logs = s.dev.foreman.logs ++ [e] ∧ e.kind = 3 ∧
       (mget 0 t.dev.module.lambdas port.toNat).getLsbD i = true))

/-! ## The governor -/

/-- R139, R140, R143 to R147, R154 to R156: an evaluation, once at each multiple of 10,000 ns, leaves both levels at the
grant or below, at 0 while a sensor reads 115 °C or more, and starts a new period; for one partition without sensors or
replays the level is the least that gives every running launch with a deadline its slack, or the partition's default
where there is none, capped by the grant; a launch whose slack at the grant is negative has its tasks' risk pending, and
the interrupt of a task that enables it. A grant, a completed change and a calibration have effect at once, and a sample
is taken at the end of its period, and none before, and enters the ring while there is room.
The model's choices in log 47, 48 stand behind it. -/
def Obligations.GovernorEvents : Prop :=
  (∀ (inp : GovernorInput) (s : State), s.dev.now < s.dev.power.nextEval →
    exec (.governorEvaluation inp) s = .next s) ∧
  (∀ (inp : GovernorInput) (s : State), s.dev.power.nextEval ≤ s.dev.now → ∃ t,
      exec (.governorEvaluation inp) s = .next t ∧
    t.dev.power.level.toNat ≤ s.dev.power.grant.toNat ∧ t.dev.power.fb.toNat ≤ s.dev.power.grant.toNat ∧
    t.dev.power.grant = s.dev.power.grant ∧ (∀ e ∈ t.dev.stopes, e.2.period = 0) ∧
    s.dev.now < t.dev.power.nextEval ∧ t.dev.power.nextEval ≤ s.dev.now + 10000 ∧ t.dev.power.nextEval % 10000 = 0 ∧
    ((∃ e ∈ t.dev.power.sensors, sensorKind e.1 = .thermal ∧ 115 ≤ e.2.reading) →
      t.dev.power.level = 0 ∧ t.dev.power.fb = 0) ∧
    (∀ n p, inp.sensors = [] → s.dev.power.sensors = [] → s.dev.power.boost = 0 → worstReplays s.dev ≤ 64 →
      s.dev.parts = [(n, p)] →
      let xs := deadlineLaunches s.dev n
      let lev := t.dev.power.level.toNat
      (xs = [] → lev = min p.deflt.toNat s.dev.power.grant.toNat) ∧
      (xs ≠ [] → (lev < s.dev.power.grant.toNat → ∀ x ∈ xs, hasSlack s.dev.now x lev = true) ∧
        ∀ l, l < lev → ∃ x ∈ xs, hasSlack s.dev.now x l = false)) ∧
    (∀ l x v k i, s.dev.launches = [(l, x)] → x.state = .running → x.risked = false →
      slackNs s.dev.now x (stopeMhz s.dev.power.grant.toNat) = some v → v < 0 → inp.sensors = [] → s.dev.stopes = [] →
      (∀ p, partAt s.dev x.part.toNat = some p → p.dmode = false) → x.tasks.map (·.1) = [i] →
      (∀ tk, mfind x.tasks i = some tk → tk.state = .running) →
      (s.dev.cores.find? fun e => e.2.run == some ⟨l, i⟩ && !e.2.leaving).map (·.1) = some k →
      (coreAt t.dev k).riskPend = true ∧
        ((coreAt s.dev k).riskEn = true → (coreAt t.dev k).risk = some (BitVec.ofInt 64 v)))) ∧
  (∀ (level : BitVec 3) (s : State), ∃ t, exec (.powerGrant level) s = .next t ∧
    t = setDev s { s.dev with power := { s.dev.power with grant := level } }) ∧
  (∀ s : State, ∃ t, exec .levelChangeComplete s = .next t ∧ clockNow t.dev.power = stopeMhz s.dev.power.level.toNat ∧
    t.dev.power.level = s.dev.power.level ∧ t.dev.mem = s.dev.mem ∧ t.dev.cores = s.dev.cores) ∧
  (∀ (die : BitVec 3) (offset rate : Dword) (s : State), ¬ (die = 7 ∧ s.dev.lost.getLsbD 3 = true) →
      calibrated s.dev die.toNat ⟨offset, rate, s.dev.clock⟩ = true → ∃ t,
      exec (.timeCalibration die offset rate) s = .next t ∧
    converted t.dev die.toNat = offset + BitVec.ofNat 64 (rate.toNat * (dieCount s.dev die.toNat).toNat / 2 ^ 32) ∧
    (∀ e, e ≠ die.toNat → converted t.dev e = converted s.dev e) ∧ t.dev.mem = s.dev.mem) ∧
  ∀ (ctx : Nat) (mw : List (Nat × Word)) (s : State) (c : Context) (p : Partition) (q : Sampling),
    ctxAt s.dev ctx = some c → c.sampling = some q → q.k ≠ 0 → partAt s.dev c.part.toNat = some p →
    (q.spent < 1000 * 2 ^ q.k → exec (.energySample ctx mw) s = .next s) ∧
    (1000 * 2 ^ q.k ≤ q.spent → ∃ t c' q', exec (.energySample ctx mw) s = .next t ∧ ctxAt t.dev ctx = some c' ∧
      c'.sampling = some q' ∧ t.dev.mem = s.dev.mem ∧
      (q.ring.length + 4 * p.stopes.length ≤ 65536 → ∃ xs, q'.ring = q.ring ++ xs ∧ xs.length = 4 * p.stopes.length ∧
        (∀ x ∈ xs, x.length = 32) ∧ q'.dropped = q.dropped) ∧
      (65536 ≤ q.ring.length → q'.ring = q.ring ∧ q'.dropped = q.dropped + 4 * p.stopes.length))

/-! ## Launches and tasks -/

/-- R42 to R47, R103: an admission takes the head of the highest level whose launch finds a range: the launch runs on a
range of working free stopes, a whole multiple of its size into the partition, with its number and its tasks ready, and
its first step open. One that finds none counts a failure and is passed over until its back-off expires.
The model's choices in log 49 stand behind it. -/
def Obligations.Admission : Prop :=
  (∀ (d : Dev) (p : Partition) (x : Launch) (gang : List Nat), reserve d p x = some gang →
    (∀ s ∈ gang, stopeFree d s = true) ∧ ∃ j, j < p.stopes.length / gangSize x.record ∧
      gang = (p.stopes.drop (gangSize x.record * j)).take (gangSize x.record)) ∧
  (∀ (part : BitVec 4) (s : State) (p : Partition) (lev l : Nat) (x : Launch),
    partAt s.dev part.toNat = some p → lev < 16 → headOf s.dev part.toNat lev = some (l, x) → x.passUntil = 0 →
    (∀ m, lev < m → m < 16 → headOf s.dev part.toNat m = none) →
    (∀ (gang : List Nat) (n : Nat) (e : Dev), reserve s.dev p x = some gang → numberFor s.dev x = some n →
      x.state = .queued → x.parent = none → x.record.deadlines = 0 → loadWaits e x.ctx = false →
      let y := { x with state := .running, number := some n, admitted := s.dev.names, gang := gang }
      let y := { y with tasks := (List.range x.record.tasks).map fun i => (i, freshTask) }
      writeConts y 0 x.record.tasks (putLaunch { s.dev with names := s.dev.names + 1 } l y) = .ok e →
      ∃ t z, exec (.dispatchAdmission part) s = .next t ∧ launchAt t.dev l = some z ∧ z.state = .running ∧ z.gang = gang ∧
        z.number = some n ∧ z.step = 0 ∧ z.phase = .open ∧ z.deadline = none ∧
        z.tasks.map (·.1) = List.range x.record.tasks ∧ (∀ q ∈ z.tasks, q.2.state = .ready) ∧ t.dev.mem = e.mem) ∧
    (launchAt s.dev l = some x → reserve s.dev p x = none → x.failures < 15 → (∀ m, m < lev →
        headOf s.dev part.toNat m = none) →
      ∃ t z, exec (.dispatchAdmission part) s = .next t ∧ launchAt t.dev l = some z ∧ z.state = x.state ∧
        z.failures = x.failures + 1 ∧
        z.passUntil = s.dev.now + cyclesNs s.dev (backoffCycles x.record.seed (x.failures + 1)) ∧
        t.dev.mem = s.dev.mem)) ∧
  ∀ (l : Nat) (s : State) (x : Launch), launchAt s.dev l = some x →
    ∃ t, exec (.backoffExpiry l) s = .next t ∧ launchAt t.dev l =
      some (if x.passUntil ≤ s.dev.now then { x with passUntil := 0 } else x)

/-- R46, R56, R213, R330: a forced pre-emption snapshots a task with nothing outstanding and frees its core, which a
Foreman launch then has for its time; a lease defers it until its bound; and a launch whose cores are free, and which
is to be pre-empted, returns to the head of its level without a gang, with no memory changed outside its copy-queue
images. R48, R50, R199, R213, R215: an idle core takes
the next ready continuation. From its record it starts at the record's position, with the parameters from g1 on, g56
to g58 for its task, the number of tasks and the step, g60 for its frame and g63 for the frame's end; from a snapshot
it has the registers and the position that the snapshot has in its region. Its task runs.
The model's choices in log 13, 42, 51, 52, 53 stand behind it. -/
def Obligations.PreemptionAndResumption : Prop :=
  ((∀ (core : CoreId) (ns : Nat) (s : State) (r : Running) (x : Launch) (tk : Task),
     let k := coreNum core
     (canSnapshot s.dev k r x tk → (coreAt s.dev k).lease = false → (coreAt s.dev k).preempt = none →
       ∃ t, exec (.taskPreemption core ns) s = .next t ∧ snapshotted s.dev t.dev k r tk ∧
         (ns ≠ 0 → s.dev.now + ns ≤ (coreAt t.dev k).takenUntil)) ∧
     (issuing s.dev k = false → ∃ t, exec (.taskPreemption core ns) s = .next t ∧
       (coreAt t.dev k).takenUntil = max (coreAt s.dev k).takenUntil (s.dev.now + ns) ∧ t.dev.mem = s.dev.mem) ∧
     (∀ at', (coreAt s.dev k).preempt = some at' →
       (canSnapshot s.dev k r x tk → at' ≤ s.dev.now →
         ∃ t, exec (.preemptionDeferralBound core) s = .next t ∧ snapshotted s.dev t.dev k r tk) ∧
       (issuing s.dev k = true → (coreAt s.dev k).run ≠ none → (coreAt s.dev k).lease = true → s.dev.now < at' →
         exec (.preemptionDeferralBound core) s = .next s))) ∧
   ∀ (l : Nat) (s : State) (x : Launch), launchAt s.dev l = some x → x.state = .preempting → x.stop = none →
     childrenOf s.dev l = [] → coresOf s.dev l = [] → arrayLeft s.dev l = false →
     ∃ t z, exec (.launchPreemption l) s = .next t ∧ launchAt t.dev l = some z ∧ z.state = .preempted ∧ z.gang = [] ∧
       z.returned ≠ 0 ∧ z.tasks = x.tasks ∧ z.step = x.step ∧
       ∀ a, (∀ g, g < x.gang.length → ∀ ls, placeBytes s.dev x (firstStope s.dev x) .fetch .write (queueAddr s.dev l g x)
         4160 = .ok ls → a ∉ ls) → readByte t.dev.mem a = readByte s.dev.mem a) ∧
  (∀ (core : CoreId) (s : State) (q : Ready) (p : Partition),
     let k := coreNum core
     idleCore s.dev k = true → nextReady s.dev k = some q → partAt s.dev q.x.part.toNat = some p →
     (p.dmode = false → ∀ j, j < gangCore q.x k → idleCore s.dev (coreOfGang q.x j) = false) →
     launchAt s.dev q.launch = some q.x → mfind q.x.tasks q.task = some q.t → q.x.saved = [] →
     q.x.imaged = [] →
     (∀ ls, (q.t.snap = none ∨ q.t.state ≠ .snapshot) → q.x.record.frameSize < 64 → q.x.record.params.length ≤ 55 →
       placeBytes s.dev q.x (stopeOf k) .fetch .read
         (q.x.record.cont.setWidth 64 + BitVec.ofNat 64 (64 * q.task)) 64 = .ok ls → readHeld s.dev ls = false →
       let bs := ls.map (readByte s.dev.mem)
       let frame := BitVec.ofNat 64 (bitsOf bs 255 192)
       ∃ t y z, exec (.taskResumption core) s = .next t ∧ (coreAt t.dev k).run = some ⟨q.launch, q.task⟩ ∧
         (coreAt t.dev k).pc = BitVec.ofNat 48 (bitsOf bs 63 0) ∧
             (coreAt t.dev k).gpc = BitVec.ofNat 48 (bitsOf bs 127 64) ∧
         (coreAt t.dev k).lc = BitVec.ofNat 32 (bitsOf bs 159 128) ∧
         (∀ j v, q.x.record.params[j]? = some v → physReadG (coreAt t.dev k) (j + 1) = v) ∧
         physReadG (coreAt t.dev k) 56 = BitVec.ofNat 64 q.task ∧
         physReadG (coreAt t.dev k) 57 = BitVec.ofNat 64 q.x.record.tasks ∧
         physReadG (coreAt t.dev k) 58 = BitVec.ofNat 64 q.x.step ∧ physReadG (coreAt t.dev k) 60 = frame ∧
         physReadG (coreAt t.dev k) 63 = frame + BitVec.ofNat 64 q.x.record.frameSize ∧
         (∀ j, j < 64 → physReadV (coreAt t.dev k) j = 0) ∧ (coreAt t.dev k).seed = q.x.record.seed ∧
         launchAt t.dev q.launch = some y ∧ mfind y.tasks q.task = some z ∧ z.state = .running) ∧
     (∀ saved ls, q.t.snap = some saved → q.t.state = .snapshot → recordPlaces s.dev k q = .ok ls →
       readHeld s.dev ls = false → snapHeld s.dev q.x q.t saved = false →
       let sn := snapNow s.dev q.x q.t saved
       ∃ t y z, exec (.taskResumption core) s = .next t ∧ (coreAt t.dev k).run = some ⟨q.launch, q.task⟩ ∧
         (coreAt t.dev k).g = sn.core.g ∧ (coreAt t.dev k).v = sn.core.v ∧ (coreAt t.dev k).p = sn.core.p ∧
         (coreAt t.dev k).o = sn.core.o ∧ (coreAt t.dev k).pc = sn.latch.pc ∧ (coreAt t.dev k).rrb = sn.latch.rrb ∧
         (coreAt t.dev k).lc = sn.latch.lc ∧ (coreAt t.dev k).inHandler = sn.latch.inHandler ∧
         launchAt t.dev q.launch = some y ∧ mfind y.tasks q.task = some z ∧ z.state = .running ∧ z.snap = none))

/-- R39, R40, R52, R53, R57, R58, R329: a step closes once every task has ended it and everything issued in it is
complete; after the replay of the copies the next step opens, or the launch completes: its record is written, and its
counter raised by 1.
A launch that has stopped completes with its stop's status once nothing of it is under way.
The model's choices in log 58 stand behind it. -/
def Obligations.LaunchSteps : Prop :=
  ∀ (l : Nat) (s : State) (x : Launch), launchAt s.dev l = some x →
    (goes x = true → x.phase = .open → stepOver x = true → launchBusy s.dev l = false → stagedEntry s.dev x = none →
      ∃ t, exec (.stepClose l) s = .next t ∧ t.dev.mem = s.dev.mem ∧
        launchAt t.dev l = some { x with phase := .replay, replayAt := s.dev.now }) ∧
    (goes x = true → x.phase = .open → stepOver x = false ∨ launchBusy s.dev l = true ∨ stagedEntry s.dev x ≠ none →
      exec (.stepClose l) s = .next s) ∧
    (goes x = true → x.phase = .replay → copiesLeft s.dev l = false → x.record.schedule = 0 →
      loadWaits s.dev x.ctx = false → x.cancel = false → x.parent = none →
      (∀ dl w, x.step + 1 < x.record.steps → (∃ tk ∈ x.tasks, tk.2.state ≠ .exited) →
        msorted x.tasks = true → stepEntry s.dev x (x.step + 1) = .ok (dl, w, 0) →
        entryDies s.dev x (x.step + 1) &&& s.dev.lost = 0 → entryHeld s.dev x (x.step + 1) = false →
        ∃ t z, exec (.stepOpen l) s = .next t ∧ launchAt t.dev l = some z ∧ z.step = x.step + 1 ∧ z.phase = .open ∧
          z.deadline = dl ∧ z.work = w ∧ z.interval = 0 ∧ z.state = .running ∧
          (∀ i tk, mfind x.tasks i = some tk → ∃ u, mfind z.tasks i = some u ∧ u.snap = tk.snap ∧
            u.state = if tk.state = .stepEnd then .ready else tk.state) ∧
          ((∀ tk ∈ x.tasks, tk.2.state ≠ .stepEnd) → t.dev.mem = s.dev.mem) ∧
          ∀ g ∈ x.gang, (stopeAt t.dev g).stage = 0) ∧
      (x.step + 1 = x.record.steps → x.record.complRec = 0 → x.record.complCtr = 0 → x.waiters = [] →
        ∃ t z o, exec (.stepOpen l) s = .next t ∧ launchAt t.dev l = some z ∧ z.state = .complete ∧ z.outcome = some o ∧
          o.status = 0 ∧ o.steps = x.step + 1 ∧ o.task = none) ∧
      (∀ loc, x.step + 1 = x.record.steps → x.record.complCtr = 0 → x.waiters = [] → x.record.complRec ≠ 0 →
        placeBytes s.dev x (firstStope s.dev x) .fetch .write (x.record.complRec.setWidth 64) 32 =
          .ok ((List.range 32).map (loc + ·)) →
        diesAt (firstStope s.dev x) ((List.range 32).map (loc + ·)) &&& s.dev.lost = 0 →
        lateHeld s.dev ((List.range 32).map fun i => granuleOf (loc + i)) = false →
        wakesNone { s.dev with mem := writeCells s.dev.mem (cellsAt ((List.range 32).map (loc + ·))
          (completionBytes ⟨0, x.step + 1, BitVec.ofNat 64 s.dev.now, none, 0, 0⟩)) } →
        ∃ t, exec (.stepOpen l) s = .next t ∧ readN t.dev.mem loc 4 = 0 ∧
            readN t.dev.mem (loc + 4) 4 = (x.step + 1) % 2 ^ 32 ∧
          readN t.dev.mem (loc + 8) 8 = s.dev.now % 2 ^ 64 ∧ readN t.dev.mem (loc + 16) 4 = 0xFFFFFFFF) ∧
      (∀ loc p, x.step + 1 = x.record.steps → x.record.complRec = 0 → x.waiters = [] → x.record.complCtr ≠ 0 →
        xlate s.dev x (firstStope s.dev x) .coreAtomic .atomic (x.record.complCtr.setWidth 64) = .place p →
        locOf p = some loc → diesOf (firstStope s.dev x) p &&& s.dev.lost = 0 → lateHeld s.dev [granuleOf loc] = false →
        let mem := writeN s.dev.mem loc 8 (readN s.dev.mem loc 8 + 1)
        (∀ arms, (armOf s.dev loc = none ∧ arms = s.dev.arms) ∨
            (∃ a, armOf s.dev loc = some a ∧ a.overrun = false ∧
              (a.limit = 0 ∨ readN s.dev.mem loc 8 + 1 ≤ a.limit.toNat) ∧
              arms = minsert s.dev.arms loc { a with log := addContrib a.log none (counterValue s.dev loc + 1) }) →
          wakesNone { s.dev with mem := mem, arms := arms } →
          ∃ t z, exec (.stepOpen l) s = .next t ∧ launchAt t.dev l = some z ∧ z.state = .complete ∧ t.dev.mem = mem ∧
            t.dev.arms = arms))) ∧
    (∀ st, x.stop = some st → st.task = none → x.state ≠ .complete → childrenOf s.dev l = [] →
      (∀ q ∈ s.dev.copies, q.2.issue.launch ≠ l) → launchBusy s.dev l = false → x.record.complRec = 0 →
      x.record.complCtr = 0 → x.waiters = [] → x.parent = none →
      ∃ t z o, exec (.launchFault l) s = .next t ∧ launchAt t.dev l = some z ∧ z.state = .complete ∧ z.outcome = some o ∧
        o.status = st.status ∧ o.steps = x.step ∧ o.task = none)

/-- R54, R55, R72, R84, R103: the regeneration launch of a page runs on its parent's gang, and the page is no longer
listed; a refetch page whose fill is complete is valid and holds its backing page's bytes; a table that waits is
installed once the running launches of its context are held; and a refill puts a free granule, which may be one that an
eviction has given up and that no access of its partition uses any more, into a partition's reserve.
The model's choices in log 24, 25, 50 stand behind it. -/
def Obligations.PageEvents : Prop :=
  (∀ (l : Nat) (page : BitVec 27) (s : State) (x : Launch) (e : LttPage) (va : Va) (rest : List (Nat × Va)) (n : Nat)
      (ns : List Nat) (r : LaunchRec) (es : List RangeEntry) (dl : Nat) (f : Dev),
    let k := page.toNat
    let d := unlistPage s.dev x.ctx k
    let c := { launchOfRecord x.part x.ctx 0 x.sender r d.now with
      level := x.level, state := .running, number := some n, admitted := d.names, gang := x.gang, parent := some l,
      page := k, regens := x.regens }
    let c' := { c with ranges := es, dl0 := dl, tasks := (List.range r.tasks).map fun i => (i, freshTask) }
    let b := modLaunch { d with names := d.names + 1 } l fun x => { x with regens := x.regens + 1 }
    launchAt s.dev l = some x → goes x = true → x.pageQ = (k, va) :: rest → pageOf s.dev x.ctx k = some e → e.state = 2 →
    e.phys ≠ none → (childrenOf s.dev l).length < 8 → freeNumbers s.dev x.ctx = n :: ns → l ≠ s.dev.names →
    regenRecord d x k va = some r → queueReads d c = some (es, dl) →
    writeConts c' 0 r.tasks (putLaunch b d.names c') = .ok f → loadWaits f x.ctx = false → regenHeld s.dev x k va = false →
    entryHeld f c' 0 = false → regenDies d x k va &&& d.lost = 0 →
    ∃ t z y, exec (.regenerationLaunch l page) s = .next t ∧ launchAt t.dev s.dev.names = some z ∧ z.parent = some l ∧
      z.page = k ∧ z.gang = x.gang ∧ z.state = .running ∧ z.number = some n ∧ launchAt t.dev l = some y ∧
      (∀ q ∈ y.pageQ, q.1 ≠ k) ∧ y.regens = x.regens + 1) ∧
  (∀ (ctx : Nat) (page : BitVec 27) (s : State) (e : LttPage) (x : Launch) (st g loc : Nat) (p p' : Place),
    let k := page.toNat
    let va : Dword := BitVec.ofNat 64 (e.backing.toNat * 2 ^ 21)
    let dst := hbmLoc (g * 2 ^ 21)
    s.memOk = true → pageOf s.dev ctx k = some e → e.state = 3 → e.phys = some g → fillUser s.dev ctx k = some (x, st) →
    xlate s.dev x st .copy .read va = .place p →
    xlate s.dev x st .copy .read (va + BitVec.ofNat 64 (2 ^ 21 - 1)) = .place p' →
    (diesOf st p ||| diesOf st (.hbm (g * 2 ^ 21))) &&& s.dev.lost = 0 → locOf p = some loc →
    loc + 2 ^ 21 ≤ dst ∨ dst + 2 ^ 21 ≤ loc →
    ∃ t e', exec (.refetchFillComplete ctx page) s = .next t ∧ pageOf t.dev ctx k = some e' ∧ e'.state = 1 ∧
      e'.phys = some g ∧ pausedOn t.dev ctx k = [] ∧
      (pageWaiters s.dev ctx k = [] → wakesNone { s.dev with mem := fillFrom s.dev p dst } →
      (∀ i, i < 2 ^ 21 → readByte t.dev.mem (dst + i) = readByte s.dev.mem (loc + i)) ∧
      ∀ a, a < dst ∨ dst + 2 ^ 21 ≤ a → readByte t.dev.mem a = readByte s.dev.mem a)) ∧
  (∀ (ctx : Nat) (s : State) (c : Context) (w : PendingLoad), ctxAt s.dev ctx = some c → c.pending = some w →
    (allHeld s.dev ctx = true → ∃ t c', exec (.lttInstall ctx) s = .next t ∧ ctxAt t.dev ctx = some c' ∧
      c'.regions = w.regions ∧ c'.pages = w.pages ∧ c'.regen = w.regen ∧ c'.pending = none ∧
      answered s.dev t.dev w.req 0 w.reply) ∧
    (allHeld s.dev ctx = false → exec (.lttInstall ctx) s = .next s)) ∧
  ∀ (part : BitVec 4) (s : State) (p : Partition), partAt (collect s.dev part.toNat) part.toNat = some p → p.free ≠ [] →
    waitingPages s.dev part.toNat = [] →
    ∃ t p' g, exec (.fillReserveRefill part 1) s = .next t ∧ partAt t.dev part.toNat = some p' ∧ g ∈ p.free ∧
      p'.reserve = p.reserve ++ [g] ∧ p'.free = p.free.erase g ∧ t.dev.mem = s.dev.mem

/-! ## The Foreman -/

/-- R16, R25, R26: what every request meets, whatever its type: before boot nothing answers; with both pairs lost, and
in the recovery state for all but three types, the answer is UNAVAILABLE; a request whose Auth is checked and does not
hold is dropped and counted; and a bad header is MALFORMED. In none of these does anything else change.
The model's choices in log 17, 18, 19 stand behind it. -/
def Obligations.RequestChecks : Prop :=
  ∀ i ∈ requestRows, ∀ (r : Request) (s : State),
    let f := s.dev.foreman
    let only := fun (t : State) => t = { s with dev := { s.dev with foreman := { f with
      replies := t.dev.foreman.replies, held := t.dev.foreman.held } } }
    (f.booted = false → exec (i r) s = .next s) ∧
    (f.booted = true → 2 ≤ f.pairsLost → ∃ t, exec (i r) s = .next t ∧ answeredInOrder s.dev t.dev r 3 [] ∧ only t) ∧
    (f.booted = true → f.pairsLost < 2 → f.recovery = true → recoveryType r = false →
      ∃ t, exec (i r) s = .next t ∧ answeredInOrder s.dev t.dev r 3 [] ∧ only t) ∧
    (f.booted = true → f.pairsLost < 2 → f.recovery = false → authExempt r = false → authHolds s.dev r = false →
      exec (i r) s = .next (setDev s { s.dev with foreman := { f with authDrops := f.authDrops + 1 } })) ∧
    (f.booted = true → f.pairsLost < 2 → f.recovery = false → authExempt r = true ∨ authHolds s.dev r = true →
      headerBad r = true → ∃ t, exec (i r) s = .next t ∧ answeredInOrder s.dev t.dev r 4 [] ∧ only t)

/-- R14, R17, R18, R20, R28 to R34: the requests of the package: IDENTIFY and ATTEST answer with the identity and the
quote; FIRMWARE_LOAD stores an image whose signature holds; SESSION_OPEN binds a key and an address to an endpoint;
PARTITION_ASSIGN gives a partition its stopes, channels and mode; PARTITION_RELEASE ends one without contexts; TELEMETRY
answers with the state, and starts, stops and drains the sampling of a context; and an unsupported packet is counted.
The model's choices in log 20, 30, 35 stand behind it. -/
def Obligations.PackageRequests : Prop :=
  (∀ (r : Request) (s : State), served s.dev r →
    (r.body = [] → ∃ t, exec (.identify r) s = .next t ∧ answered s.dev t.dev r 0 (identifyBody s.dev) ∧
      t.dev.mem = s.dev.mem ∧ t.dev.module = s.dev.module) ∧
    (attestBad r = false → ∃ t b, exec (.attest r) s = .next t ∧ answered s.dev t.dev r 0 b ∧
      b.take 224 = quoteBytes s.dev r ∧ b.length = 4851 ∧ t.dev.mem = s.dev.mem) ∧
    (isOperator r = true → firmwareBad r = false →
      ∃ t, exec (.firmwareLoad r) s = .next t ∧ answered s.dev t.dev r (if imageHolds r.body then 0 else 2) [] ∧
        t.dev.module = if imageHolds r.body then { s.dev.module with image := r.body } else s.dev.module) ∧
    (∀ n e, r.body.length = 8819 → endpointOf r = some n → endpointAt s.dev n = some e →
      ∃ t e' b, exec (.sessionOpen r) s = .next t ∧ answered s.dev t.dev r (if sessionHolds r e then 0 else 2) b ∧
        endpointAt t.dev n = some e' ∧ e'.digest = e.digest ∧
        (if sessionHolds r e then e'.address = r.source ∧ e'.key ≠ none else e' = e) ∧
        ∀ m, m ≠ n → endpointAt t.dev m = endpointAt s.dev m) ∧
    (∀ part ss d, isOperator r = true → assignBad r = false → part = byteAt r.body 0 → partBusy s.dev part = false →
      partLeft s.dev part = false → assignClash s.dev part r = false →
      repairSites (chooseStopes s.dev part (byteAt r.body 1)) s.dev = (ss, d) →
          ss ≠ [] →
      ∃ t p, exec (.partitionAssign r) s = .next t ∧ answered s.dev t.dev r 0 (natBytes 8 ss.length) ∧
        partAt t.dev part = some p ∧ p.stopes = ss ∧ p.channels = grantedChannels r ∧
        p.dmode = (byteAt r.body 2 == 1) ∧ p.deflt.toNat = byteAt r.body 3) ∧
    (∀ part p, isOperator r = true → r.body.length = 8 → nonzeroIn r.body 1 7 = false → part = byteAt r.body 0 →
      r.type = 0x0011 → partAt s.dev part = some p → contextsOf s.dev part = [] → s.dev.foreman.waiting = [] →
      ∃ t, exec (.partitionRelease r) s = .next t ∧ answered s.dev t.dev r 0 [] ∧ partAt t.dev part = none ∧
        (∀ f, f < 8 → endpointAt t.dev (8 * part + f) = none) ∧
        ∀ st ∈ p.stopes, ∀ o, o < 0xD80000 → readByte t.dev.mem (vaultLoc st o) = 0) ∧
    (∀ who, telemetryBad r = false → fieldAt r.body 0 4 = 0 → othersContext s.dev r = false → endpointOf r = some who →
      ∃ t b, exec (.telemetryStatus r) s = .next t ∧ answered s.dev t.dev r 0 b ∧ b.take 8 = natBytes 8 s.dev.now ∧
        (b.drop 8).take 3 = natBytes 1 s.dev.power.grant.toNat ++ natBytes 1 s.dev.power.level.toNat ++
          natBytes 1 s.dev.power.fb.toNat ∧ t.dev.mem = s.dev.mem) ∧
    (∀ n c, telemetryBad r = false → isOperator r = false → owned s.dev r n c → ctxAt s.dev n = some c →
      (fieldAt r.body 0 4 = 1 → ∃ t c' q, exec (.telemetryStartSampling r) s = .next t ∧ answered s.dev t.dev r 0 [] ∧
        ctxAt t.dev n = some c' ∧ c'.sampling = some q ∧ q.k = byteAt r.body 8) ∧
      (fieldAt r.body 0 4 = 2 → ∃ t c' q, exec (.telemetryStopSampling r) s = .next t ∧ answered s.dev t.dev r 0 [] ∧
        ctxAt t.dev n = some c' ∧ c'.sampling = some q ∧ q.k = 0) ∧
      (∀ q, fieldAt r.body 0 4 = 3 → c.sampling = some q → ∃ t c', exec (.telemetryDrainSamples r) s = .next t ∧
        answered s.dev t.dev r 0 (natBytes 8 (q.ring.take 32767).length ++ natBytes 8 q.dropped ++
          (q.ring.take 32767).flatMap (fit 32)) ∧
        ctxAt t.dev n = some c' ∧ c'.sampling = some { q with ring := q.ring.drop 32767, dropped := 0 }))) ∧
  ∀ (m : UetMode) (s : State), s.dev.foreman.booted = true → exec (.unsupportedPacket m) s =
    .next (setDev s { s.dev with foreman := { s.dev.foreman with unsupported := s.dev.foreman.unsupported + 1 } })

/-- R27, R33, R37, R41, R69, R70, R73, R212: the requests in a context: a table that is walked and fits is installed
where no launch runs, in the context that is there or in one that the load makes; a release ends a context without
launches, and a shoot-down takes the pages of its ranges away; LAUNCH queues a record that is well formed and answers
with its handle, which LAUNCH_STATUS reads and LAUNCH_CANCEL ends; MEM_READ and MEM_WRITE read and write the bytes of a
range, and a write leaves its race tags zero; and a snapshot is read and written as its image.
The model's choices in log 21, 22, 23, 24, 26, 27, 28, 34 stand behind it. -/
def Obligations.ContextRequests : Prop :=
  ∀ (r : Request) (s : State), served s.dev r →
    (∀ n c d w, owned s.dev r n c → loadBad r = false →
      let root := bitsOf r.body 255 192
      let count := bitsOf r.body 127 112
      count ≠ 0 → count ≤ 768 → root % 16 = 0 → loadWaits s.dev n = false → ∀ p, partAt s.dev c.part.toNat = some p →
      walkTable c.part.toNat root count (s.dev, ⟨[], [], []⟩) = .ok (d, w) → tableFits d n p w = true →
      connsFit d n w = true → (∀ e ∈ d.launches, runningIn e.2 n = false) → ctxAt d n ≠ none →
      d.foreman = s.dev.foreman →
      grantsWait (collect d c.part.toNat) c.part.toNat (grantsOf p w.pages) = false →
      ∃ t c', exec (.lttLoad r) s = .next t ∧ answered s.dev t.dev r 0 (deniedBody w) ∧ ctxAt t.dev n = some c' ∧
        c'.regions = w.regions ∧ c'.pages = w.pages ∧ c'.pending = none) ∧
    (∀ d w p,
      let part := r.partition.toNat
      let root := bitsOf r.body 255 192
      let count := bitsOf r.body 127 112
      r.context ≠ 0 → part < 16 → contextIn s.dev part r.context = none → partAt s.dev part = some p → loadBad r = false →
      count ≠ 0 → count ≤ 768 → root % 16 = 0 → (contextsOf s.dev part).length < 256 →
      walkTable part root count (s.dev, ⟨[], [], []⟩) = .ok (d, w) → tableFits d d.names p w = true →
      connsFit d d.names w = true → (∀ e ∈ d.launches, runningIn e.2 d.names = false) → d.foreman = s.dev.foreman →
      grantsWait (collect d part) part (grantsOf p w.pages) = false →
      ∃ t c, exec (.lttLoad r) s = .next t ∧ answered s.dev t.dev r 0 (deniedBody w) ∧ ctxAt t.dev d.names = some c ∧
        c.ident = r.context ∧ c.owner = r.function.toNat ∧ c.part.toNat = part ∧ c.regions = w.regions ∧
        c.pages = w.pages ∧ c.pending = none) ∧
    (∀ n c, owned s.dev r n c → loadBad r = false → bitsOf r.body 127 112 = 0 → r.type = 0x0020 → c.pending = none →
      ctxAt s.dev n = some c → s.dev.foreman.waiting = [] → (∀ e ∈ s.dev.launches, e.2.ctx ≠ n) →
      (∀ e ∈ s.dev.fabric, e.2.ctx ≠ n) → s.dev.late = [] →
      ∃ t, exec (.contextRelease r) s = .next t ∧ answered s.dev t.dev r 0 [] ∧ ctxAt t.dev n = none) ∧
    (∀ n c, owned s.dev r n c → shootBad r = false → ctxAt s.dev n = some c → s.dev.foreman.waiting = [] →
      r.type = 0x0021 → accessesLeft s.dev n s.dev.issues (fun _ _ => true) = false → (∀ e ∈ s.dev.launches, e.2.ctx ≠ n) →
      (∀ q ∈ s.dev.copies, q.2.ctx ≠ n) →
      ∃ t c', exec (.lttShootdown r) s = .next t ∧ answered s.dev t.dev r 0 [] ∧ ctxAt t.dev n = some c' ∧
        ∀ k e, covered (shootRanges r) k = true → mfind c'.pages k = some e → e.state = 0 ∧ e.phys = none) ∧
    (∀ n c l d, owned s.dev r n c → r.body.length = 256 →
      enqueueLaunch s.dev c.part n r.function.toNat false r.body = .ok (l, d) →
      enqueueHeld s.dev c.part n r.function.toNat r.body = false →
      ∃ t x, exec (.launchRequest r) s = .next t ∧ launchAt t.dev l = some x ∧ x.state = .queued ∧ x.ctx = n ∧
        x.record = parseRecord r.body ∧ x.enqueued = s.dev.now ∧
            answered s.dev t.dev r 0 (natBytes 8 (handleOf x).toNat)) ∧
    (∀ l x, handled' s.dev r l x →
      (r.body.length = 8 → ∃ t, exec (.launchStatus r) s = .next t ∧ answered s.dev t.dev r 0 (statusBody x) ∧
        t.dev.mem = s.dev.mem ∧ t.dev.launches = s.dev.launches) ∧
      (launchAt s.dev l = some x → r.body.length = 16 → fieldAt r.body 8 8 = 0 → x.state = .queued →
          x.record.complRec = 0 →
        x.record.complCtr = 0 → x.waiters = [] → x.parent = none → s.dev.late = [] → metWaits s.dev = [] →
        ∃ t y o, exec (.launchCancel r) s = .next t ∧ answered s.dev t.dev r 0 [] ∧ launchAt t.dev l = some y ∧
          y.state = .complete ∧ y.outcome = some o ∧ o.status = 7) ∧
      (launchAt s.dev l = some x → r.body.length = 16 → fieldAt r.body 8 8 = 0 → x.state = .running →
        ∃ t y, exec (.launchCancel r) s = .next t ∧ answered s.dev t.dev r 0 [] ∧ launchAt t.dev l = some y ∧
          y.cancel = true ∧ y.state = .running ∧ y.tasks = x.tasks ∧
          ((∀ q ∈ s.dev.copies, q.2.issue.launch = l → q.2.paused = none) → y = { x with cancel := true }) ∧
          (msorted s.dev.copies = true → ∀ q ∈ t.dev.copies, q.2.issue.launch = l → q.2.paused = none)) ∧
      (launchAt s.dev l = some x → r.body.length = 16 → fieldAt r.body 8 8 = 1 → x.state = .running → x.stop = none →
        childrenOf s.dev l = [] → launchBusy s.dev l = true → coresOf s.dev l = [] →
        (∀ q ∈ s.dev.copies, q.2.issue.launch = l → q.2.paused = none) →
        ∃ t y st, exec (.launchCancelForce r) s = .next t ∧ t.dev.foreman.replies = s.dev.foreman.replies ∧
          launchAt t.dev l = some y ∧ y.waiters = x.waiters ++ [r] ∧ y.stop = some st ∧ st.status = 7)) ∧
    (∀ n c, owned s.dev r n c →
      let va : Dword := BitVec.ofNat 64 (fieldAt r.body 0 8)
      let len := fieldAt r.body 8 4
      let x := requestLaunch s.dev c n
      let st := x.gang.getD (byteAt r.body 12) 0
      byteAt r.body 12 ≠ 0xFF → metWaits s.dev = [] →
      (∀ ls, memBad s.dev r c false = false → fillRange .read s.dev n va len x st = some s.dev →
         placeBytes s.dev x st .fetch .read va len = .ok ls → readHeld s.dev ls = false →
         rangeFillHeld .read s.dev n va len x st = false → diesAt st ls &&& s.dev.lost = 0 →
        ∃ t, exec (.memRead r) s = .next t ∧ answered s.dev t.dev r 0 (ls.map (readByte s.dev.mem)) ∧
          t.dev.mem = s.dev.mem) ∧
      (∀ ls, memBad s.dev r c true = false → fillRange .write s.dev n va len x st = some s.dev →
        placeBytes s.dev x st .fetch .write va len = .ok ls → lateHeld s.dev (granulesOf ls) = false →
        rangeFillHeld .write s.dev n va len x st = false → diesAt st ls &&& s.dev.lost = 0 →
        wakesNone { s.dev with mem := writeCells s.dev.mem (cellsAt ls (r.body.drop 16)) } →
        ∃ t, exec (.memWrite r) s = .next t ∧ answered s.dev t.dev r 0 [] ∧
          writtenBytes s.dev.mem t.dev.mem (cellsAt ls (r.body.drop 16)) ∧
          ∀ g ∈ granulesOf ls, mget tagZero t.dev.tags g = tagZero)) ∧
    (∀ l x tk sn, handled' s.dev r l x → namedSnap s.dev x (fieldAt r.body 8 4) = some (tk, sn) →
        nonzeroIn r.body 12 4 = false → namedHeld s.dev x (fieldAt r.body 8 4) = false →
      (r.body.length = 16 → ∃ t b, exec (.snapshotRead r) s = .next t ∧ answered s.dev t.dev r 0 b ∧
        b = snapBytes sn ∧ t.dev.mem = s.dev.mem ∧ t.dev.launches = s.dev.launches) ∧
      (launchAt s.dev l = some x → r.body.length = 16 + 2 * imageSize → tk.state = .snapshot →
        imagesBad ((r.body.drop 16).take imageSize) (r.body.drop (16 + imageSize)) = false →
        ∃ t y z b, exec (.snapshotWrite r) s = .next t ∧ answered s.dev t.dev r 0 [] ∧ launchAt t.dev l = some y ∧
          mfind y.tasks (fieldAt r.body 8 4) = some z ∧ z.state = .snapshot ∧
          z.snap = some { snapOfImages sn ((r.body.drop 16).take imageSize) (r.body.drop (16 + imageSize)) with
            stored := b }))

/-- R15, R16, R21, R22, R24, R85, R86: a boot without a valid image enters the recovery state, and one with it registers
the operator; the checked pair that stops hands over, and every request that waits is answered, with RETRY, or with
UNAVAILABLE where no pair is left; a stope that fails stops the
launches that hold it; a channel that retires leaves its partition; and a die that is lost is known, with a pending trap
for the tasks that it touches.
The model's choices in log 9, 29, 31, 32, 33 stand behind it. -/
def Obligations.FailureEvents : Prop :=
  (∀ (failed : BitVec 8) (s : State),
    let record := Config.seedDerived (s.dev.boots + 1) &&
      Config.signatureHolds Config.lumturKey s.dev.module.digest s.dev.module.sign
    ∃ t, exec (.boot failed) s = .next t ∧ t.dev.foreman.booted = true ∧
      t.dev.mem = [] ∧ t.dev.now = 0 ∧ t.dev.launches = [] ∧ t.dev.parts = [] ∧ t.dev.ctxs = [] ∧
      t.dev.module = s.dev.module ∧ t.dev.foreman.recovery = !(record && imageHolds s.dev.module.image) ∧
      (if record then t.dev.lost = failed &&& ~~~8#8 else t.dev.lost = 0) ∧
      (if record && imageHolds s.dev.module.image then
        ∃ e, endpointAt t.dev operatorEnd = some e ∧ e.digest = s.dev.module.operator
       else endpointAt t.dev operatorEnd = none)) ∧
  (∀ s : State, s.dev.foreman.booted = true → s.dev.foreman.pairsLost < 2 →
    let f := s.dev.foreman
    let rs := f.waiting.map (·.req) ++ (s.dev.launches.flatMap fun e => e.2.waiters) ++
      s.dev.ctxs.filterMap fun e => e.2.pending.map (·.req)
    ∃ t e, exec .checkedPairTakeover s = .next t ∧ t.dev.foreman.pairsLost = f.pairsLost + 1 ∧
      t.dev.foreman.logs = f.logs ++ [e] ∧ e.kind = 9 ∧ t.dev.mem = s.dev.mem ∧
      t.dev.foreman.endpoints = f.endpoints ∧
      (∀ r ∈ rs, ∃ y ∈ t.dev.foreman.replies ++ t.dev.foreman.held, repliesTo y r (if f.pairsLost = 0 then 1 else 3) []) ∧
      t.dev.foreman.replies.length + t.dev.foreman.held.length = f.replies.length + f.held.length + rs.length ∧
      t.dev.foreman.waiting = [] ∧ (∀ e ∈ t.dev.launches, e.2.waiters = []) ∧
      ∀ e ∈ t.dev.ctxs, e.2.pending = none) ∧
  (∀ (stope : BitVec 6) (s : State), ∃ t, exec (.stopeFailure stope) s = .next t ∧
    (stopeAt t.dev stope.toNat).failed = true ∧ stopeFree t.dev stope.toNat = false ∧ t.dev.mem = s.dev.mem ∧
    ∀ l x, s.dev.launches = [(l, x)] → holdsStope x stope.toNat = true → x.stop = none → x.parent = none →
      ∃ y st, launchAt t.dev l = some y ∧ y.stop = some st ∧ st.status = statusStopeFailed ∧ st.task = none) ∧
  (∀ (stack : BitVec 3) (chan : BitVec 5) (s : State),
    let c := 32 * stack.toNat + chan.toNat
    (s.dev.module.retired.contains c = false → ∃ t, exec (.hbmChannelRetirement stack chan) s = .next t ∧
      t.dev.module.retired = s.dev.module.retired ++ [c] ∧
      ∀ n p, s.dev.parts = [(n, p)] → ∃ p', partAt t.dev n = some p' ∧ c ∉ p'.channels ∧
        (∀ e ∈ p'.stage2, channelOf e.2 ≠ c) ∧ (∀ g ∈ p'.free, channelOf g ≠ c) ∧ p'.stopes = p.stopes)) ∧
  ∀ (die : BitVec 3) (s : State), s.dev.lost.getLsbD die.toNat = false →
    ∃ t, exec (.dieLoss die) s = .next t ∧ t.dev.lost = s.dev.lost ||| dieBit die.toNat ∧
      (∀ l x i k, die.toNat % 4 ≠ 3 → die.toNat % 4 ≠ 0 → s.dev.launches = [(l, x)] → x.state = .running →
        metWaits s.dev = [] → x.tasks.map (·.1) = [i] → (∀ tk, mfind x.tasks i = some tk → tk.state = .running) →
        (s.dev.ctxs.map (·.1) = [x.ctx]) → (∀ c, ctxAt s.dev x.ctx = some c → c.dmask.getLsbD die.toNat = true) →
        (s.dev.cores.find? fun e => e.2.run == some ⟨l, i⟩ && !e.2.leaving).map (·.1) = some k →
        ∃ n, n ∈ (coreAt t.dev k).notice ∧ n.cause = causeDieLost ∧ n.info = BitVec.ofNat 64 die.toNat)
end

