-- ==== Sys2Proof/Laws/Map.lean ====
section
/-! SUPPORT. The laws of finite maps: reading after writing, and the canonical form. -/

namespace Sys2Proof.Machine

variable {α : Type}

@[simp] theorem mfind_nil (k : Nat) : mfind ([] : SMap α) k = none := rfl

@[simp] theorem mfind_minsert_self (m : SMap α) (k : Nat) (v : α) : mfind (minsert m k v) k = some v := by
  induction m with
  | nil => simp [minsert, mfind]
  | cons e r ih =>
    obtain ⟨j, w⟩ := e
    simp only [minsert]
    split
    · subst j; simp [mfind]
    · split <;> simp_all [mfind]

theorem mfind_minsert_of_ne (m : SMap α) {j k : Nat} (v : α) (h : k ≠ j) : mfind (minsert m j v) k = mfind m k := by
  induction m with
  | nil => simp [minsert, mfind, h]
  | cons e r ih =>
    obtain ⟨i, w⟩ := e
    simp only [minsert]
    split
    · subst i; simp [mfind, h]
    · split
      · simp [mfind, h]
      · simp [mfind, ih]

theorem mfind_minsert (m : SMap α) (j k : Nat) (v : α) :
    mfind (minsert m j v) k = if k = j then some v else mfind m k := by
  split
  · subst k; simp
  · exact mfind_minsert_of_ne m v ‹_›

@[simp] theorem minsert_minsert (m : SMap α) (k : Nat) (v w : α) : minsert (minsert m k v) k w = minsert m k w := by
  induction m with
  | nil => simp [minsert]
  | cons e r ih =>
    obtain ⟨j, u⟩ := e
    simp only [minsert]
    split
    · subst j; simp [minsert]
    · split
      · simp [minsert]
      · next h1 h2 => simp [minsert, h1, h2, ih]

@[simp] theorem mfind_merase_self (m : SMap α) (k : Nat) : mfind (merase m k) k = none := by
  induction m with
  | nil => rfl
  | cons e r ih =>
    obtain ⟨j, u⟩ := e
    unfold merase at *
    by_cases h : j = k
    · subst j; simpa using ih
    · simp [h, mfind, Ne.symm h]; simpa using ih

theorem mfind_merase_of_ne (m : SMap α) {j k : Nat} (h : k ≠ j) : mfind (merase m j) k = mfind m k := by
  induction m with
  | nil => rfl
  | cons e r ih =>
    obtain ⟨i, u⟩ := e
    unfold merase at *
    by_cases hi : i = j
    · subst i; simp [mfind, h]; simpa using ih
    · simp only [bne_iff_ne, ne_eq, hi, not_false_eq_true, List.filter_cons_of_pos, mfind]; rw [ih]

theorem mfind_merase (m : SMap α) (j k : Nat) : mfind (merase m j) k = if k = j then none else mfind m k := by
  split
  · subst k; simp
  · exact mfind_merase_of_ne m ‹_›

theorem mget_mset [DecidableEq α] (d : α) (m : SMap α) (j k : Nat) (v : α) :
    mget d (mset d m j v) k = if k = j then v else mget d m k := by
  unfold mget mset
  split
  · next hv => rw [mfind_merase]; split <;> simp_all
  · rw [mfind_minsert]; split <;> simp_all

@[simp] theorem mget_mset_self [DecidableEq α] (d : α) (m : SMap α) (k : Nat) (v : α) :
    mget d (mset d m k v) k = v := by simp [mget_mset]

theorem mget_mset_of_ne [DecidableEq α] (d : α) (m : SMap α) {j k : Nat} (v : α) (h : k ≠ j) :
    mget d (mset d m j v) k = mget d m k := by simp [mget_mset, h]

theorem mget_minsert (d : α) (m : SMap α) (j k : Nat) (v : α) :
    mget d (minsert m j v) k = if k = j then v else mget d m k := by
  unfold mget; rw [mfind_minsert]; split <;> rfl

@[simp] theorem mget_minsert_self (d : α) (m : SMap α) (k : Nat) (v : α) : mget d (minsert m k v) k = v := by
  simp [mget_minsert]

theorem mfind_mmod (m : SMap α) (j k : Nat) (f : α → α) :
    mfind (mmod m j f) k = if k = j then (mfind m k).map f else mfind m k := by
  unfold mmod
  split
  · next v hv => rw [mfind_minsert]; split <;> simp_all
  · next hv => split <;> simp_all

/-! ## The canonical form -/

theorem mabove_minsert {n k : Nat} {m : SMap α} {v : α} (h : mabove n m) (hk : n < k) : mabove n (minsert m k v) := by
  induction m generalizing n with
  | nil => simp [minsert, mabove, hk]
  | cons e r ih =>
    obtain ⟨j, w⟩ := e
    simp only [mabove, Bool.and_eq_true, decide_eq_true_eq] at h
    simp only [minsert]
    split
    · subst j; simp [mabove, hk, h.2]
    · split
      · simp [mabove, hk, h.2]; omega
      · simp [mabove, h.1]; exact ih h.2 (by omega)

theorem msorted_minsert {k : Nat} {m : SMap α} {v : α} (h : msorted m) : msorted (minsert m k v) := by
  cases m with
  | nil => simp [minsert, msorted, mabove]
  | cons e r =>
    obtain ⟨j, w⟩ := e
    simp only [msorted] at h
    simp only [minsert]
    split
    · subst j; exact h
    · split
      · simp [msorted, mabove, h]; omega
      · exact mabove_minsert h (by omega)

theorem mabove_filter {n : Nat} {m : SMap α} (p : Nat × α → Bool) (h : mabove n m) : mabove n (m.filter p) := by
  induction m generalizing n with
  | nil => rfl
  | cons e r ih =>
    obtain ⟨j, w⟩ := e
    simp only [mabove, Bool.and_eq_true, decide_eq_true_eq] at h
    have weaken : ∀ {a b : Nat} (q : SMap α), a < b → mabove b q → mabove a q := by
      intro a b q hab hq
      cases q with
      | nil => rfl
      | cons e r =>
        simp only [mabove, Bool.and_eq_true, decide_eq_true_eq] at hq ⊢
        exact ⟨by omega, hq.2⟩
    simp only [List.filter_cons]
    split
    · simp [mabove, h.1]; exact ih h.2
    · exact weaken _ h.1 (ih h.2)

theorem msorted_filter {m : SMap α} (p : Nat × α → Bool) (h : msorted m) : msorted (m.filter p) := by
  cases m with
  | nil => rfl
  | cons e r =>
    obtain ⟨j, w⟩ := e
    simp only [msorted] at h
    have := mabove_filter p h
    simp only [List.filter_cons]
    split
    · exact this
    · cases hq : r.filter p with
      | nil => rfl
      | cons e q =>
        rw [hq] at this
        simp only [mabove, Bool.and_eq_true] at this
        exact this.2

theorem mem_minsert {m : SMap α} {k : Nat} {v : α} {e : Nat × α} (h : e ∈ minsert m k v) : e = (k, v) ∨ e ∈ m := by
  induction m with
  | nil => simpa [minsert] using h
  | cons a r ih =>
    obtain ⟨j, w⟩ := a
    simp only [minsert] at h
    split at h
    · simp only [List.mem_cons] at h ⊢; subst j; exact h.imp id .inr
    · split at h
      · simpa using h
      · rcases List.mem_cons.1 h with h | h
        · simp [h]
        · rcases ih h with h | h <;> simp [h]

theorem mcanon_filter [DecidableEq α] {d : α} {m : SMap α} (p : Nat × α → Bool) (h : mcanon d m) :
    mcanon d (m.filter p) := by
  simp only [mcanon, Bool.and_eq_true, List.all_eq_true] at *
  exact ⟨msorted_filter p h.1, fun e he => h.2 e (List.mem_filter.1 he).1⟩

theorem mcanon_mset [DecidableEq α] {d : α} {m : SMap α} (k : Nat) (v : α) (h : mcanon d m) :
    mcanon d (mset d m k v) := by
  unfold mset
  split
  · exact mcanon_filter _ h
  · next hv =>
    simp only [mcanon, Bool.and_eq_true, List.all_eq_true] at *
    refine ⟨msorted_minsert h.1, fun e he => ?_⟩
    rcases mem_minsert he with rfl | he
    · simpa using hv
    · exact h.2 e he

end Sys2Proof.Machine
end

