-- ==== Sys2Proof/Laws/Memory.lean ====
section
/-! SUPPORT. The laws of memory: a read after a write, and the canonical form, which every operation keeps. -/

namespace Sys2Proof.Machine

theorem readByte_writeByte (m : Memory) (a b : Nat) (x : Byte) :
    readByte (writeByte m a x) b = if b = a then x else readByte m b := mget_mset _ _ _ _ _

@[simp] theorem readByte_writeByte_self (m : Memory) (a : Nat) (x : Byte) : readByte (writeByte m a x) a = x := by
  simp [readByte_writeByte]

theorem readByte_writeN_outside (m : Memory) (a n x b : Nat) (h : b < a ∨ a + n ≤ b) :
    readByte (writeN m a n x) b = readByte m b := by
  induction n generalizing m a x with
  | zero => rfl
  | succ n ih =>
    simp only [writeN]
    rw [ih _ _ _ (by omega), readByte_writeByte, if_neg (by omega)]

theorem readN_writeN (m : Memory) (a n x : Nat) : readN (writeN m a n x) a n = x % 256 ^ n := by
  induction n generalizing m a x with
  | zero => simp [readN, Nat.mod_one]
  | succ n ih =>
    simp only [readN, writeN]
    rw [readByte_writeN_outside _ _ _ _ _ (by omega), readByte_writeByte_self, ih]
    simp only [BitVec.toNat_ofNat]
    have : x % 256 ^ (n + 1) = x % 256 + 256 * (x / 256 % 256 ^ n) := by rw [Nat.pow_succ, Nat.mul_comm, Nat.mod_mul]
    omega

theorem readByte_writeCells (m : Memory) (cs : List Host.Cell) (b : Nat) :
    readByte (writeCells m cs) b = match cs.reverse.find? (fun c => c.1 == b) with
      | some c => c.2
      | none => readByte m b := by
  induction cs generalizing m with
  | nil => rfl
  | cons c r ih =>
    have : writeCells m (c :: r) = writeCells (writeByte m c.1 c.2) r := rfl
    rw [this, ih, List.reverse_cons, List.find?_append]
    cases r.reverse.find? fun c => c.1 == b with
    | some e => rfl
    | none =>
      simp only [Option.none_or, List.find?_cons, List.find?_nil]
      rw [readByte_writeByte]
      by_cases h : b = c.1
      · simp [h]
      · simp [h, beq_eq_false_iff_ne.2 (Ne.symm h)]

theorem readByte_scrub (m : Memory) (a n b : Nat) :
    readByte (scrub m a n) b = if a ≤ b ∧ b < a + n then 0 else readByte m b := by
  have key : mfind (scrub m a n) b = if a ≤ b ∧ b < a + n then none else mfind m b := by
    induction m with
    | nil => simp [scrub]
    | cons e r ih =>
      obtain ⟨j, w⟩ := e
      unfold scrub at *
      by_cases hj : a ≤ j ∧ j < a + n
      · have : List.filter (fun c : Host.Cell => !(decide (a ≤ c.1) && decide (c.1 < a + n))) ((j, w) :: r) =
            List.filter (fun c : Host.Cell => !(decide (a ≤ c.1) && decide (c.1 < a + n))) r := by
          simp [hj.1, hj.2]
        rw [this, ih]
        by_cases hb : b = j
        · subst b; simp [hj.1, hj.2]
        · simp [mfind, hb]
      · have : List.filter (fun c : Host.Cell => !(decide (a ≤ c.1) && decide (c.1 < a + n))) ((j, w) :: r) =
            (j, w) :: List.filter (fun c : Host.Cell => !(decide (a ≤ c.1) && decide (c.1 < a + n))) r := by
          apply List.filter_cons_of_pos
          simp only [Bool.not_and, Bool.or_eq_true, Bool.not_eq_true', decide_eq_false_iff_not]
          omega
        rw [this]
        simp only [mfind, ih]
        by_cases hb : b = j
        · subst b; simp; omega
        · simp [hb]
  unfold readByte mget
  rw [key]
  split <;> rfl

/-! ## The canonical form -/

theorem Memory.wf_writeByte {m : Memory} (a : Nat) (x : Byte) (h : Memory.wf m) : Memory.wf (writeByte m a x) :=
  mcanon_mset a x h

theorem Memory.wf_writeN {m : Memory} (a n x : Nat) (h : Memory.wf m) : Memory.wf (writeN m a n x) := by
  induction n generalizing m a x with
  | zero => exact h
  | succ n ih => exact ih _ _ (wf_writeByte _ _ h)

theorem Memory.wf_writeCells {m : Memory} (cs : List Host.Cell) (h : Memory.wf m) : Memory.wf (writeCells m cs) := by
  induction cs generalizing m with
  | nil => exact h
  | cons c r ih => exact ih (wf_writeByte _ _ h)

theorem Memory.wf_writeBytes {m : Memory} (a : Nat) (bs : List Byte) (h : Memory.wf m) :
    Memory.wf (writeBytes m a bs) := by
  induction bs generalizing m a with
  | nil => exact h
  | cons b r ih => exact ih _ (wf_writeByte _ _ h)

theorem Memory.wf_scrub {m : Memory} (a n : Nat) (h : Memory.wf m) : Memory.wf (scrub m a n) := mcanon_filter _ h

theorem Memory.wf_reset : Memory.wf State.reset.dev.mem := rfl

end Sys2Proof.Machine
end

