-- ==== Sys2Proof/Laws/State.lean ====
section
/-! SUPPORT. One lemma for each field and each named update of the state, and what the updates of registers write. -/

namespace Sys2Proof.Machine

/-! ## Updates of the state -/

@[simp] theorem setDev_agenda (s : State) (d : Dev) : (setDev s d).agenda = s.agenda := rfl
@[simp] theorem setLive_agenda (s : State) (c : Core) : (setLive s c).agenda = s.agenda := rfl
@[simp] theorem modLive_agenda (s : State) (f : Core → Core) : (modLive s f).agenda = s.agenda := rfl
@[simp] theorem enqueue_agenda (s : State) (op : WindowOp) : (enqueue s op).agenda = s.agenda := rfl
@[simp] theorem issueFixed_agenda (s : State) (f : RegFile) (n l : Nat) (x : Vec) (fl : Flags) :
    (issueFixed s f n l x fl).agenda = s.agenda := rfl
@[simp] theorem setDev_cur (s : State) (d : Dev) : (setDev s d).cur = s.cur := rfl
@[simp] theorem setLive_cur (s : State) (c : Core) : (setLive s c).cur = s.cur := rfl
@[simp] theorem modLive_cur (s : State) (f : Core → Core) : (modLive s f).cur = s.cur := rfl
@[simp] theorem enqueue_cur (s : State) (op : WindowOp) : (enqueue s op).cur = s.cur := rfl
@[simp] theorem issueFixed_cur (s : State) (f : RegFile) (n l : Nat) (x : Vec) (fl : Flags) :
    (issueFixed s f n l x fl).cur = s.cur := rfl
@[simp] theorem setDev_clause (s : State) (d : Dev) : (setDev s d).clause = s.clause := rfl
@[simp] theorem setLive_clause (s : State) (c : Core) : (setLive s c).clause = s.clause := rfl
@[simp] theorem modLive_clause (s : State) (f : Core → Core) : (modLive s f).clause = s.clause := rfl
@[simp] theorem enqueue_clause (s : State) (op : WindowOp) : (enqueue s op).clause = s.clause := rfl
@[simp] theorem issueFixed_clause (s : State) (f : RegFile) (n l : Nat) (x : Vec) (fl : Flags) :
    (issueFixed s f n l x fl).clause = s.clause := rfl
@[simp] theorem setDev_dev (s : State) (d : Dev) : (setDev s d).dev = d := rfl
@[simp] theorem setLive_dev (s : State) (c : Core) : (setLive s c).dev = putCore s.dev s.cur c := rfl
@[simp] theorem setDev_setDev (s : State) (d e : Dev) : setDev (setDev s d) e = setDev s e := rfl
@[simp] theorem setVerdict_dev (s : State) (v : Verdict) : (setVerdict s v).dev = s.dev := by
  unfold setVerdict; split <;> rfl
@[simp] theorem setVerdict_cur (s : State) (v : Verdict) : (setVerdict s v).cur = s.cur := by
  unfold setVerdict; split <;> rfl
@[simp] theorem setVerdict_agenda (s : State) (v : Verdict) : (setVerdict s v).agenda = s.agenda := by
  unfold setVerdict; split <;> rfl

/-! ## Updates of the device -/

@[simp] theorem putCore_mem (d : Dev) (k : Nat) (c : Core) : (putCore d k c).mem = d.mem := rfl
@[simp] theorem putCore_tags (d : Dev) (k : Nat) (c : Core) : (putCore d k c).tags = d.tags := rfl
@[simp] theorem putCore_arms (d : Dev) (k : Nat) (c : Core) : (putCore d k c).arms = d.arms := rfl
@[simp] theorem putCore_stopes (d : Dev) (k : Nat) (c : Core) : (putCore d k c).stopes = d.stopes := rfl
@[simp] theorem putCore_parts (d : Dev) (k : Nat) (c : Core) : (putCore d k c).parts = d.parts := rfl
@[simp] theorem putCore_ctxs (d : Dev) (k : Nat) (c : Core) : (putCore d k c).ctxs = d.ctxs := rfl
@[simp] theorem putCore_launches (d : Dev) (k : Nat) (c : Core) : (putCore d k c).launches = d.launches := rfl
@[simp] theorem putCore_copies (d : Dev) (k : Nat) (c : Core) : (putCore d k c).copies = d.copies := rfl
@[simp] theorem putCore_fabric (d : Dev) (k : Nat) (c : Core) : (putCore d k c).fabric = d.fabric := rfl
@[simp] theorem putCore_posted (d : Dev) (k : Nat) (c : Core) : (putCore d k c).posted = d.posted := rfl
@[simp] theorem putCore_conns (d : Dev) (k : Nat) (c : Core) : (putCore d k c).conns = d.conns := rfl
@[simp] theorem putCore_agents (d : Dev) (k : Nat) (c : Core) : (putCore d k c).agents = d.agents := rfl
@[simp] theorem putCore_windows (d : Dev) (k : Nat) (c : Core) : (putCore d k c).windows = d.windows := rfl
@[simp] theorem putCore_sent (d : Dev) (k : Nat) (c : Core) : (putCore d k c).sent = d.sent := rfl
@[simp] theorem putCore_groups (d : Dev) (k : Nat) (c : Core) : (putCore d k c).groups = d.groups := rfl
@[simp] theorem putCore_ports (d : Dev) (k : Nat) (c : Core) : (putCore d k c).ports = d.ports := rfl
@[simp] theorem putCore_power (d : Dev) (k : Nat) (c : Core) : (putCore d k c).power = d.power := rfl
@[simp] theorem putCore_dies (d : Dev) (k : Nat) (c : Core) : (putCore d k c).dies = d.dies := rfl
@[simp] theorem putCore_sites (d : Dev) (k : Nat) (c : Core) : (putCore d k c).sites = d.sites := rfl
@[simp] theorem putCore_badSites (d : Dev) (k : Nat) (c : Core) : (putCore d k c).badSites = d.badSites := rfl
@[simp] theorem putCore_foreman (d : Dev) (k : Nat) (c : Core) : (putCore d k c).foreman = d.foreman := rfl
@[simp] theorem putCore_module (d : Dev) (k : Nat) (c : Core) : (putCore d k c).module = d.module := rfl
@[simp] theorem putCore_lost (d : Dev) (k : Nat) (c : Core) : (putCore d k c).lost = d.lost := rfl
@[simp] theorem putCore_late (d : Dev) (k : Nat) (c : Core) : (putCore d k c).late = d.late := rfl
@[simp] theorem putCore_arrivals (d : Dev) (k : Nat) (c : Core) : (putCore d k c).arrivals = d.arrivals := rfl
@[simp] theorem putCore_tickets (d : Dev) (k : Nat) (c : Core) : (putCore d k c).tickets = d.tickets := rfl
@[simp] theorem putCore_erred (d : Dev) (k : Nat) (c : Core) : (putCore d k c).erred = d.erred := rfl
@[simp] theorem putCore_issues (d : Dev) (k : Nat) (c : Core) : (putCore d k c).issues = d.issues := rfl
@[simp] theorem putCore_names (d : Dev) (k : Nat) (c : Core) : (putCore d k c).names = d.names := rfl
@[simp] theorem putCore_now (d : Dev) (k : Nat) (c : Core) : (putCore d k c).now = d.now := rfl
@[simp] theorem putCore_clock (d : Dev) (k : Nat) (c : Core) : (putCore d k c).clock = d.clock := rfl
@[simp] theorem putCore_boots (d : Dev) (k : Nat) (c : Core) : (putCore d k c).boots = d.boots := rfl
@[simp] theorem modCore_mem (d : Dev) (k : Nat) (f : Core → Core) : (modCore d k f).mem = d.mem := rfl
@[simp] theorem modCore_tags (d : Dev) (k : Nat) (f : Core → Core) : (modCore d k f).tags = d.tags := rfl
@[simp] theorem modCore_arms (d : Dev) (k : Nat) (f : Core → Core) : (modCore d k f).arms = d.arms := rfl
@[simp] theorem modCore_stopes (d : Dev) (k : Nat) (f : Core → Core) : (modCore d k f).stopes = d.stopes := rfl
@[simp] theorem modCore_parts (d : Dev) (k : Nat) (f : Core → Core) : (modCore d k f).parts = d.parts := rfl
@[simp] theorem modCore_ctxs (d : Dev) (k : Nat) (f : Core → Core) : (modCore d k f).ctxs = d.ctxs := rfl
@[simp] theorem modCore_launches (d : Dev) (k : Nat) (f : Core → Core) : (modCore d k f).launches = d.launches := rfl
@[simp] theorem modCore_copies (d : Dev) (k : Nat) (f : Core → Core) : (modCore d k f).copies = d.copies := rfl
@[simp] theorem modCore_fabric (d : Dev) (k : Nat) (f : Core → Core) : (modCore d k f).fabric = d.fabric := rfl
@[simp] theorem modCore_posted (d : Dev) (k : Nat) (f : Core → Core) : (modCore d k f).posted = d.posted := rfl
@[simp] theorem modCore_conns (d : Dev) (k : Nat) (f : Core → Core) : (modCore d k f).conns = d.conns := rfl
@[simp] theorem modCore_agents (d : Dev) (k : Nat) (f : Core → Core) : (modCore d k f).agents = d.agents := rfl
@[simp] theorem modCore_windows (d : Dev) (k : Nat) (f : Core → Core) : (modCore d k f).windows = d.windows := rfl
@[simp] theorem modCore_sent (d : Dev) (k : Nat) (f : Core → Core) : (modCore d k f).sent = d.sent := rfl
@[simp] theorem modCore_groups (d : Dev) (k : Nat) (f : Core → Core) : (modCore d k f).groups = d.groups := rfl
@[simp] theorem modCore_ports (d : Dev) (k : Nat) (f : Core → Core) : (modCore d k f).ports = d.ports := rfl
@[simp] theorem modCore_power (d : Dev) (k : Nat) (f : Core → Core) : (modCore d k f).power = d.power := rfl
@[simp] theorem modCore_dies (d : Dev) (k : Nat) (f : Core → Core) : (modCore d k f).dies = d.dies := rfl
@[simp] theorem modCore_sites (d : Dev) (k : Nat) (f : Core → Core) : (modCore d k f).sites = d.sites := rfl
@[simp] theorem modCore_badSites (d : Dev) (k : Nat) (f : Core → Core) : (modCore d k f).badSites = d.badSites := rfl
@[simp] theorem modCore_foreman (d : Dev) (k : Nat) (f : Core → Core) : (modCore d k f).foreman = d.foreman := rfl
@[simp] theorem modCore_module (d : Dev) (k : Nat) (f : Core → Core) : (modCore d k f).module = d.module := rfl
@[simp] theorem modCore_lost (d : Dev) (k : Nat) (f : Core → Core) : (modCore d k f).lost = d.lost := rfl
@[simp] theorem modCore_late (d : Dev) (k : Nat) (f : Core → Core) : (modCore d k f).late = d.late := rfl
@[simp] theorem modCore_arrivals (d : Dev) (k : Nat) (f : Core → Core) : (modCore d k f).arrivals = d.arrivals := rfl
@[simp] theorem modCore_tickets (d : Dev) (k : Nat) (f : Core → Core) : (modCore d k f).tickets = d.tickets := rfl
@[simp] theorem modCore_erred (d : Dev) (k : Nat) (f : Core → Core) : (modCore d k f).erred = d.erred := rfl
@[simp] theorem modCore_issues (d : Dev) (k : Nat) (f : Core → Core) : (modCore d k f).issues = d.issues := rfl
@[simp] theorem modCore_names (d : Dev) (k : Nat) (f : Core → Core) : (modCore d k f).names = d.names := rfl
@[simp] theorem modCore_now (d : Dev) (k : Nat) (f : Core → Core) : (modCore d k f).now = d.now := rfl
@[simp] theorem modCore_clock (d : Dev) (k : Nat) (f : Core → Core) : (modCore d k f).clock = d.clock := rfl
@[simp] theorem modCore_boots (d : Dev) (k : Nat) (f : Core → Core) : (modCore d k f).boots = d.boots := rfl
@[simp] theorem putStope_cores (d : Dev) (n : Nat) (x : Stope) : (putStope d n x).cores = d.cores := rfl
@[simp] theorem putStope_mem (d : Dev) (n : Nat) (x : Stope) : (putStope d n x).mem = d.mem := rfl
@[simp] theorem putStope_tags (d : Dev) (n : Nat) (x : Stope) : (putStope d n x).tags = d.tags := rfl
@[simp] theorem putStope_arms (d : Dev) (n : Nat) (x : Stope) : (putStope d n x).arms = d.arms := rfl
@[simp] theorem putStope_parts (d : Dev) (n : Nat) (x : Stope) : (putStope d n x).parts = d.parts := rfl
@[simp] theorem putStope_ctxs (d : Dev) (n : Nat) (x : Stope) : (putStope d n x).ctxs = d.ctxs := rfl
@[simp] theorem putStope_launches (d : Dev) (n : Nat) (x : Stope) : (putStope d n x).launches = d.launches := rfl
@[simp] theorem putStope_copies (d : Dev) (n : Nat) (x : Stope) : (putStope d n x).copies = d.copies := rfl
@[simp] theorem putStope_fabric (d : Dev) (n : Nat) (x : Stope) : (putStope d n x).fabric = d.fabric := rfl
@[simp] theorem putStope_posted (d : Dev) (n : Nat) (x : Stope) : (putStope d n x).posted = d.posted := rfl
@[simp] theorem putStope_conns (d : Dev) (n : Nat) (x : Stope) : (putStope d n x).conns = d.conns := rfl
@[simp] theorem putStope_agents (d : Dev) (n : Nat) (x : Stope) : (putStope d n x).agents = d.agents := rfl
@[simp] theorem putStope_windows (d : Dev) (n : Nat) (x : Stope) : (putStope d n x).windows = d.windows := rfl
@[simp] theorem putStope_sent (d : Dev) (n : Nat) (x : Stope) : (putStope d n x).sent = d.sent := rfl
@[simp] theorem putStope_groups (d : Dev) (n : Nat) (x : Stope) : (putStope d n x).groups = d.groups := rfl
@[simp] theorem putStope_ports (d : Dev) (n : Nat) (x : Stope) : (putStope d n x).ports = d.ports := rfl
@[simp] theorem putStope_power (d : Dev) (n : Nat) (x : Stope) : (putStope d n x).power = d.power := rfl
@[simp] theorem putStope_dies (d : Dev) (n : Nat) (x : Stope) : (putStope d n x).dies = d.dies := rfl
@[simp] theorem putStope_sites (d : Dev) (n : Nat) (x : Stope) : (putStope d n x).sites = d.sites := rfl
@[simp] theorem putStope_badSites (d : Dev) (n : Nat) (x : Stope) : (putStope d n x).badSites = d.badSites := rfl
@[simp] theorem putStope_foreman (d : Dev) (n : Nat) (x : Stope) : (putStope d n x).foreman = d.foreman := rfl
@[simp] theorem putStope_module (d : Dev) (n : Nat) (x : Stope) : (putStope d n x).module = d.module := rfl
@[simp] theorem putStope_lost (d : Dev) (n : Nat) (x : Stope) : (putStope d n x).lost = d.lost := rfl
@[simp] theorem putStope_late (d : Dev) (n : Nat) (x : Stope) : (putStope d n x).late = d.late := rfl
@[simp] theorem putStope_arrivals (d : Dev) (n : Nat) (x : Stope) : (putStope d n x).arrivals = d.arrivals := rfl
@[simp] theorem putStope_tickets (d : Dev) (n : Nat) (x : Stope) : (putStope d n x).tickets = d.tickets := rfl
@[simp] theorem putStope_erred (d : Dev) (n : Nat) (x : Stope) : (putStope d n x).erred = d.erred := rfl
@[simp] theorem putStope_issues (d : Dev) (n : Nat) (x : Stope) : (putStope d n x).issues = d.issues := rfl
@[simp] theorem putStope_names (d : Dev) (n : Nat) (x : Stope) : (putStope d n x).names = d.names := rfl
@[simp] theorem putStope_now (d : Dev) (n : Nat) (x : Stope) : (putStope d n x).now = d.now := rfl
@[simp] theorem putStope_clock (d : Dev) (n : Nat) (x : Stope) : (putStope d n x).clock = d.clock := rfl
@[simp] theorem putStope_boots (d : Dev) (n : Nat) (x : Stope) : (putStope d n x).boots = d.boots := rfl
@[simp] theorem modStope_cores (d : Dev) (n : Nat) (f : Stope → Stope) : (modStope d n f).cores = d.cores := rfl
@[simp] theorem modStope_mem (d : Dev) (n : Nat) (f : Stope → Stope) : (modStope d n f).mem = d.mem := rfl
@[simp] theorem modStope_tags (d : Dev) (n : Nat) (f : Stope → Stope) : (modStope d n f).tags = d.tags := rfl
@[simp] theorem modStope_arms (d : Dev) (n : Nat) (f : Stope → Stope) : (modStope d n f).arms = d.arms := rfl
@[simp] theorem modStope_parts (d : Dev) (n : Nat) (f : Stope → Stope) : (modStope d n f).parts = d.parts := rfl
@[simp] theorem modStope_ctxs (d : Dev) (n : Nat) (f : Stope → Stope) : (modStope d n f).ctxs = d.ctxs := rfl
@[simp] theorem modStope_launches (d : Dev) (n : Nat) (f : Stope → Stope) : (modStope d n f).launches = d.launches := rfl
@[simp] theorem modStope_copies (d : Dev) (n : Nat) (f : Stope → Stope) : (modStope d n f).copies = d.copies := rfl
@[simp] theorem modStope_fabric (d : Dev) (n : Nat) (f : Stope → Stope) : (modStope d n f).fabric = d.fabric := rfl
@[simp] theorem modStope_posted (d : Dev) (n : Nat) (f : Stope → Stope) : (modStope d n f).posted = d.posted := rfl
@[simp] theorem modStope_conns (d : Dev) (n : Nat) (f : Stope → Stope) : (modStope d n f).conns = d.conns := rfl
@[simp] theorem modStope_agents (d : Dev) (n : Nat) (f : Stope → Stope) : (modStope d n f).agents = d.agents := rfl
@[simp] theorem modStope_windows (d : Dev) (n : Nat) (f : Stope → Stope) : (modStope d n f).windows = d.windows := rfl
@[simp] theorem modStope_sent (d : Dev) (n : Nat) (f : Stope → Stope) : (modStope d n f).sent = d.sent := rfl
@[simp] theorem modStope_groups (d : Dev) (n : Nat) (f : Stope → Stope) : (modStope d n f).groups = d.groups := rfl
@[simp] theorem modStope_ports (d : Dev) (n : Nat) (f : Stope → Stope) : (modStope d n f).ports = d.ports := rfl
@[simp] theorem modStope_power (d : Dev) (n : Nat) (f : Stope → Stope) : (modStope d n f).power = d.power := rfl
@[simp] theorem modStope_dies (d : Dev) (n : Nat) (f : Stope → Stope) : (modStope d n f).dies = d.dies := rfl
@[simp] theorem modStope_sites (d : Dev) (n : Nat) (f : Stope → Stope) : (modStope d n f).sites = d.sites := rfl
@[simp] theorem modStope_badSites (d : Dev) (n : Nat) (f : Stope → Stope) : (modStope d n f).badSites = d.badSites := rfl
@[simp] theorem modStope_foreman (d : Dev) (n : Nat) (f : Stope → Stope) : (modStope d n f).foreman = d.foreman := rfl
@[simp] theorem modStope_module (d : Dev) (n : Nat) (f : Stope → Stope) : (modStope d n f).module = d.module := rfl
@[simp] theorem modStope_lost (d : Dev) (n : Nat) (f : Stope → Stope) : (modStope d n f).lost = d.lost := rfl
@[simp] theorem modStope_late (d : Dev) (n : Nat) (f : Stope → Stope) : (modStope d n f).late = d.late := rfl
@[simp] theorem modStope_arrivals (d : Dev) (n : Nat) (f : Stope → Stope) : (modStope d n f).arrivals = d.arrivals := rfl
@[simp] theorem modStope_tickets (d : Dev) (n : Nat) (f : Stope → Stope) : (modStope d n f).tickets = d.tickets := rfl
@[simp] theorem modStope_erred (d : Dev) (n : Nat) (f : Stope → Stope) : (modStope d n f).erred = d.erred := rfl
@[simp] theorem modStope_issues (d : Dev) (n : Nat) (f : Stope → Stope) : (modStope d n f).issues = d.issues := rfl
@[simp] theorem modStope_names (d : Dev) (n : Nat) (f : Stope → Stope) : (modStope d n f).names = d.names := rfl
@[simp] theorem modStope_now (d : Dev) (n : Nat) (f : Stope → Stope) : (modStope d n f).now = d.now := rfl
@[simp] theorem modStope_clock (d : Dev) (n : Nat) (f : Stope → Stope) : (modStope d n f).clock = d.clock := rfl
@[simp] theorem modStope_boots (d : Dev) (n : Nat) (f : Stope → Stope) : (modStope d n f).boots = d.boots := rfl
@[simp] theorem putLaunch_cores (d : Dev) (l : Nat) (x : Launch) : (putLaunch d l x).cores = d.cores := rfl
@[simp] theorem putLaunch_mem (d : Dev) (l : Nat) (x : Launch) : (putLaunch d l x).mem = d.mem := rfl
@[simp] theorem putLaunch_tags (d : Dev) (l : Nat) (x : Launch) : (putLaunch d l x).tags = d.tags := rfl
@[simp] theorem putLaunch_arms (d : Dev) (l : Nat) (x : Launch) : (putLaunch d l x).arms = d.arms := rfl
@[simp] theorem putLaunch_stopes (d : Dev) (l : Nat) (x : Launch) : (putLaunch d l x).stopes = d.stopes := rfl
@[simp] theorem putLaunch_parts (d : Dev) (l : Nat) (x : Launch) : (putLaunch d l x).parts = d.parts := rfl
@[simp] theorem putLaunch_ctxs (d : Dev) (l : Nat) (x : Launch) : (putLaunch d l x).ctxs = d.ctxs := rfl
@[simp] theorem putLaunch_copies (d : Dev) (l : Nat) (x : Launch) : (putLaunch d l x).copies = d.copies := rfl
@[simp] theorem putLaunch_fabric (d : Dev) (l : Nat) (x : Launch) : (putLaunch d l x).fabric = d.fabric := rfl
@[simp] theorem putLaunch_posted (d : Dev) (l : Nat) (x : Launch) : (putLaunch d l x).posted = d.posted := rfl
@[simp] theorem putLaunch_conns (d : Dev) (l : Nat) (x : Launch) : (putLaunch d l x).conns = d.conns := rfl
@[simp] theorem putLaunch_agents (d : Dev) (l : Nat) (x : Launch) : (putLaunch d l x).agents = d.agents := rfl
@[simp] theorem putLaunch_windows (d : Dev) (l : Nat) (x : Launch) : (putLaunch d l x).windows = d.windows := rfl
@[simp] theorem putLaunch_sent (d : Dev) (l : Nat) (x : Launch) : (putLaunch d l x).sent = d.sent := rfl
@[simp] theorem putLaunch_groups (d : Dev) (l : Nat) (x : Launch) : (putLaunch d l x).groups = d.groups := rfl
@[simp] theorem putLaunch_ports (d : Dev) (l : Nat) (x : Launch) : (putLaunch d l x).ports = d.ports := rfl
@[simp] theorem putLaunch_power (d : Dev) (l : Nat) (x : Launch) : (putLaunch d l x).power = d.power := rfl
@[simp] theorem putLaunch_dies (d : Dev) (l : Nat) (x : Launch) : (putLaunch d l x).dies = d.dies := rfl
@[simp] theorem putLaunch_sites (d : Dev) (l : Nat) (x : Launch) : (putLaunch d l x).sites = d.sites := rfl
@[simp] theorem putLaunch_badSites (d : Dev) (l : Nat) (x : Launch) : (putLaunch d l x).badSites = d.badSites := rfl
@[simp] theorem putLaunch_foreman (d : Dev) (l : Nat) (x : Launch) : (putLaunch d l x).foreman = d.foreman := rfl
@[simp] theorem putLaunch_module (d : Dev) (l : Nat) (x : Launch) : (putLaunch d l x).module = d.module := rfl
@[simp] theorem putLaunch_lost (d : Dev) (l : Nat) (x : Launch) : (putLaunch d l x).lost = d.lost := rfl
@[simp] theorem putLaunch_late (d : Dev) (l : Nat) (x : Launch) : (putLaunch d l x).late = d.late := rfl
@[simp] theorem putLaunch_arrivals (d : Dev) (l : Nat) (x : Launch) : (putLaunch d l x).arrivals = d.arrivals := rfl
@[simp] theorem putLaunch_tickets (d : Dev) (l : Nat) (x : Launch) : (putLaunch d l x).tickets = d.tickets := rfl
@[simp] theorem putLaunch_erred (d : Dev) (l : Nat) (x : Launch) : (putLaunch d l x).erred = d.erred := rfl
@[simp] theorem putLaunch_issues (d : Dev) (l : Nat) (x : Launch) : (putLaunch d l x).issues = d.issues := rfl
@[simp] theorem putLaunch_names (d : Dev) (l : Nat) (x : Launch) : (putLaunch d l x).names = d.names := rfl
@[simp] theorem putLaunch_now (d : Dev) (l : Nat) (x : Launch) : (putLaunch d l x).now = d.now := rfl
@[simp] theorem putLaunch_clock (d : Dev) (l : Nat) (x : Launch) : (putLaunch d l x).clock = d.clock := rfl
@[simp] theorem putLaunch_boots (d : Dev) (l : Nat) (x : Launch) : (putLaunch d l x).boots = d.boots := rfl
@[simp] theorem modLaunch_cores (d : Dev) (l : Nat) (f : Launch → Launch) : (modLaunch d l f).cores = d.cores := rfl
@[simp] theorem modLaunch_mem (d : Dev) (l : Nat) (f : Launch → Launch) : (modLaunch d l f).mem = d.mem := rfl
@[simp] theorem modLaunch_tags (d : Dev) (l : Nat) (f : Launch → Launch) : (modLaunch d l f).tags = d.tags := rfl
@[simp] theorem modLaunch_arms (d : Dev) (l : Nat) (f : Launch → Launch) : (modLaunch d l f).arms = d.arms := rfl
@[simp] theorem modLaunch_stopes (d : Dev) (l : Nat) (f : Launch → Launch) : (modLaunch d l f).stopes = d.stopes := rfl
@[simp] theorem modLaunch_parts (d : Dev) (l : Nat) (f : Launch → Launch) : (modLaunch d l f).parts = d.parts := rfl
@[simp] theorem modLaunch_ctxs (d : Dev) (l : Nat) (f : Launch → Launch) : (modLaunch d l f).ctxs = d.ctxs := rfl
@[simp] theorem modLaunch_copies (d : Dev) (l : Nat) (f : Launch → Launch) : (modLaunch d l f).copies = d.copies := rfl
@[simp] theorem modLaunch_fabric (d : Dev) (l : Nat) (f : Launch → Launch) : (modLaunch d l f).fabric = d.fabric := rfl
@[simp] theorem modLaunch_posted (d : Dev) (l : Nat) (f : Launch → Launch) : (modLaunch d l f).posted = d.posted := rfl
@[simp] theorem modLaunch_conns (d : Dev) (l : Nat) (f : Launch → Launch) : (modLaunch d l f).conns = d.conns := rfl
@[simp] theorem modLaunch_agents (d : Dev) (l : Nat) (f : Launch → Launch) : (modLaunch d l f).agents = d.agents := rfl
@[simp] theorem modLaunch_windows (d : Dev) (l : Nat) (f : Launch → Launch) : (modLaunch d l f).windows = d.windows := rfl
@[simp] theorem modLaunch_sent (d : Dev) (l : Nat) (f : Launch → Launch) : (modLaunch d l f).sent = d.sent := rfl
@[simp] theorem modLaunch_groups (d : Dev) (l : Nat) (f : Launch → Launch) : (modLaunch d l f).groups = d.groups := rfl
@[simp] theorem modLaunch_ports (d : Dev) (l : Nat) (f : Launch → Launch) : (modLaunch d l f).ports = d.ports := rfl
@[simp] theorem modLaunch_power (d : Dev) (l : Nat) (f : Launch → Launch) : (modLaunch d l f).power = d.power := rfl
@[simp] theorem modLaunch_dies (d : Dev) (l : Nat) (f : Launch → Launch) : (modLaunch d l f).dies = d.dies := rfl
@[simp] theorem modLaunch_sites (d : Dev) (l : Nat) (f : Launch → Launch) : (modLaunch d l f).sites = d.sites := rfl
@[simp] theorem modLaunch_badSites (d : Dev) (l : Nat) (f : Launch → Launch) : (modLaunch d l f).badSites = d.badSites := rfl
@[simp] theorem modLaunch_foreman (d : Dev) (l : Nat) (f : Launch → Launch) : (modLaunch d l f).foreman = d.foreman := rfl
@[simp] theorem modLaunch_module (d : Dev) (l : Nat) (f : Launch → Launch) : (modLaunch d l f).module = d.module := rfl
@[simp] theorem modLaunch_lost (d : Dev) (l : Nat) (f : Launch → Launch) : (modLaunch d l f).lost = d.lost := rfl
@[simp] theorem modLaunch_late (d : Dev) (l : Nat) (f : Launch → Launch) : (modLaunch d l f).late = d.late := rfl
@[simp] theorem modLaunch_arrivals (d : Dev) (l : Nat) (f : Launch → Launch) : (modLaunch d l f).arrivals = d.arrivals := rfl
@[simp] theorem modLaunch_tickets (d : Dev) (l : Nat) (f : Launch → Launch) : (modLaunch d l f).tickets = d.tickets := rfl
@[simp] theorem modLaunch_erred (d : Dev) (l : Nat) (f : Launch → Launch) : (modLaunch d l f).erred = d.erred := rfl
@[simp] theorem modLaunch_issues (d : Dev) (l : Nat) (f : Launch → Launch) : (modLaunch d l f).issues = d.issues := rfl
@[simp] theorem modLaunch_names (d : Dev) (l : Nat) (f : Launch → Launch) : (modLaunch d l f).names = d.names := rfl
@[simp] theorem modLaunch_now (d : Dev) (l : Nat) (f : Launch → Launch) : (modLaunch d l f).now = d.now := rfl
@[simp] theorem modLaunch_clock (d : Dev) (l : Nat) (f : Launch → Launch) : (modLaunch d l f).clock = d.clock := rfl
@[simp] theorem modLaunch_boots (d : Dev) (l : Nat) (f : Launch → Launch) : (modLaunch d l f).boots = d.boots := rfl
@[simp] theorem modTask_cores (d : Dev) (l i : Nat) (f : Task → Task) : (modTask d l i f).cores = d.cores := rfl
@[simp] theorem modTask_mem (d : Dev) (l i : Nat) (f : Task → Task) : (modTask d l i f).mem = d.mem := rfl
@[simp] theorem modTask_tags (d : Dev) (l i : Nat) (f : Task → Task) : (modTask d l i f).tags = d.tags := rfl
@[simp] theorem modTask_arms (d : Dev) (l i : Nat) (f : Task → Task) : (modTask d l i f).arms = d.arms := rfl
@[simp] theorem modTask_stopes (d : Dev) (l i : Nat) (f : Task → Task) : (modTask d l i f).stopes = d.stopes := rfl
@[simp] theorem modTask_parts (d : Dev) (l i : Nat) (f : Task → Task) : (modTask d l i f).parts = d.parts := rfl
@[simp] theorem modTask_ctxs (d : Dev) (l i : Nat) (f : Task → Task) : (modTask d l i f).ctxs = d.ctxs := rfl
@[simp] theorem modTask_copies (d : Dev) (l i : Nat) (f : Task → Task) : (modTask d l i f).copies = d.copies := rfl
@[simp] theorem modTask_fabric (d : Dev) (l i : Nat) (f : Task → Task) : (modTask d l i f).fabric = d.fabric := rfl
@[simp] theorem modTask_posted (d : Dev) (l i : Nat) (f : Task → Task) : (modTask d l i f).posted = d.posted := rfl
@[simp] theorem modTask_conns (d : Dev) (l i : Nat) (f : Task → Task) : (modTask d l i f).conns = d.conns := rfl
@[simp] theorem modTask_agents (d : Dev) (l i : Nat) (f : Task → Task) : (modTask d l i f).agents = d.agents := rfl
@[simp] theorem modTask_windows (d : Dev) (l i : Nat) (f : Task → Task) : (modTask d l i f).windows = d.windows := rfl
@[simp] theorem modTask_sent (d : Dev) (l i : Nat) (f : Task → Task) : (modTask d l i f).sent = d.sent := rfl
@[simp] theorem modTask_groups (d : Dev) (l i : Nat) (f : Task → Task) : (modTask d l i f).groups = d.groups := rfl
@[simp] theorem modTask_ports (d : Dev) (l i : Nat) (f : Task → Task) : (modTask d l i f).ports = d.ports := rfl
@[simp] theorem modTask_power (d : Dev) (l i : Nat) (f : Task → Task) : (modTask d l i f).power = d.power := rfl
@[simp] theorem modTask_dies (d : Dev) (l i : Nat) (f : Task → Task) : (modTask d l i f).dies = d.dies := rfl
@[simp] theorem modTask_sites (d : Dev) (l i : Nat) (f : Task → Task) : (modTask d l i f).sites = d.sites := rfl
@[simp] theorem modTask_badSites (d : Dev) (l i : Nat) (f : Task → Task) : (modTask d l i f).badSites = d.badSites := rfl
@[simp] theorem modTask_foreman (d : Dev) (l i : Nat) (f : Task → Task) : (modTask d l i f).foreman = d.foreman := rfl
@[simp] theorem modTask_module (d : Dev) (l i : Nat) (f : Task → Task) : (modTask d l i f).module = d.module := rfl
@[simp] theorem modTask_lost (d : Dev) (l i : Nat) (f : Task → Task) : (modTask d l i f).lost = d.lost := rfl
@[simp] theorem modTask_late (d : Dev) (l i : Nat) (f : Task → Task) : (modTask d l i f).late = d.late := rfl
@[simp] theorem modTask_arrivals (d : Dev) (l i : Nat) (f : Task → Task) : (modTask d l i f).arrivals = d.arrivals := rfl
@[simp] theorem modTask_tickets (d : Dev) (l i : Nat) (f : Task → Task) : (modTask d l i f).tickets = d.tickets := rfl
@[simp] theorem modTask_erred (d : Dev) (l i : Nat) (f : Task → Task) : (modTask d l i f).erred = d.erred := rfl
@[simp] theorem modTask_issues (d : Dev) (l i : Nat) (f : Task → Task) : (modTask d l i f).issues = d.issues := rfl
@[simp] theorem modTask_names (d : Dev) (l i : Nat) (f : Task → Task) : (modTask d l i f).names = d.names := rfl
@[simp] theorem modTask_now (d : Dev) (l i : Nat) (f : Task → Task) : (modTask d l i f).now = d.now := rfl
@[simp] theorem modTask_clock (d : Dev) (l i : Nat) (f : Task → Task) : (modTask d l i f).clock = d.clock := rfl
@[simp] theorem modTask_boots (d : Dev) (l i : Nat) (f : Task → Task) : (modTask d l i f).boots = d.boots := rfl
@[simp] theorem touchDies_cores (d : Dev) (x : Nat) (b : Byte) : (touchDies d x b).cores = d.cores := rfl
@[simp] theorem touchDies_mem (d : Dev) (x : Nat) (b : Byte) : (touchDies d x b).mem = d.mem := rfl
@[simp] theorem touchDies_tags (d : Dev) (x : Nat) (b : Byte) : (touchDies d x b).tags = d.tags := rfl
@[simp] theorem touchDies_arms (d : Dev) (x : Nat) (b : Byte) : (touchDies d x b).arms = d.arms := rfl
@[simp] theorem touchDies_stopes (d : Dev) (x : Nat) (b : Byte) : (touchDies d x b).stopes = d.stopes := rfl
@[simp] theorem touchDies_parts (d : Dev) (x : Nat) (b : Byte) : (touchDies d x b).parts = d.parts := rfl
@[simp] theorem touchDies_launches (d : Dev) (x : Nat) (b : Byte) : (touchDies d x b).launches = d.launches := rfl
@[simp] theorem touchDies_copies (d : Dev) (x : Nat) (b : Byte) : (touchDies d x b).copies = d.copies := rfl
@[simp] theorem touchDies_fabric (d : Dev) (x : Nat) (b : Byte) : (touchDies d x b).fabric = d.fabric := rfl
@[simp] theorem touchDies_posted (d : Dev) (x : Nat) (b : Byte) : (touchDies d x b).posted = d.posted := rfl
@[simp] theorem touchDies_conns (d : Dev) (x : Nat) (b : Byte) : (touchDies d x b).conns = d.conns := rfl
@[simp] theorem touchDies_agents (d : Dev) (x : Nat) (b : Byte) : (touchDies d x b).agents = d.agents := rfl
@[simp] theorem touchDies_windows (d : Dev) (x : Nat) (b : Byte) : (touchDies d x b).windows = d.windows := rfl
@[simp] theorem touchDies_sent (d : Dev) (x : Nat) (b : Byte) : (touchDies d x b).sent = d.sent := rfl
@[simp] theorem touchDies_groups (d : Dev) (x : Nat) (b : Byte) : (touchDies d x b).groups = d.groups := rfl
@[simp] theorem touchDies_ports (d : Dev) (x : Nat) (b : Byte) : (touchDies d x b).ports = d.ports := rfl
@[simp] theorem touchDies_power (d : Dev) (x : Nat) (b : Byte) : (touchDies d x b).power = d.power := rfl
@[simp] theorem touchDies_dies (d : Dev) (x : Nat) (b : Byte) : (touchDies d x b).dies = d.dies := rfl
@[simp] theorem touchDies_sites (d : Dev) (x : Nat) (b : Byte) : (touchDies d x b).sites = d.sites := rfl
@[simp] theorem touchDies_badSites (d : Dev) (x : Nat) (b : Byte) : (touchDies d x b).badSites = d.badSites := rfl
@[simp] theorem touchDies_foreman (d : Dev) (x : Nat) (b : Byte) : (touchDies d x b).foreman = d.foreman := rfl
@[simp] theorem touchDies_module (d : Dev) (x : Nat) (b : Byte) : (touchDies d x b).module = d.module := rfl
@[simp] theorem touchDies_lost (d : Dev) (x : Nat) (b : Byte) : (touchDies d x b).lost = d.lost := rfl
@[simp] theorem touchDies_late (d : Dev) (x : Nat) (b : Byte) : (touchDies d x b).late = d.late := rfl
@[simp] theorem touchDies_arrivals (d : Dev) (x : Nat) (b : Byte) : (touchDies d x b).arrivals = d.arrivals := rfl
@[simp] theorem touchDies_tickets (d : Dev) (x : Nat) (b : Byte) : (touchDies d x b).tickets = d.tickets := rfl
@[simp] theorem touchDies_erred (d : Dev) (x : Nat) (b : Byte) : (touchDies d x b).erred = d.erred := rfl
@[simp] theorem touchDies_issues (d : Dev) (x : Nat) (b : Byte) : (touchDies d x b).issues = d.issues := rfl
@[simp] theorem touchDies_names (d : Dev) (x : Nat) (b : Byte) : (touchDies d x b).names = d.names := rfl
@[simp] theorem touchDies_now (d : Dev) (x : Nat) (b : Byte) : (touchDies d x b).now = d.now := rfl
@[simp] theorem touchDies_clock (d : Dev) (x : Nat) (b : Byte) : (touchDies d x b).clock = d.clock := rfl
@[simp] theorem touchDies_boots (d : Dev) (x : Nat) (b : Byte) : (touchDies d x b).boots = d.boots := rfl
@[simp] theorem stopLaunch_cores (d : Dev) (l : Nat) (st : Stop) : (stopLaunch d l st).cores = d.cores := rfl
@[simp] theorem stopLaunch_mem (d : Dev) (l : Nat) (st : Stop) : (stopLaunch d l st).mem = d.mem := rfl
@[simp] theorem stopLaunch_tags (d : Dev) (l : Nat) (st : Stop) : (stopLaunch d l st).tags = d.tags := rfl
@[simp] theorem stopLaunch_arms (d : Dev) (l : Nat) (st : Stop) : (stopLaunch d l st).arms = d.arms := rfl
@[simp] theorem stopLaunch_stopes (d : Dev) (l : Nat) (st : Stop) : (stopLaunch d l st).stopes = d.stopes := rfl
@[simp] theorem stopLaunch_parts (d : Dev) (l : Nat) (st : Stop) : (stopLaunch d l st).parts = d.parts := rfl
@[simp] theorem stopLaunch_ctxs (d : Dev) (l : Nat) (st : Stop) : (stopLaunch d l st).ctxs = d.ctxs := rfl
@[simp] theorem stopLaunch_copies (d : Dev) (l : Nat) (st : Stop) : (stopLaunch d l st).copies = d.copies := rfl
@[simp] theorem stopLaunch_fabric (d : Dev) (l : Nat) (st : Stop) : (stopLaunch d l st).fabric = d.fabric := rfl
@[simp] theorem stopLaunch_posted (d : Dev) (l : Nat) (st : Stop) : (stopLaunch d l st).posted = d.posted := rfl
@[simp] theorem stopLaunch_conns (d : Dev) (l : Nat) (st : Stop) : (stopLaunch d l st).conns = d.conns := rfl
@[simp] theorem stopLaunch_agents (d : Dev) (l : Nat) (st : Stop) : (stopLaunch d l st).agents = d.agents := rfl
@[simp] theorem stopLaunch_windows (d : Dev) (l : Nat) (st : Stop) : (stopLaunch d l st).windows = d.windows := rfl
@[simp] theorem stopLaunch_sent (d : Dev) (l : Nat) (st : Stop) : (stopLaunch d l st).sent = d.sent := rfl
@[simp] theorem stopLaunch_groups (d : Dev) (l : Nat) (st : Stop) : (stopLaunch d l st).groups = d.groups := rfl
@[simp] theorem stopLaunch_ports (d : Dev) (l : Nat) (st : Stop) : (stopLaunch d l st).ports = d.ports := rfl
@[simp] theorem stopLaunch_power (d : Dev) (l : Nat) (st : Stop) : (stopLaunch d l st).power = d.power := rfl
@[simp] theorem stopLaunch_dies (d : Dev) (l : Nat) (st : Stop) : (stopLaunch d l st).dies = d.dies := rfl
@[simp] theorem stopLaunch_sites (d : Dev) (l : Nat) (st : Stop) : (stopLaunch d l st).sites = d.sites := rfl
@[simp] theorem stopLaunch_badSites (d : Dev) (l : Nat) (st : Stop) : (stopLaunch d l st).badSites = d.badSites := rfl
@[simp] theorem stopLaunch_foreman (d : Dev) (l : Nat) (st : Stop) : (stopLaunch d l st).foreman = d.foreman := rfl
@[simp] theorem stopLaunch_module (d : Dev) (l : Nat) (st : Stop) : (stopLaunch d l st).module = d.module := rfl
@[simp] theorem stopLaunch_lost (d : Dev) (l : Nat) (st : Stop) : (stopLaunch d l st).lost = d.lost := rfl
@[simp] theorem stopLaunch_late (d : Dev) (l : Nat) (st : Stop) : (stopLaunch d l st).late = d.late := rfl
@[simp] theorem stopLaunch_arrivals (d : Dev) (l : Nat) (st : Stop) : (stopLaunch d l st).arrivals = d.arrivals := rfl
@[simp] theorem stopLaunch_tickets (d : Dev) (l : Nat) (st : Stop) : (stopLaunch d l st).tickets = d.tickets := rfl
@[simp] theorem stopLaunch_erred (d : Dev) (l : Nat) (st : Stop) : (stopLaunch d l st).erred = d.erred := rfl
@[simp] theorem stopLaunch_issues (d : Dev) (l : Nat) (st : Stop) : (stopLaunch d l st).issues = d.issues := rfl
@[simp] theorem stopLaunch_names (d : Dev) (l : Nat) (st : Stop) : (stopLaunch d l st).names = d.names := rfl
@[simp] theorem stopLaunch_now (d : Dev) (l : Nat) (st : Stop) : (stopLaunch d l st).now = d.now := rfl
@[simp] theorem stopLaunch_clock (d : Dev) (l : Nat) (st : Stop) : (stopLaunch d l st).clock = d.clock := rfl
@[simp] theorem stopLaunch_boots (d : Dev) (l : Nat) (st : Stop) : (stopLaunch d l st).boots = d.boots := rfl

@[simp] theorem coreAt_putCore_self (d : Dev) (k : Nat) (c : Core) : coreAt (putCore d k c) k = c := by
  simp [coreAt, putCore]

theorem coreAt_putCore_of_ne (d : Dev) {j k : Nat} (c : Core) (h : k ≠ j) : coreAt (putCore d j c) k = coreAt d k := by
  simp [coreAt, putCore, mget_minsert, h]

@[simp] theorem putCore_putCore (d : Dev) (k : Nat) (c e : Core) : putCore (putCore d k c) k e = putCore d k e := by
  simp [putCore]

@[simp] theorem live_setLive (s : State) (c : Core) : live (setLive s c) = c := by simp [live]

@[simp] theorem setLive_setLive (s : State) (c e : Core) : setLive (setLive s c) e = setLive s e := by
  simp [setLive, setDev]

theorem modLive_eq (s : State) (f : Core → Core) : modLive s f = setLive s (f (live s)) := rfl

theorem src_of_clause_none {s : State} (h : s.clause = none) : src s = live s := by simp [src, srcDev, live, h]

theorem srcDev_of_clause_none {s : State} (h : s.clause = none) : srcDev s = s.dev := by simp [srcDev, h]

/-! ## Updates of a core -/

@[simp] theorem writeReg_run (c : Core) (f : RegFile) (n : Nat) (x : Vec) : (writeReg c f n x).run = c.run := by
  unfold writeReg; (repeat' split) <;> rfl
@[simp] theorem writeReg_leaving (c : Core) (f : RegFile) (n : Nat) (x : Vec) : (writeReg c f n x).leaving = c.leaving := by
  unfold writeReg; (repeat' split) <;> rfl
@[simp] theorem writeReg_pc (c : Core) (f : RegFile) (n : Nat) (x : Vec) : (writeReg c f n x).pc = c.pc := by
  unfold writeReg; (repeat' split) <;> rfl
@[simp] theorem writeReg_empty (c : Core) (f : RegFile) (n : Nat) (x : Vec) : (writeReg c f n x).empty = c.empty := by
  unfold writeReg; (repeat' split) <;> rfl
@[simp] theorem writeReg_owner (c : Core) (f : RegFile) (n : Nat) (x : Vec) : (writeReg c f n x).owner = c.owner := by
  unfold writeReg; (repeat' split) <;> rfl
@[simp] theorem writeReg_flights (c : Core) (f : RegFile) (n : Nat) (x : Vec) : (writeReg c f n x).flights = c.flights := by
  unfold writeReg; (repeat' split) <;> rfl
@[simp] theorem writeReg_fflags (c : Core) (f : RegFile) (n : Nat) (x : Vec) : (writeReg c f n x).fflags = c.fflags := by
  unfold writeReg; (repeat' split) <;> rfl
@[simp] theorem writeReg_frm (c : Core) (f : RegFile) (n : Nat) (x : Vec) : (writeReg c f n x).frm = c.frm := by
  unfold writeReg; (repeat' split) <;> rfl
@[simp] theorem writeReg_seed (c : Core) (f : RegFile) (n : Nat) (x : Vec) : (writeReg c f n x).seed = c.seed := by
  unfold writeReg; (repeat' split) <;> rfl
@[simp] theorem writeReg_tvec (c : Core) (f : RegFile) (n : Nat) (x : Vec) : (writeReg c f n x).tvec = c.tvec := by
  unfold writeReg; (repeat' split) <;> rfl
@[simp] theorem writeReg_tcause (c : Core) (f : RegFile) (n : Nat) (x : Vec) : (writeReg c f n x).tcause = c.tcause := by
  unfold writeReg; (repeat' split) <;> rfl
@[simp] theorem writeReg_noResume (c : Core) (f : RegFile) (n : Nat) (x : Vec) : (writeReg c f n x).noResume = c.noResume := by
  unfold writeReg; (repeat' split) <;> rfl
@[simp] theorem writeReg_tinfo (c : Core) (f : RegFile) (n : Nat) (x : Vec) : (writeReg c f n x).tinfo = c.tinfo := by
  unfold writeReg; (repeat' split) <;> rfl
@[simp] theorem writeReg_riskEn (c : Core) (f : RegFile) (n : Nat) (x : Vec) : (writeReg c f n x).riskEn = c.riskEn := by
  unfold writeReg; (repeat' split) <;> rfl
@[simp] theorem writeReg_riskPend (c : Core) (f : RegFile) (n : Nat) (x : Vec) : (writeReg c f n x).riskPend = c.riskPend := by
  unfold writeReg; (repeat' split) <;> rfl
@[simp] theorem writeReg_risk (c : Core) (f : RegFile) (n : Nat) (x : Vec) : (writeReg c f n x).risk = c.risk := by
  unfold writeReg; (repeat' split) <;> rfl
@[simp] theorem writeReg_limit (c : Core) (f : RegFile) (n : Nat) (x : Vec) : (writeReg c f n x).limit = c.limit := by
  unfold writeReg; (repeat' split) <;> rfl
@[simp] theorem writeReg_gpc (c : Core) (f : RegFile) (n : Nat) (x : Vec) : (writeReg c f n x).gpc = c.gpc := by
  unfold writeReg; (repeat' split) <;> rfl
@[simp] theorem writeReg_glink (c : Core) (f : RegFile) (n : Nat) (x : Vec) : (writeReg c f n x).glink = c.glink := by
  unfold writeReg; (repeat' split) <;> rfl
@[simp] theorem writeReg_lc (c : Core) (f : RegFile) (n : Nat) (x : Vec) : (writeReg c f n x).lc = c.lc := by
  unfold writeReg; (repeat' split) <;> rfl
@[simp] theorem writeReg_ec (c : Core) (f : RegFile) (n : Nat) (x : Vec) : (writeReg c f n x).ec = c.ec := by
  unfold writeReg; (repeat' split) <;> rfl
@[simp] theorem writeReg_rrb (c : Core) (f : RegFile) (n : Nat) (x : Vec) : (writeReg c f n x).rrb = c.rrb := by
  unfold writeReg; (repeat' split) <;> rfl
@[simp] theorem writeReg_lstart (c : Core) (f : RegFile) (n : Nat) (x : Vec) : (writeReg c f n x).lstart = c.lstart := by
  unfold writeReg; (repeat' split) <;> rfl
@[simp] theorem writeReg_lend (c : Core) (f : RegFile) (n : Nat) (x : Vec) : (writeReg c f n x).lend = c.lend := by
  unfold writeReg; (repeat' split) <;> rfl
@[simp] theorem writeReg_active (c : Core) (f : RegFile) (n : Nat) (x : Vec) : (writeReg c f n x).active = c.active := by
  unfold writeReg; (repeat' split) <;> rfl
@[simp] theorem writeReg_lgpc (c : Core) (f : RegFile) (n : Nat) (x : Vec) : (writeReg c f n x).lgpc = c.lgpc := by
  unfold writeReg; (repeat' split) <;> rfl
@[simp] theorem writeReg_inHandler (c : Core) (f : RegFile) (n : Nat) (x : Vec) : (writeReg c f n x).inHandler = c.inHandler := by
  unfold writeReg; (repeat' split) <;> rfl
@[simp] theorem writeReg_fresh (c : Core) (f : RegFile) (n : Nat) (x : Vec) : (writeReg c f n x).fresh = c.fresh := by
  unfold writeReg; (repeat' split) <;> rfl
@[simp] theorem writeReg_latch (c : Core) (f : RegFile) (n : Nat) (x : Vec) : (writeReg c f n x).latch = c.latch := by
  unfold writeReg; (repeat' split) <;> rfl
@[simp] theorem writeReg_notice (c : Core) (f : RegFile) (n : Nat) (x : Vec) : (writeReg c f n x).notice = c.notice := by
  unfold writeReg; (repeat' split) <;> rfl
@[simp] theorem writeReg_window (c : Core) (f : RegFile) (n : Nat) (x : Vec) : (writeReg c f n x).window = c.window := by
  unfold writeReg; (repeat' split) <;> rfl
@[simp] theorem writeReg_acks (c : Core) (f : RegFile) (n : Nat) (x : Vec) : (writeReg c f n x).acks = c.acks := by
  unfold writeReg; (repeat' split) <;> rfl
@[simp] theorem writeReg_epoch (c : Core) (f : RegFile) (n : Nat) (x : Vec) : (writeReg c f n x).epoch = c.epoch := by
  unfold writeReg; (repeat' split) <;> rfl
@[simp] theorem writeReg_acq (c : Core) (f : RegFile) (n : Nat) (x : Vec) : (writeReg c f n x).acq = c.acq := by
  unfold writeReg; (repeat' split) <;> rfl
@[simp] theorem writeReg_lease (c : Core) (f : RegFile) (n : Nat) (x : Vec) : (writeReg c f n x).lease = c.lease := by
  unfold writeReg; (repeat' split) <;> rfl
@[simp] theorem writeReg_leaseRem (c : Core) (f : RegFile) (n : Nat) (x : Vec) : (writeReg c f n x).leaseRem = c.leaseRem := by
  unfold writeReg; (repeat' split) <;> rfl
@[simp] theorem writeReg_leaseReq (c : Core) (f : RegFile) (n : Nat) (x : Vec) : (writeReg c f n x).leaseReq = c.leaseReq := by
  unfold writeReg; (repeat' split) <;> rfl
@[simp] theorem writeReg_leaseNext (c : Core) (f : RegFile) (n : Nat) (x : Vec) : (writeReg c f n x).leaseNext = c.leaseNext := by
  unfold writeReg; (repeat' split) <;> rfl
@[simp] theorem writeReg_leaseOk (c : Core) (f : RegFile) (n : Nat) (x : Vec) : (writeReg c f n x).leaseOk = c.leaseOk := by
  unfold writeReg; (repeat' split) <;> rfl
@[simp] theorem writeReg_leaseBack (c : Core) (f : RegFile) (n : Nat) (x : Vec) : (writeReg c f n x).leaseBack = c.leaseBack := by
  unfold writeReg; (repeat' split) <;> rfl
@[simp] theorem writeReg_fabricQ (c : Core) (f : RegFile) (n : Nat) (x : Vec) : (writeReg c f n x).fabricQ = c.fabricQ := by
  unfold writeReg; (repeat' split) <;> rfl
@[simp] theorem writeReg_stall (c : Core) (f : RegFile) (n : Nat) (x : Vec) : (writeReg c f n x).stall = c.stall := by
  unfold writeReg; (repeat' split) <;> rfl
@[simp] theorem writeReg_bubble (c : Core) (f : RegFile) (n : Nat) (x : Vec) : (writeReg c f n x).bubble = c.bubble := by
  unfold writeReg; (repeat' split) <;> rfl
@[simp] theorem writeReg_replays (c : Core) (f : RegFile) (n : Nat) (x : Vec) : (writeReg c f n x).replays = c.replays := by
  unfold writeReg; (repeat' split) <;> rfl
@[simp] theorem writeReg_lastTime (c : Core) (f : RegFile) (n : Nat) (x : Vec) : (writeReg c f n x).lastTime = c.lastTime := by
  unfold writeReg; (repeat' split) <;> rfl
@[simp] theorem writeReg_preempt (c : Core) (f : RegFile) (n : Nat) (x : Vec) : (writeReg c f n x).preempt = c.preempt := by
  unfold writeReg; (repeat' split) <;> rfl
@[simp] theorem writeReg_takenUntil (c : Core) (f : RegFile) (n : Nat) (x : Vec) : (writeReg c f n x).takenUntil = c.takenUntil := by
  unfold writeReg; (repeat' split) <;> rfl
@[simp] theorem writeReg_takeFor (c : Core) (f : RegFile) (n : Nat) (x : Vec) : (writeReg c f n x).takeFor = c.takeFor := by
  unfold writeReg; (repeat' split) <;> rfl
@[simp] theorem writeReg_opGate (c : Core) (f : RegFile) (n : Nat) (x : Vec) : (writeReg c f n x).opGate = c.opGate := by
  unfold writeReg; (repeat' split) <;> rfl
@[simp] theorem writeReg_swpt (c : Core) (f : RegFile) (n : Nat) (x : Vec) : (writeReg c f n x).swpt = c.swpt := by
  unfold writeReg; (repeat' split) <;> rfl
@[simp] theorem writeReg_pend (c : Core) (f : RegFile) (n : Nat) (x : Vec) : (writeReg c f n x).pend = c.pend := by
  unfold writeReg; (repeat' split) <;> rfl
@[simp] theorem writeReg_written (c : Core) (f : RegFile) (n : Nat) (x : Vec) : (writeReg c f n x).written = c.written := by
  unfold writeReg; (repeat' split) <;> rfl
@[simp] theorem setEmpty_run (c : Core) (f : RegFile) (n : Nat) (e : Bool) : (setEmpty c f n e).run = c.run := by
  unfold setEmpty; (repeat' split) <;> rfl
@[simp] theorem setEmpty_leaving (c : Core) (f : RegFile) (n : Nat) (e : Bool) : (setEmpty c f n e).leaving = c.leaving := by
  unfold setEmpty; (repeat' split) <;> rfl
@[simp] theorem setEmpty_pc (c : Core) (f : RegFile) (n : Nat) (e : Bool) : (setEmpty c f n e).pc = c.pc := by
  unfold setEmpty; (repeat' split) <;> rfl
@[simp] theorem setEmpty_g (c : Core) (f : RegFile) (n : Nat) (e : Bool) : (setEmpty c f n e).g = c.g := by
  unfold setEmpty; (repeat' split) <;> rfl
@[simp] theorem setEmpty_v (c : Core) (f : RegFile) (n : Nat) (e : Bool) : (setEmpty c f n e).v = c.v := by
  unfold setEmpty; (repeat' split) <;> rfl
@[simp] theorem setEmpty_p (c : Core) (f : RegFile) (n : Nat) (e : Bool) : (setEmpty c f n e).p = c.p := by
  unfold setEmpty; (repeat' split) <;> rfl
@[simp] theorem setEmpty_o (c : Core) (f : RegFile) (n : Nat) (e : Bool) : (setEmpty c f n e).o = c.o := by
  unfold setEmpty; (repeat' split) <;> rfl
@[simp] theorem setEmpty_owner (c : Core) (f : RegFile) (n : Nat) (e : Bool) : (setEmpty c f n e).owner = c.owner := by
  unfold setEmpty; (repeat' split) <;> rfl
@[simp] theorem setEmpty_flights (c : Core) (f : RegFile) (n : Nat) (e : Bool) : (setEmpty c f n e).flights = c.flights := by
  unfold setEmpty; (repeat' split) <;> rfl
@[simp] theorem setEmpty_fflags (c : Core) (f : RegFile) (n : Nat) (e : Bool) : (setEmpty c f n e).fflags = c.fflags := by
  unfold setEmpty; (repeat' split) <;> rfl
@[simp] theorem setEmpty_frm (c : Core) (f : RegFile) (n : Nat) (e : Bool) : (setEmpty c f n e).frm = c.frm := by
  unfold setEmpty; (repeat' split) <;> rfl
@[simp] theorem setEmpty_seed (c : Core) (f : RegFile) (n : Nat) (e : Bool) : (setEmpty c f n e).seed = c.seed := by
  unfold setEmpty; (repeat' split) <;> rfl
@[simp] theorem setEmpty_tvec (c : Core) (f : RegFile) (n : Nat) (e : Bool) : (setEmpty c f n e).tvec = c.tvec := by
  unfold setEmpty; (repeat' split) <;> rfl
@[simp] theorem setEmpty_tcause (c : Core) (f : RegFile) (n : Nat) (e : Bool) : (setEmpty c f n e).tcause = c.tcause := by
  unfold setEmpty; (repeat' split) <;> rfl
@[simp] theorem setEmpty_noResume (c : Core) (f : RegFile) (n : Nat) (e : Bool) : (setEmpty c f n e).noResume = c.noResume := by
  unfold setEmpty; (repeat' split) <;> rfl
@[simp] theorem setEmpty_tinfo (c : Core) (f : RegFile) (n : Nat) (e : Bool) : (setEmpty c f n e).tinfo = c.tinfo := by
  unfold setEmpty; (repeat' split) <;> rfl
@[simp] theorem setEmpty_riskEn (c : Core) (f : RegFile) (n : Nat) (e : Bool) : (setEmpty c f n e).riskEn = c.riskEn := by
  unfold setEmpty; (repeat' split) <;> rfl
@[simp] theorem setEmpty_riskPend (c : Core) (f : RegFile) (n : Nat) (e : Bool) : (setEmpty c f n e).riskPend = c.riskPend := by
  unfold setEmpty; (repeat' split) <;> rfl
@[simp] theorem setEmpty_risk (c : Core) (f : RegFile) (n : Nat) (e : Bool) : (setEmpty c f n e).risk = c.risk := by
  unfold setEmpty; (repeat' split) <;> rfl
@[simp] theorem setEmpty_limit (c : Core) (f : RegFile) (n : Nat) (e : Bool) : (setEmpty c f n e).limit = c.limit := by
  unfold setEmpty; (repeat' split) <;> rfl
@[simp] theorem setEmpty_gpc (c : Core) (f : RegFile) (n : Nat) (e : Bool) : (setEmpty c f n e).gpc = c.gpc := by
  unfold setEmpty; (repeat' split) <;> rfl
@[simp] theorem setEmpty_glink (c : Core) (f : RegFile) (n : Nat) (e : Bool) : (setEmpty c f n e).glink = c.glink := by
  unfold setEmpty; (repeat' split) <;> rfl
@[simp] theorem setEmpty_lc (c : Core) (f : RegFile) (n : Nat) (e : Bool) : (setEmpty c f n e).lc = c.lc := by
  unfold setEmpty; (repeat' split) <;> rfl
@[simp] theorem setEmpty_ec (c : Core) (f : RegFile) (n : Nat) (e : Bool) : (setEmpty c f n e).ec = c.ec := by
  unfold setEmpty; (repeat' split) <;> rfl
@[simp] theorem setEmpty_rrb (c : Core) (f : RegFile) (n : Nat) (e : Bool) : (setEmpty c f n e).rrb = c.rrb := by
  unfold setEmpty; (repeat' split) <;> rfl
@[simp] theorem setEmpty_lstart (c : Core) (f : RegFile) (n : Nat) (e : Bool) : (setEmpty c f n e).lstart = c.lstart := by
  unfold setEmpty; (repeat' split) <;> rfl
@[simp] theorem setEmpty_lend (c : Core) (f : RegFile) (n : Nat) (e : Bool) : (setEmpty c f n e).lend = c.lend := by
  unfold setEmpty; (repeat' split) <;> rfl
@[simp] theorem setEmpty_active (c : Core) (f : RegFile) (n : Nat) (e : Bool) : (setEmpty c f n e).active = c.active := by
  unfold setEmpty; (repeat' split) <;> rfl
@[simp] theorem setEmpty_lgpc (c : Core) (f : RegFile) (n : Nat) (e : Bool) : (setEmpty c f n e).lgpc = c.lgpc := by
  unfold setEmpty; (repeat' split) <;> rfl
@[simp] theorem setEmpty_inHandler (c : Core) (f : RegFile) (n : Nat) (e : Bool) : (setEmpty c f n e).inHandler = c.inHandler := by
  unfold setEmpty; (repeat' split) <;> rfl
@[simp] theorem setEmpty_fresh (c : Core) (f : RegFile) (n : Nat) (e : Bool) : (setEmpty c f n e).fresh = c.fresh := by
  unfold setEmpty; (repeat' split) <;> rfl
@[simp] theorem setEmpty_latch (c : Core) (f : RegFile) (n : Nat) (e : Bool) : (setEmpty c f n e).latch = c.latch := by
  unfold setEmpty; (repeat' split) <;> rfl
@[simp] theorem setEmpty_notice (c : Core) (f : RegFile) (n : Nat) (e : Bool) : (setEmpty c f n e).notice = c.notice := by
  unfold setEmpty; (repeat' split) <;> rfl
@[simp] theorem setEmpty_window (c : Core) (f : RegFile) (n : Nat) (e : Bool) : (setEmpty c f n e).window = c.window := by
  unfold setEmpty; (repeat' split) <;> rfl
@[simp] theorem setEmpty_acks (c : Core) (f : RegFile) (n : Nat) (e : Bool) : (setEmpty c f n e).acks = c.acks := by
  unfold setEmpty; (repeat' split) <;> rfl
@[simp] theorem setEmpty_epoch (c : Core) (f : RegFile) (n : Nat) (e : Bool) : (setEmpty c f n e).epoch = c.epoch := by
  unfold setEmpty; (repeat' split) <;> rfl
@[simp] theorem setEmpty_acq (c : Core) (f : RegFile) (n : Nat) (e : Bool) : (setEmpty c f n e).acq = c.acq := by
  unfold setEmpty; (repeat' split) <;> rfl
@[simp] theorem setEmpty_lease (c : Core) (f : RegFile) (n : Nat) (e : Bool) : (setEmpty c f n e).lease = c.lease := by
  unfold setEmpty; (repeat' split) <;> rfl
@[simp] theorem setEmpty_leaseRem (c : Core) (f : RegFile) (n : Nat) (e : Bool) : (setEmpty c f n e).leaseRem = c.leaseRem := by
  unfold setEmpty; (repeat' split) <;> rfl
@[simp] theorem setEmpty_leaseReq (c : Core) (f : RegFile) (n : Nat) (e : Bool) : (setEmpty c f n e).leaseReq = c.leaseReq := by
  unfold setEmpty; (repeat' split) <;> rfl
@[simp] theorem setEmpty_leaseNext (c : Core) (f : RegFile) (n : Nat) (e : Bool) : (setEmpty c f n e).leaseNext = c.leaseNext := by
  unfold setEmpty; (repeat' split) <;> rfl
@[simp] theorem setEmpty_leaseOk (c : Core) (f : RegFile) (n : Nat) (e : Bool) : (setEmpty c f n e).leaseOk = c.leaseOk := by
  unfold setEmpty; (repeat' split) <;> rfl
@[simp] theorem setEmpty_leaseBack (c : Core) (f : RegFile) (n : Nat) (e : Bool) : (setEmpty c f n e).leaseBack = c.leaseBack := by
  unfold setEmpty; (repeat' split) <;> rfl
@[simp] theorem setEmpty_fabricQ (c : Core) (f : RegFile) (n : Nat) (e : Bool) : (setEmpty c f n e).fabricQ = c.fabricQ := by
  unfold setEmpty; (repeat' split) <;> rfl
@[simp] theorem setEmpty_stall (c : Core) (f : RegFile) (n : Nat) (e : Bool) : (setEmpty c f n e).stall = c.stall := by
  unfold setEmpty; (repeat' split) <;> rfl
@[simp] theorem setEmpty_bubble (c : Core) (f : RegFile) (n : Nat) (e : Bool) : (setEmpty c f n e).bubble = c.bubble := by
  unfold setEmpty; (repeat' split) <;> rfl
@[simp] theorem setEmpty_replays (c : Core) (f : RegFile) (n : Nat) (e : Bool) : (setEmpty c f n e).replays = c.replays := by
  unfold setEmpty; (repeat' split) <;> rfl
@[simp] theorem setEmpty_lastTime (c : Core) (f : RegFile) (n : Nat) (e : Bool) : (setEmpty c f n e).lastTime = c.lastTime := by
  unfold setEmpty; (repeat' split) <;> rfl
@[simp] theorem setEmpty_preempt (c : Core) (f : RegFile) (n : Nat) (e : Bool) : (setEmpty c f n e).preempt = c.preempt := by
  unfold setEmpty; (repeat' split) <;> rfl
@[simp] theorem setEmpty_takenUntil (c : Core) (f : RegFile) (n : Nat) (e : Bool) : (setEmpty c f n e).takenUntil = c.takenUntil := by
  unfold setEmpty; (repeat' split) <;> rfl
@[simp] theorem setEmpty_takeFor (c : Core) (f : RegFile) (n : Nat) (e : Bool) : (setEmpty c f n e).takeFor = c.takeFor := by
  unfold setEmpty; (repeat' split) <;> rfl
@[simp] theorem setEmpty_opGate (c : Core) (f : RegFile) (n : Nat) (e : Bool) : (setEmpty c f n e).opGate = c.opGate := by
  unfold setEmpty; (repeat' split) <;> rfl
@[simp] theorem setEmpty_swpt (c : Core) (f : RegFile) (n : Nat) (e : Bool) : (setEmpty c f n e).swpt = c.swpt := by
  unfold setEmpty; (repeat' split) <;> rfl
@[simp] theorem setEmpty_pend (c : Core) (f : RegFile) (n : Nat) (e : Bool) : (setEmpty c f n e).pend = c.pend := by
  unfold setEmpty; (repeat' split) <;> rfl
@[simp] theorem setEmpty_written (c : Core) (f : RegFile) (n : Nat) (e : Bool) : (setEmpty c f n e).written = c.written := by
  unfold setEmpty; (repeat' split) <;> rfl
@[simp] theorem setOwner_run (c : Core) (f : RegFile) (n w : Nat) : (setOwner c f n w).run = c.run := by
  unfold setOwner; (repeat' split) <;> rfl
@[simp] theorem setOwner_leaving (c : Core) (f : RegFile) (n w : Nat) : (setOwner c f n w).leaving = c.leaving := by
  unfold setOwner; (repeat' split) <;> rfl
@[simp] theorem setOwner_pc (c : Core) (f : RegFile) (n w : Nat) : (setOwner c f n w).pc = c.pc := by
  unfold setOwner; (repeat' split) <;> rfl
@[simp] theorem setOwner_g (c : Core) (f : RegFile) (n w : Nat) : (setOwner c f n w).g = c.g := by
  unfold setOwner; (repeat' split) <;> rfl
@[simp] theorem setOwner_v (c : Core) (f : RegFile) (n w : Nat) : (setOwner c f n w).v = c.v := by
  unfold setOwner; (repeat' split) <;> rfl
@[simp] theorem setOwner_p (c : Core) (f : RegFile) (n w : Nat) : (setOwner c f n w).p = c.p := by
  unfold setOwner; (repeat' split) <;> rfl
@[simp] theorem setOwner_o (c : Core) (f : RegFile) (n w : Nat) : (setOwner c f n w).o = c.o := by
  unfold setOwner; (repeat' split) <;> rfl
@[simp] theorem setOwner_empty (c : Core) (f : RegFile) (n w : Nat) : (setOwner c f n w).empty = c.empty := by
  unfold setOwner; (repeat' split) <;> rfl
@[simp] theorem setOwner_flights (c : Core) (f : RegFile) (n w : Nat) : (setOwner c f n w).flights = c.flights := by
  unfold setOwner; (repeat' split) <;> rfl
@[simp] theorem setOwner_fflags (c : Core) (f : RegFile) (n w : Nat) : (setOwner c f n w).fflags = c.fflags := by
  unfold setOwner; (repeat' split) <;> rfl
@[simp] theorem setOwner_frm (c : Core) (f : RegFile) (n w : Nat) : (setOwner c f n w).frm = c.frm := by
  unfold setOwner; (repeat' split) <;> rfl
@[simp] theorem setOwner_seed (c : Core) (f : RegFile) (n w : Nat) : (setOwner c f n w).seed = c.seed := by
  unfold setOwner; (repeat' split) <;> rfl
@[simp] theorem setOwner_tvec (c : Core) (f : RegFile) (n w : Nat) : (setOwner c f n w).tvec = c.tvec := by
  unfold setOwner; (repeat' split) <;> rfl
@[simp] theorem setOwner_tcause (c : Core) (f : RegFile) (n w : Nat) : (setOwner c f n w).tcause = c.tcause := by
  unfold setOwner; (repeat' split) <;> rfl
@[simp] theorem setOwner_noResume (c : Core) (f : RegFile) (n w : Nat) : (setOwner c f n w).noResume = c.noResume := by
  unfold setOwner; (repeat' split) <;> rfl
@[simp] theorem setOwner_tinfo (c : Core) (f : RegFile) (n w : Nat) : (setOwner c f n w).tinfo = c.tinfo := by
  unfold setOwner; (repeat' split) <;> rfl
@[simp] theorem setOwner_riskEn (c : Core) (f : RegFile) (n w : Nat) : (setOwner c f n w).riskEn = c.riskEn := by
  unfold setOwner; (repeat' split) <;> rfl
@[simp] theorem setOwner_riskPend (c : Core) (f : RegFile) (n w : Nat) : (setOwner c f n w).riskPend = c.riskPend := by
  unfold setOwner; (repeat' split) <;> rfl
@[simp] theorem setOwner_risk (c : Core) (f : RegFile) (n w : Nat) : (setOwner c f n w).risk = c.risk := by
  unfold setOwner; (repeat' split) <;> rfl
@[simp] theorem setOwner_limit (c : Core) (f : RegFile) (n w : Nat) : (setOwner c f n w).limit = c.limit := by
  unfold setOwner; (repeat' split) <;> rfl
@[simp] theorem setOwner_gpc (c : Core) (f : RegFile) (n w : Nat) : (setOwner c f n w).gpc = c.gpc := by
  unfold setOwner; (repeat' split) <;> rfl
@[simp] theorem setOwner_glink (c : Core) (f : RegFile) (n w : Nat) : (setOwner c f n w).glink = c.glink := by
  unfold setOwner; (repeat' split) <;> rfl
@[simp] theorem setOwner_lc (c : Core) (f : RegFile) (n w : Nat) : (setOwner c f n w).lc = c.lc := by
  unfold setOwner; (repeat' split) <;> rfl
@[simp] theorem setOwner_ec (c : Core) (f : RegFile) (n w : Nat) : (setOwner c f n w).ec = c.ec := by
  unfold setOwner; (repeat' split) <;> rfl
@[simp] theorem setOwner_rrb (c : Core) (f : RegFile) (n w : Nat) : (setOwner c f n w).rrb = c.rrb := by
  unfold setOwner; (repeat' split) <;> rfl
@[simp] theorem setOwner_lstart (c : Core) (f : RegFile) (n w : Nat) : (setOwner c f n w).lstart = c.lstart := by
  unfold setOwner; (repeat' split) <;> rfl
@[simp] theorem setOwner_lend (c : Core) (f : RegFile) (n w : Nat) : (setOwner c f n w).lend = c.lend := by
  unfold setOwner; (repeat' split) <;> rfl
@[simp] theorem setOwner_active (c : Core) (f : RegFile) (n w : Nat) : (setOwner c f n w).active = c.active := by
  unfold setOwner; (repeat' split) <;> rfl
@[simp] theorem setOwner_lgpc (c : Core) (f : RegFile) (n w : Nat) : (setOwner c f n w).lgpc = c.lgpc := by
  unfold setOwner; (repeat' split) <;> rfl
@[simp] theorem setOwner_inHandler (c : Core) (f : RegFile) (n w : Nat) : (setOwner c f n w).inHandler = c.inHandler := by
  unfold setOwner; (repeat' split) <;> rfl
@[simp] theorem setOwner_fresh (c : Core) (f : RegFile) (n w : Nat) : (setOwner c f n w).fresh = c.fresh := by
  unfold setOwner; (repeat' split) <;> rfl
@[simp] theorem setOwner_latch (c : Core) (f : RegFile) (n w : Nat) : (setOwner c f n w).latch = c.latch := by
  unfold setOwner; (repeat' split) <;> rfl
@[simp] theorem setOwner_notice (c : Core) (f : RegFile) (n w : Nat) : (setOwner c f n w).notice = c.notice := by
  unfold setOwner; (repeat' split) <;> rfl
@[simp] theorem setOwner_window (c : Core) (f : RegFile) (n w : Nat) : (setOwner c f n w).window = c.window := by
  unfold setOwner; (repeat' split) <;> rfl
@[simp] theorem setOwner_acks (c : Core) (f : RegFile) (n w : Nat) : (setOwner c f n w).acks = c.acks := by
  unfold setOwner; (repeat' split) <;> rfl
@[simp] theorem setOwner_epoch (c : Core) (f : RegFile) (n w : Nat) : (setOwner c f n w).epoch = c.epoch := by
  unfold setOwner; (repeat' split) <;> rfl
@[simp] theorem setOwner_acq (c : Core) (f : RegFile) (n w : Nat) : (setOwner c f n w).acq = c.acq := by
  unfold setOwner; (repeat' split) <;> rfl
@[simp] theorem setOwner_lease (c : Core) (f : RegFile) (n w : Nat) : (setOwner c f n w).lease = c.lease := by
  unfold setOwner; (repeat' split) <;> rfl
@[simp] theorem setOwner_leaseRem (c : Core) (f : RegFile) (n w : Nat) : (setOwner c f n w).leaseRem = c.leaseRem := by
  unfold setOwner; (repeat' split) <;> rfl
@[simp] theorem setOwner_leaseReq (c : Core) (f : RegFile) (n w : Nat) : (setOwner c f n w).leaseReq = c.leaseReq := by
  unfold setOwner; (repeat' split) <;> rfl
@[simp] theorem setOwner_leaseNext (c : Core) (f : RegFile) (n w : Nat) : (setOwner c f n w).leaseNext = c.leaseNext := by
  unfold setOwner; (repeat' split) <;> rfl
@[simp] theorem setOwner_leaseOk (c : Core) (f : RegFile) (n w : Nat) : (setOwner c f n w).leaseOk = c.leaseOk := by
  unfold setOwner; (repeat' split) <;> rfl
@[simp] theorem setOwner_leaseBack (c : Core) (f : RegFile) (n w : Nat) : (setOwner c f n w).leaseBack = c.leaseBack := by
  unfold setOwner; (repeat' split) <;> rfl
@[simp] theorem setOwner_fabricQ (c : Core) (f : RegFile) (n w : Nat) : (setOwner c f n w).fabricQ = c.fabricQ := by
  unfold setOwner; (repeat' split) <;> rfl
@[simp] theorem setOwner_stall (c : Core) (f : RegFile) (n w : Nat) : (setOwner c f n w).stall = c.stall := by
  unfold setOwner; (repeat' split) <;> rfl
@[simp] theorem setOwner_bubble (c : Core) (f : RegFile) (n w : Nat) : (setOwner c f n w).bubble = c.bubble := by
  unfold setOwner; (repeat' split) <;> rfl
@[simp] theorem setOwner_replays (c : Core) (f : RegFile) (n w : Nat) : (setOwner c f n w).replays = c.replays := by
  unfold setOwner; (repeat' split) <;> rfl
@[simp] theorem setOwner_lastTime (c : Core) (f : RegFile) (n w : Nat) : (setOwner c f n w).lastTime = c.lastTime := by
  unfold setOwner; (repeat' split) <;> rfl
@[simp] theorem setOwner_preempt (c : Core) (f : RegFile) (n w : Nat) : (setOwner c f n w).preempt = c.preempt := by
  unfold setOwner; (repeat' split) <;> rfl
@[simp] theorem setOwner_takenUntil (c : Core) (f : RegFile) (n w : Nat) : (setOwner c f n w).takenUntil = c.takenUntil := by
  unfold setOwner; (repeat' split) <;> rfl
@[simp] theorem setOwner_takeFor (c : Core) (f : RegFile) (n w : Nat) : (setOwner c f n w).takeFor = c.takeFor := by
  unfold setOwner; (repeat' split) <;> rfl
@[simp] theorem setOwner_opGate (c : Core) (f : RegFile) (n w : Nat) : (setOwner c f n w).opGate = c.opGate := by
  unfold setOwner; (repeat' split) <;> rfl
@[simp] theorem setOwner_swpt (c : Core) (f : RegFile) (n w : Nat) : (setOwner c f n w).swpt = c.swpt := by
  unfold setOwner; (repeat' split) <;> rfl
@[simp] theorem setOwner_pend (c : Core) (f : RegFile) (n w : Nat) : (setOwner c f n w).pend = c.pend := by
  unfold setOwner; (repeat' split) <;> rfl
@[simp] theorem setOwner_written (c : Core) (f : RegFile) (n w : Nat) : (setOwner c f n w).written = c.written := by
  unfold setOwner; (repeat' split) <;> rfl
@[simp] theorem claimReg_run (c : Core) (f : RegFile) (n w : Nat) (e : Bool) : (claimReg c f n w e).run = c.run := by
  unfold claimReg; split <;> simp
@[simp] theorem claimReg_leaving (c : Core) (f : RegFile) (n w : Nat) (e : Bool) : (claimReg c f n w e).leaving = c.leaving := by
  unfold claimReg; split <;> simp
@[simp] theorem claimReg_pc (c : Core) (f : RegFile) (n w : Nat) (e : Bool) : (claimReg c f n w e).pc = c.pc := by
  unfold claimReg; split <;> simp
@[simp] theorem claimReg_g (c : Core) (f : RegFile) (n w : Nat) (e : Bool) : (claimReg c f n w e).g = c.g := by
  unfold claimReg; split <;> simp
@[simp] theorem claimReg_v (c : Core) (f : RegFile) (n w : Nat) (e : Bool) : (claimReg c f n w e).v = c.v := by
  unfold claimReg; split <;> simp
@[simp] theorem claimReg_p (c : Core) (f : RegFile) (n w : Nat) (e : Bool) : (claimReg c f n w e).p = c.p := by
  unfold claimReg; split <;> simp
@[simp] theorem claimReg_o (c : Core) (f : RegFile) (n w : Nat) (e : Bool) : (claimReg c f n w e).o = c.o := by
  unfold claimReg; split <;> simp
@[simp] theorem claimReg_flights (c : Core) (f : RegFile) (n w : Nat) (e : Bool) : (claimReg c f n w e).flights = c.flights := by
  unfold claimReg; split <;> simp
@[simp] theorem claimReg_fflags (c : Core) (f : RegFile) (n w : Nat) (e : Bool) : (claimReg c f n w e).fflags = c.fflags := by
  unfold claimReg; split <;> simp
@[simp] theorem claimReg_frm (c : Core) (f : RegFile) (n w : Nat) (e : Bool) : (claimReg c f n w e).frm = c.frm := by
  unfold claimReg; split <;> simp
@[simp] theorem claimReg_seed (c : Core) (f : RegFile) (n w : Nat) (e : Bool) : (claimReg c f n w e).seed = c.seed := by
  unfold claimReg; split <;> simp
@[simp] theorem claimReg_tvec (c : Core) (f : RegFile) (n w : Nat) (e : Bool) : (claimReg c f n w e).tvec = c.tvec := by
  unfold claimReg; split <;> simp
@[simp] theorem claimReg_tcause (c : Core) (f : RegFile) (n w : Nat) (e : Bool) : (claimReg c f n w e).tcause = c.tcause := by
  unfold claimReg; split <;> simp
@[simp] theorem claimReg_noResume (c : Core) (f : RegFile) (n w : Nat) (e : Bool) : (claimReg c f n w e).noResume = c.noResume := by
  unfold claimReg; split <;> simp
@[simp] theorem claimReg_tinfo (c : Core) (f : RegFile) (n w : Nat) (e : Bool) : (claimReg c f n w e).tinfo = c.tinfo := by
  unfold claimReg; split <;> simp
@[simp] theorem claimReg_riskEn (c : Core) (f : RegFile) (n w : Nat) (e : Bool) : (claimReg c f n w e).riskEn = c.riskEn := by
  unfold claimReg; split <;> simp
@[simp] theorem claimReg_riskPend (c : Core) (f : RegFile) (n w : Nat) (e : Bool) : (claimReg c f n w e).riskPend = c.riskPend := by
  unfold claimReg; split <;> simp
@[simp] theorem claimReg_risk (c : Core) (f : RegFile) (n w : Nat) (e : Bool) : (claimReg c f n w e).risk = c.risk := by
  unfold claimReg; split <;> simp
@[simp] theorem claimReg_limit (c : Core) (f : RegFile) (n w : Nat) (e : Bool) : (claimReg c f n w e).limit = c.limit := by
  unfold claimReg; split <;> simp
@[simp] theorem claimReg_gpc (c : Core) (f : RegFile) (n w : Nat) (e : Bool) : (claimReg c f n w e).gpc = c.gpc := by
  unfold claimReg; split <;> simp
@[simp] theorem claimReg_glink (c : Core) (f : RegFile) (n w : Nat) (e : Bool) : (claimReg c f n w e).glink = c.glink := by
  unfold claimReg; split <;> simp
@[simp] theorem claimReg_lc (c : Core) (f : RegFile) (n w : Nat) (e : Bool) : (claimReg c f n w e).lc = c.lc := by
  unfold claimReg; split <;> simp
@[simp] theorem claimReg_ec (c : Core) (f : RegFile) (n w : Nat) (e : Bool) : (claimReg c f n w e).ec = c.ec := by
  unfold claimReg; split <;> simp
@[simp] theorem claimReg_rrb (c : Core) (f : RegFile) (n w : Nat) (e : Bool) : (claimReg c f n w e).rrb = c.rrb := by
  unfold claimReg; split <;> simp
@[simp] theorem claimReg_lstart (c : Core) (f : RegFile) (n w : Nat) (e : Bool) : (claimReg c f n w e).lstart = c.lstart := by
  unfold claimReg; split <;> simp
@[simp] theorem claimReg_lend (c : Core) (f : RegFile) (n w : Nat) (e : Bool) : (claimReg c f n w e).lend = c.lend := by
  unfold claimReg; split <;> simp
@[simp] theorem claimReg_active (c : Core) (f : RegFile) (n w : Nat) (e : Bool) : (claimReg c f n w e).active = c.active := by
  unfold claimReg; split <;> simp
@[simp] theorem claimReg_lgpc (c : Core) (f : RegFile) (n w : Nat) (e : Bool) : (claimReg c f n w e).lgpc = c.lgpc := by
  unfold claimReg; split <;> simp
@[simp] theorem claimReg_inHandler (c : Core) (f : RegFile) (n w : Nat) (e : Bool) : (claimReg c f n w e).inHandler = c.inHandler := by
  unfold claimReg; split <;> simp
@[simp] theorem claimReg_fresh (c : Core) (f : RegFile) (n w : Nat) (e : Bool) : (claimReg c f n w e).fresh = c.fresh := by
  unfold claimReg; split <;> simp
@[simp] theorem claimReg_latch (c : Core) (f : RegFile) (n w : Nat) (e : Bool) : (claimReg c f n w e).latch = c.latch := by
  unfold claimReg; split <;> simp
@[simp] theorem claimReg_notice (c : Core) (f : RegFile) (n w : Nat) (e : Bool) : (claimReg c f n w e).notice = c.notice := by
  unfold claimReg; split <;> simp
@[simp] theorem claimReg_window (c : Core) (f : RegFile) (n w : Nat) (e : Bool) : (claimReg c f n w e).window = c.window := by
  unfold claimReg; split <;> simp
@[simp] theorem claimReg_acks (c : Core) (f : RegFile) (n w : Nat) (e : Bool) : (claimReg c f n w e).acks = c.acks := by
  unfold claimReg; split <;> simp
@[simp] theorem claimReg_epoch (c : Core) (f : RegFile) (n w : Nat) (e : Bool) : (claimReg c f n w e).epoch = c.epoch := by
  unfold claimReg; split <;> simp
@[simp] theorem claimReg_acq (c : Core) (f : RegFile) (n w : Nat) (e : Bool) : (claimReg c f n w e).acq = c.acq := by
  unfold claimReg; split <;> simp
@[simp] theorem claimReg_lease (c : Core) (f : RegFile) (n w : Nat) (e : Bool) : (claimReg c f n w e).lease = c.lease := by
  unfold claimReg; split <;> simp
@[simp] theorem claimReg_leaseRem (c : Core) (f : RegFile) (n w : Nat) (e : Bool) : (claimReg c f n w e).leaseRem = c.leaseRem := by
  unfold claimReg; split <;> simp
@[simp] theorem claimReg_leaseReq (c : Core) (f : RegFile) (n w : Nat) (e : Bool) : (claimReg c f n w e).leaseReq = c.leaseReq := by
  unfold claimReg; split <;> simp
@[simp] theorem claimReg_leaseNext (c : Core) (f : RegFile) (n w : Nat) (e : Bool) : (claimReg c f n w e).leaseNext = c.leaseNext := by
  unfold claimReg; split <;> simp
@[simp] theorem claimReg_leaseOk (c : Core) (f : RegFile) (n w : Nat) (e : Bool) : (claimReg c f n w e).leaseOk = c.leaseOk := by
  unfold claimReg; split <;> simp
@[simp] theorem claimReg_leaseBack (c : Core) (f : RegFile) (n w : Nat) (e : Bool) : (claimReg c f n w e).leaseBack = c.leaseBack := by
  unfold claimReg; split <;> simp
@[simp] theorem claimReg_fabricQ (c : Core) (f : RegFile) (n w : Nat) (e : Bool) : (claimReg c f n w e).fabricQ = c.fabricQ := by
  unfold claimReg; split <;> simp
@[simp] theorem claimReg_stall (c : Core) (f : RegFile) (n w : Nat) (e : Bool) : (claimReg c f n w e).stall = c.stall := by
  unfold claimReg; split <;> simp
@[simp] theorem claimReg_bubble (c : Core) (f : RegFile) (n w : Nat) (e : Bool) : (claimReg c f n w e).bubble = c.bubble := by
  unfold claimReg; split <;> simp
@[simp] theorem claimReg_replays (c : Core) (f : RegFile) (n w : Nat) (e : Bool) : (claimReg c f n w e).replays = c.replays := by
  unfold claimReg; split <;> simp
@[simp] theorem claimReg_lastTime (c : Core) (f : RegFile) (n w : Nat) (e : Bool) : (claimReg c f n w e).lastTime = c.lastTime := by
  unfold claimReg; split <;> simp
@[simp] theorem claimReg_preempt (c : Core) (f : RegFile) (n w : Nat) (e : Bool) : (claimReg c f n w e).preempt = c.preempt := by
  unfold claimReg; split <;> simp
@[simp] theorem claimReg_takenUntil (c : Core) (f : RegFile) (n w : Nat) (e : Bool) : (claimReg c f n w e).takenUntil = c.takenUntil := by
  unfold claimReg; split <;> simp
@[simp] theorem claimReg_takeFor (c : Core) (f : RegFile) (n w : Nat) (e : Bool) : (claimReg c f n w e).takeFor = c.takeFor := by
  unfold claimReg; split <;> simp
@[simp] theorem claimReg_opGate (c : Core) (f : RegFile) (n w : Nat) (e : Bool) : (claimReg c f n w e).opGate = c.opGate := by
  unfold claimReg; split <;> simp
@[simp] theorem claimReg_swpt (c : Core) (f : RegFile) (n w : Nat) (e : Bool) : (claimReg c f n w e).swpt = c.swpt := by
  unfold claimReg; split <;> simp
@[simp] theorem claimReg_pend (c : Core) (f : RegFile) (n w : Nat) (e : Bool) : (claimReg c f n w e).pend = c.pend := by
  unfold claimReg; split <;> simp
@[simp] theorem claimReg_written (c : Core) (f : RegFile) (n w : Nat) (e : Bool) : (claimReg c f n w e).written = c.written := by
  unfold claimReg; split <;> simp
@[simp] theorem writeNow_run (c : Core) (f : RegFile) (n w : Nat) (x : Vec) : (writeNow c f n w x).run = c.run := by
  unfold writeNow; split <;> simp
@[simp] theorem writeNow_leaving (c : Core) (f : RegFile) (n w : Nat) (x : Vec) : (writeNow c f n w x).leaving = c.leaving := by
  unfold writeNow; split <;> simp
@[simp] theorem writeNow_pc (c : Core) (f : RegFile) (n w : Nat) (x : Vec) : (writeNow c f n w x).pc = c.pc := by
  unfold writeNow; split <;> simp
@[simp] theorem writeNow_flights (c : Core) (f : RegFile) (n w : Nat) (x : Vec) : (writeNow c f n w x).flights = c.flights := by
  unfold writeNow; split <;> simp
@[simp] theorem writeNow_fflags (c : Core) (f : RegFile) (n w : Nat) (x : Vec) : (writeNow c f n w x).fflags = c.fflags := by
  unfold writeNow; split <;> simp
@[simp] theorem writeNow_frm (c : Core) (f : RegFile) (n w : Nat) (x : Vec) : (writeNow c f n w x).frm = c.frm := by
  unfold writeNow; split <;> simp
@[simp] theorem writeNow_seed (c : Core) (f : RegFile) (n w : Nat) (x : Vec) : (writeNow c f n w x).seed = c.seed := by
  unfold writeNow; split <;> simp
@[simp] theorem writeNow_tvec (c : Core) (f : RegFile) (n w : Nat) (x : Vec) : (writeNow c f n w x).tvec = c.tvec := by
  unfold writeNow; split <;> simp
@[simp] theorem writeNow_tcause (c : Core) (f : RegFile) (n w : Nat) (x : Vec) : (writeNow c f n w x).tcause = c.tcause := by
  unfold writeNow; split <;> simp
@[simp] theorem writeNow_noResume (c : Core) (f : RegFile) (n w : Nat) (x : Vec) : (writeNow c f n w x).noResume = c.noResume := by
  unfold writeNow; split <;> simp
@[simp] theorem writeNow_tinfo (c : Core) (f : RegFile) (n w : Nat) (x : Vec) : (writeNow c f n w x).tinfo = c.tinfo := by
  unfold writeNow; split <;> simp
@[simp] theorem writeNow_riskEn (c : Core) (f : RegFile) (n w : Nat) (x : Vec) : (writeNow c f n w x).riskEn = c.riskEn := by
  unfold writeNow; split <;> simp
@[simp] theorem writeNow_riskPend (c : Core) (f : RegFile) (n w : Nat) (x : Vec) : (writeNow c f n w x).riskPend = c.riskPend := by
  unfold writeNow; split <;> simp
@[simp] theorem writeNow_risk (c : Core) (f : RegFile) (n w : Nat) (x : Vec) : (writeNow c f n w x).risk = c.risk := by
  unfold writeNow; split <;> simp
@[simp] theorem writeNow_limit (c : Core) (f : RegFile) (n w : Nat) (x : Vec) : (writeNow c f n w x).limit = c.limit := by
  unfold writeNow; split <;> simp
@[simp] theorem writeNow_gpc (c : Core) (f : RegFile) (n w : Nat) (x : Vec) : (writeNow c f n w x).gpc = c.gpc := by
  unfold writeNow; split <;> simp
@[simp] theorem writeNow_glink (c : Core) (f : RegFile) (n w : Nat) (x : Vec) : (writeNow c f n w x).glink = c.glink := by
  unfold writeNow; split <;> simp
@[simp] theorem writeNow_lc (c : Core) (f : RegFile) (n w : Nat) (x : Vec) : (writeNow c f n w x).lc = c.lc := by
  unfold writeNow; split <;> simp
@[simp] theorem writeNow_ec (c : Core) (f : RegFile) (n w : Nat) (x : Vec) : (writeNow c f n w x).ec = c.ec := by
  unfold writeNow; split <;> simp
@[simp] theorem writeNow_rrb (c : Core) (f : RegFile) (n w : Nat) (x : Vec) : (writeNow c f n w x).rrb = c.rrb := by
  unfold writeNow; split <;> simp
@[simp] theorem writeNow_lstart (c : Core) (f : RegFile) (n w : Nat) (x : Vec) : (writeNow c f n w x).lstart = c.lstart := by
  unfold writeNow; split <;> simp
@[simp] theorem writeNow_lend (c : Core) (f : RegFile) (n w : Nat) (x : Vec) : (writeNow c f n w x).lend = c.lend := by
  unfold writeNow; split <;> simp
@[simp] theorem writeNow_active (c : Core) (f : RegFile) (n w : Nat) (x : Vec) : (writeNow c f n w x).active = c.active := by
  unfold writeNow; split <;> simp
@[simp] theorem writeNow_lgpc (c : Core) (f : RegFile) (n w : Nat) (x : Vec) : (writeNow c f n w x).lgpc = c.lgpc := by
  unfold writeNow; split <;> simp
@[simp] theorem writeNow_inHandler (c : Core) (f : RegFile) (n w : Nat) (x : Vec) : (writeNow c f n w x).inHandler = c.inHandler := by
  unfold writeNow; split <;> simp
@[simp] theorem writeNow_fresh (c : Core) (f : RegFile) (n w : Nat) (x : Vec) : (writeNow c f n w x).fresh = c.fresh := by
  unfold writeNow; split <;> simp
@[simp] theorem writeNow_latch (c : Core) (f : RegFile) (n w : Nat) (x : Vec) : (writeNow c f n w x).latch = c.latch := by
  unfold writeNow; split <;> simp
@[simp] theorem writeNow_notice (c : Core) (f : RegFile) (n w : Nat) (x : Vec) : (writeNow c f n w x).notice = c.notice := by
  unfold writeNow; split <;> simp
@[simp] theorem writeNow_window (c : Core) (f : RegFile) (n w : Nat) (x : Vec) : (writeNow c f n w x).window = c.window := by
  unfold writeNow; split <;> simp
@[simp] theorem writeNow_acks (c : Core) (f : RegFile) (n w : Nat) (x : Vec) : (writeNow c f n w x).acks = c.acks := by
  unfold writeNow; split <;> simp
@[simp] theorem writeNow_epoch (c : Core) (f : RegFile) (n w : Nat) (x : Vec) : (writeNow c f n w x).epoch = c.epoch := by
  unfold writeNow; split <;> simp
@[simp] theorem writeNow_acq (c : Core) (f : RegFile) (n w : Nat) (x : Vec) : (writeNow c f n w x).acq = c.acq := by
  unfold writeNow; split <;> simp
@[simp] theorem writeNow_lease (c : Core) (f : RegFile) (n w : Nat) (x : Vec) : (writeNow c f n w x).lease = c.lease := by
  unfold writeNow; split <;> simp
@[simp] theorem writeNow_leaseRem (c : Core) (f : RegFile) (n w : Nat) (x : Vec) : (writeNow c f n w x).leaseRem = c.leaseRem := by
  unfold writeNow; split <;> simp
@[simp] theorem writeNow_leaseReq (c : Core) (f : RegFile) (n w : Nat) (x : Vec) : (writeNow c f n w x).leaseReq = c.leaseReq := by
  unfold writeNow; split <;> simp
@[simp] theorem writeNow_leaseNext (c : Core) (f : RegFile) (n w : Nat) (x : Vec) : (writeNow c f n w x).leaseNext = c.leaseNext := by
  unfold writeNow; split <;> simp
@[simp] theorem writeNow_leaseOk (c : Core) (f : RegFile) (n w : Nat) (x : Vec) : (writeNow c f n w x).leaseOk = c.leaseOk := by
  unfold writeNow; split <;> simp
@[simp] theorem writeNow_leaseBack (c : Core) (f : RegFile) (n w : Nat) (x : Vec) : (writeNow c f n w x).leaseBack = c.leaseBack := by
  unfold writeNow; split <;> simp
@[simp] theorem writeNow_fabricQ (c : Core) (f : RegFile) (n w : Nat) (x : Vec) : (writeNow c f n w x).fabricQ = c.fabricQ := by
  unfold writeNow; split <;> simp
@[simp] theorem writeNow_stall (c : Core) (f : RegFile) (n w : Nat) (x : Vec) : (writeNow c f n w x).stall = c.stall := by
  unfold writeNow; split <;> simp
@[simp] theorem writeNow_bubble (c : Core) (f : RegFile) (n w : Nat) (x : Vec) : (writeNow c f n w x).bubble = c.bubble := by
  unfold writeNow; split <;> simp
@[simp] theorem writeNow_replays (c : Core) (f : RegFile) (n w : Nat) (x : Vec) : (writeNow c f n w x).replays = c.replays := by
  unfold writeNow; split <;> simp
@[simp] theorem writeNow_lastTime (c : Core) (f : RegFile) (n w : Nat) (x : Vec) : (writeNow c f n w x).lastTime = c.lastTime := by
  unfold writeNow; split <;> simp
@[simp] theorem writeNow_preempt (c : Core) (f : RegFile) (n w : Nat) (x : Vec) : (writeNow c f n w x).preempt = c.preempt := by
  unfold writeNow; split <;> simp
@[simp] theorem writeNow_takenUntil (c : Core) (f : RegFile) (n w : Nat) (x : Vec) : (writeNow c f n w x).takenUntil = c.takenUntil := by
  unfold writeNow; split <;> simp
@[simp] theorem writeNow_takeFor (c : Core) (f : RegFile) (n w : Nat) (x : Vec) : (writeNow c f n w x).takeFor = c.takeFor := by
  unfold writeNow; split <;> simp
@[simp] theorem writeNow_opGate (c : Core) (f : RegFile) (n w : Nat) (x : Vec) : (writeNow c f n w x).opGate = c.opGate := by
  unfold writeNow; split <;> simp
@[simp] theorem writeNow_swpt (c : Core) (f : RegFile) (n w : Nat) (x : Vec) : (writeNow c f n w x).swpt = c.swpt := by
  unfold writeNow; split <;> simp
@[simp] theorem writeNow_pend (c : Core) (f : RegFile) (n w : Nat) (x : Vec) : (writeNow c f n w x).pend = c.pend := by
  unfold writeNow; split <;> simp
@[simp] theorem writeNow_written (c : Core) (f : RegFile) (n w : Nat) (x : Vec) : (writeNow c f n w x).written = c.written := by
  unfold writeNow; split <;> simp
@[simp] theorem launchFlight_run (c : Core) (f : Flight) : (launchFlight c f).run = c.run := by simp [launchFlight]
@[simp] theorem launchFlight_leaving (c : Core) (f : Flight) : (launchFlight c f).leaving = c.leaving := by simp [launchFlight]
@[simp] theorem launchFlight_pc (c : Core) (f : Flight) : (launchFlight c f).pc = c.pc := by simp [launchFlight]
@[simp] theorem launchFlight_g (c : Core) (f : Flight) : (launchFlight c f).g = c.g := by simp [launchFlight]
@[simp] theorem launchFlight_v (c : Core) (f : Flight) : (launchFlight c f).v = c.v := by simp [launchFlight]
@[simp] theorem launchFlight_p (c : Core) (f : Flight) : (launchFlight c f).p = c.p := by simp [launchFlight]
@[simp] theorem launchFlight_o (c : Core) (f : Flight) : (launchFlight c f).o = c.o := by simp [launchFlight]
@[simp] theorem launchFlight_fflags (c : Core) (f : Flight) : (launchFlight c f).fflags = c.fflags := by simp [launchFlight]
@[simp] theorem launchFlight_frm (c : Core) (f : Flight) : (launchFlight c f).frm = c.frm := by simp [launchFlight]
@[simp] theorem launchFlight_seed (c : Core) (f : Flight) : (launchFlight c f).seed = c.seed := by simp [launchFlight]
@[simp] theorem launchFlight_tvec (c : Core) (f : Flight) : (launchFlight c f).tvec = c.tvec := by simp [launchFlight]
@[simp] theorem launchFlight_tcause (c : Core) (f : Flight) : (launchFlight c f).tcause = c.tcause := by simp [launchFlight]
@[simp] theorem launchFlight_noResume (c : Core) (f : Flight) : (launchFlight c f).noResume = c.noResume := by simp [launchFlight]
@[simp] theorem launchFlight_tinfo (c : Core) (f : Flight) : (launchFlight c f).tinfo = c.tinfo := by simp [launchFlight]
@[simp] theorem launchFlight_riskEn (c : Core) (f : Flight) : (launchFlight c f).riskEn = c.riskEn := by simp [launchFlight]
@[simp] theorem launchFlight_riskPend (c : Core) (f : Flight) : (launchFlight c f).riskPend = c.riskPend := by simp [launchFlight]
@[simp] theorem launchFlight_risk (c : Core) (f : Flight) : (launchFlight c f).risk = c.risk := by simp [launchFlight]
@[simp] theorem launchFlight_limit (c : Core) (f : Flight) : (launchFlight c f).limit = c.limit := by simp [launchFlight]
@[simp] theorem launchFlight_gpc (c : Core) (f : Flight) : (launchFlight c f).gpc = c.gpc := by simp [launchFlight]
@[simp] theorem launchFlight_glink (c : Core) (f : Flight) : (launchFlight c f).glink = c.glink := by simp [launchFlight]
@[simp] theorem launchFlight_lc (c : Core) (f : Flight) : (launchFlight c f).lc = c.lc := by simp [launchFlight]
@[simp] theorem launchFlight_ec (c : Core) (f : Flight) : (launchFlight c f).ec = c.ec := by simp [launchFlight]
@[simp] theorem launchFlight_rrb (c : Core) (f : Flight) : (launchFlight c f).rrb = c.rrb := by simp [launchFlight]
@[simp] theorem launchFlight_lstart (c : Core) (f : Flight) : (launchFlight c f).lstart = c.lstart := by simp [launchFlight]
@[simp] theorem launchFlight_lend (c : Core) (f : Flight) : (launchFlight c f).lend = c.lend := by simp [launchFlight]
@[simp] theorem launchFlight_active (c : Core) (f : Flight) : (launchFlight c f).active = c.active := by simp [launchFlight]
@[simp] theorem launchFlight_lgpc (c : Core) (f : Flight) : (launchFlight c f).lgpc = c.lgpc := by simp [launchFlight]
@[simp] theorem launchFlight_inHandler (c : Core) (f : Flight) : (launchFlight c f).inHandler = c.inHandler := by simp [launchFlight]
@[simp] theorem launchFlight_fresh (c : Core) (f : Flight) : (launchFlight c f).fresh = c.fresh := by simp [launchFlight]
@[simp] theorem launchFlight_latch (c : Core) (f : Flight) : (launchFlight c f).latch = c.latch := by simp [launchFlight]
@[simp] theorem launchFlight_notice (c : Core) (f : Flight) : (launchFlight c f).notice = c.notice := by simp [launchFlight]
@[simp] theorem launchFlight_window (c : Core) (f : Flight) : (launchFlight c f).window = c.window := by simp [launchFlight]
@[simp] theorem launchFlight_acks (c : Core) (f : Flight) : (launchFlight c f).acks = c.acks := by simp [launchFlight]
@[simp] theorem launchFlight_epoch (c : Core) (f : Flight) : (launchFlight c f).epoch = c.epoch := by simp [launchFlight]
@[simp] theorem launchFlight_acq (c : Core) (f : Flight) : (launchFlight c f).acq = c.acq := by simp [launchFlight]
@[simp] theorem launchFlight_lease (c : Core) (f : Flight) : (launchFlight c f).lease = c.lease := by simp [launchFlight]
@[simp] theorem launchFlight_leaseRem (c : Core) (f : Flight) : (launchFlight c f).leaseRem = c.leaseRem := by simp [launchFlight]
@[simp] theorem launchFlight_leaseReq (c : Core) (f : Flight) : (launchFlight c f).leaseReq = c.leaseReq := by simp [launchFlight]
@[simp] theorem launchFlight_leaseNext (c : Core) (f : Flight) : (launchFlight c f).leaseNext = c.leaseNext := by simp [launchFlight]
@[simp] theorem launchFlight_leaseOk (c : Core) (f : Flight) : (launchFlight c f).leaseOk = c.leaseOk := by simp [launchFlight]
@[simp] theorem launchFlight_leaseBack (c : Core) (f : Flight) : (launchFlight c f).leaseBack = c.leaseBack := by simp [launchFlight]
@[simp] theorem launchFlight_fabricQ (c : Core) (f : Flight) : (launchFlight c f).fabricQ = c.fabricQ := by simp [launchFlight]
@[simp] theorem launchFlight_stall (c : Core) (f : Flight) : (launchFlight c f).stall = c.stall := by simp [launchFlight]
@[simp] theorem launchFlight_bubble (c : Core) (f : Flight) : (launchFlight c f).bubble = c.bubble := by simp [launchFlight]
@[simp] theorem launchFlight_replays (c : Core) (f : Flight) : (launchFlight c f).replays = c.replays := by simp [launchFlight]
@[simp] theorem launchFlight_lastTime (c : Core) (f : Flight) : (launchFlight c f).lastTime = c.lastTime := by simp [launchFlight]
@[simp] theorem launchFlight_preempt (c : Core) (f : Flight) : (launchFlight c f).preempt = c.preempt := by simp [launchFlight]
@[simp] theorem launchFlight_takenUntil (c : Core) (f : Flight) : (launchFlight c f).takenUntil = c.takenUntil := by simp [launchFlight]
@[simp] theorem launchFlight_takeFor (c : Core) (f : Flight) : (launchFlight c f).takeFor = c.takeFor := by simp [launchFlight]
@[simp] theorem launchFlight_opGate (c : Core) (f : Flight) : (launchFlight c f).opGate = c.opGate := by simp [launchFlight]
@[simp] theorem launchFlight_swpt (c : Core) (f : Flight) : (launchFlight c f).swpt = c.swpt := by simp [launchFlight]
@[simp] theorem launchFlight_pend (c : Core) (f : Flight) : (launchFlight c f).pend = c.pend := by simp [launchFlight]
@[simp] theorem launchFlight_written (c : Core) (f : Flight) : (launchFlight c f).written = c.written := by simp [launchFlight]
@[simp] theorem tickFlights_run (c : Core) : (tickFlights c).run = c.run := rfl
@[simp] theorem tickFlights_leaving (c : Core) : (tickFlights c).leaving = c.leaving := rfl
@[simp] theorem tickFlights_pc (c : Core) : (tickFlights c).pc = c.pc := rfl
@[simp] theorem tickFlights_g (c : Core) : (tickFlights c).g = c.g := rfl
@[simp] theorem tickFlights_v (c : Core) : (tickFlights c).v = c.v := rfl
@[simp] theorem tickFlights_p (c : Core) : (tickFlights c).p = c.p := rfl
@[simp] theorem tickFlights_o (c : Core) : (tickFlights c).o = c.o := rfl
@[simp] theorem tickFlights_empty (c : Core) : (tickFlights c).empty = c.empty := rfl
@[simp] theorem tickFlights_owner (c : Core) : (tickFlights c).owner = c.owner := rfl
@[simp] theorem tickFlights_fflags (c : Core) : (tickFlights c).fflags = c.fflags := rfl
@[simp] theorem tickFlights_frm (c : Core) : (tickFlights c).frm = c.frm := rfl
@[simp] theorem tickFlights_seed (c : Core) : (tickFlights c).seed = c.seed := rfl
@[simp] theorem tickFlights_tvec (c : Core) : (tickFlights c).tvec = c.tvec := rfl
@[simp] theorem tickFlights_tcause (c : Core) : (tickFlights c).tcause = c.tcause := rfl
@[simp] theorem tickFlights_noResume (c : Core) : (tickFlights c).noResume = c.noResume := rfl
@[simp] theorem tickFlights_tinfo (c : Core) : (tickFlights c).tinfo = c.tinfo := rfl
@[simp] theorem tickFlights_riskEn (c : Core) : (tickFlights c).riskEn = c.riskEn := rfl
@[simp] theorem tickFlights_riskPend (c : Core) : (tickFlights c).riskPend = c.riskPend := rfl
@[simp] theorem tickFlights_risk (c : Core) : (tickFlights c).risk = c.risk := rfl
@[simp] theorem tickFlights_limit (c : Core) : (tickFlights c).limit = c.limit := rfl
@[simp] theorem tickFlights_gpc (c : Core) : (tickFlights c).gpc = c.gpc := rfl
@[simp] theorem tickFlights_glink (c : Core) : (tickFlights c).glink = c.glink := rfl
@[simp] theorem tickFlights_lc (c : Core) : (tickFlights c).lc = c.lc := rfl
@[simp] theorem tickFlights_ec (c : Core) : (tickFlights c).ec = c.ec := rfl
@[simp] theorem tickFlights_rrb (c : Core) : (tickFlights c).rrb = c.rrb := rfl
@[simp] theorem tickFlights_lstart (c : Core) : (tickFlights c).lstart = c.lstart := rfl
@[simp] theorem tickFlights_lend (c : Core) : (tickFlights c).lend = c.lend := rfl
@[simp] theorem tickFlights_active (c : Core) : (tickFlights c).active = c.active := rfl
@[simp] theorem tickFlights_lgpc (c : Core) : (tickFlights c).lgpc = c.lgpc := rfl
@[simp] theorem tickFlights_inHandler (c : Core) : (tickFlights c).inHandler = c.inHandler := rfl
@[simp] theorem tickFlights_fresh (c : Core) : (tickFlights c).fresh = c.fresh := rfl
@[simp] theorem tickFlights_latch (c : Core) : (tickFlights c).latch = c.latch := rfl
@[simp] theorem tickFlights_notice (c : Core) : (tickFlights c).notice = c.notice := rfl
@[simp] theorem tickFlights_window (c : Core) : (tickFlights c).window = c.window := rfl
@[simp] theorem tickFlights_acks (c : Core) : (tickFlights c).acks = c.acks := rfl
@[simp] theorem tickFlights_epoch (c : Core) : (tickFlights c).epoch = c.epoch := rfl
@[simp] theorem tickFlights_acq (c : Core) : (tickFlights c).acq = c.acq := rfl
@[simp] theorem tickFlights_lease (c : Core) : (tickFlights c).lease = c.lease := rfl
@[simp] theorem tickFlights_leaseRem (c : Core) : (tickFlights c).leaseRem = c.leaseRem := rfl
@[simp] theorem tickFlights_leaseReq (c : Core) : (tickFlights c).leaseReq = c.leaseReq := rfl
@[simp] theorem tickFlights_leaseNext (c : Core) : (tickFlights c).leaseNext = c.leaseNext := rfl
@[simp] theorem tickFlights_leaseOk (c : Core) : (tickFlights c).leaseOk = c.leaseOk := rfl
@[simp] theorem tickFlights_leaseBack (c : Core) : (tickFlights c).leaseBack = c.leaseBack := rfl
@[simp] theorem tickFlights_fabricQ (c : Core) : (tickFlights c).fabricQ = c.fabricQ := rfl
@[simp] theorem tickFlights_stall (c : Core) : (tickFlights c).stall = c.stall := rfl
@[simp] theorem tickFlights_bubble (c : Core) : (tickFlights c).bubble = c.bubble := rfl
@[simp] theorem tickFlights_replays (c : Core) : (tickFlights c).replays = c.replays := rfl
@[simp] theorem tickFlights_lastTime (c : Core) : (tickFlights c).lastTime = c.lastTime := rfl
@[simp] theorem tickFlights_preempt (c : Core) : (tickFlights c).preempt = c.preempt := rfl
@[simp] theorem tickFlights_takenUntil (c : Core) : (tickFlights c).takenUntil = c.takenUntil := rfl
@[simp] theorem tickFlights_takeFor (c : Core) : (tickFlights c).takeFor = c.takeFor := rfl
@[simp] theorem tickFlights_opGate (c : Core) : (tickFlights c).opGate = c.opGate := rfl
@[simp] theorem tickFlights_swpt (c : Core) : (tickFlights c).swpt = c.swpt := rfl
@[simp] theorem tickFlights_pend (c : Core) : (tickFlights c).pend = c.pend := rfl
@[simp] theorem tickFlights_written (c : Core) : (tickFlights c).written = [] := rfl

end Sys2Proof.Machine
end

