-- ==== Sys2Proof/Laws/Registers.lean ====
section
/-! SUPPORT. What registers read as after they are written, marked and claimed; sources and checks. -/

namespace Sys2Proof.Machine

/-! ## Physical names -/

theorem physG_lt (r : BitVec 8) {n : Nat} (h : n < 64) : physG r n < 64 := by unfold physG; split <;> omega

theorem physV_lt (r : BitVec 8) {n : Nat} (h : n < 64) : physV r n < 64 := by unfold physV; split <;> omega

theorem physP_lt (r : BitVec 8) {n : Nat} (h : n < 16) : physP r n < 16 := by unfold physP; split <;> omega

theorem physP_inj (r : BitVec 8) {m n : Nat} (hm : m < 16) (hn : n < 16) (h : physP r m = physP r n) : m = n := by
  unfold physP at h; split at h <;> split at h <;> omega

theorem regCode_inj {f e : RegFile} {m n : Nat} (hm : m < 64) (hn : n < 64) (h : regCode f m = regCode e n) :
    f = e ∧ m = n := by
  cases f <;> cases e <;> simp [regCode, fileCode] at h ⊢ <;> omega

/-! ## Marks and owners -/

theorem isEmpty_setEmpty (c : Core) (f : RegFile) (n : Nat) (e : Bool) (h : hardwired f n = false) :
    isEmpty (setEmpty c f n e) f n = e := by simp [isEmpty, setEmpty, h]

theorem ownerOf_setOwner (c : Core) (f : RegFile) (n w : Nat) (h : hardwired f n = false) :
    ownerOf (setOwner c f n w) f n = w := by simp [ownerOf, setOwner, h]

theorem isEmpty_setEmpty_of_ne (c : Core) {f q : RegFile} {m n : Nat} (e : Bool) (h : regCode q n ≠ regCode f m) :
    isEmpty (setEmpty c f m e) q n = isEmpty c q n := by
  unfold isEmpty setEmpty; split
  · rfl
  · exact mget_mset_of_ne _ _ _ h

theorem ownerOf_setOwner_of_ne (c : Core) {f q : RegFile} {m n : Nat} (w : Nat) (h : regCode q n ≠ regCode f m) :
    ownerOf (setOwner c f m w) q n = ownerOf c q n := by
  unfold ownerOf setOwner; split
  · rfl
  · exact mget_mset_of_ne _ _ _ h

@[simp] theorem ownerOf_setEmpty (c : Core) (f q : RegFile) (m n : Nat) (e : Bool) :
    ownerOf (setEmpty c f m e) q n = ownerOf c q n := by simp [ownerOf]

@[simp] theorem isEmpty_setOwner (c : Core) (f q : RegFile) (m n w : Nat) :
    isEmpty (setOwner c f m w) q n = isEmpty c q n := by simp [isEmpty]

@[simp] theorem ownerOf_writeReg (c : Core) (f q : RegFile) (m n : Nat) (x : Vec) :
    ownerOf (writeReg c f m x) q n = ownerOf c q n := by simp [ownerOf]

@[simp] theorem isEmpty_writeReg (c : Core) (f q : RegFile) (m n : Nat) (x : Vec) :
    isEmpty (writeReg c f m x) q n = isEmpty c q n := by simp [isEmpty]

theorem ownerOf_claimReg_of_ne (c : Core) {f q : RegFile} {m n : Nat} (w : Nat) (e : Bool)
    (h : regCode q n ≠ regCode f m) : ownerOf (claimReg c f m w e) q n = ownerOf c q n := by
  unfold claimReg; split
  · rfl
  · rw [ownerOf_setOwner_of_ne _ _ h, ownerOf_setEmpty]

theorem isEmpty_claimReg_of_ne (c : Core) {f q : RegFile} {m n : Nat} (w : Nat) (e : Bool)
    (h : regCode q n ≠ regCode f m) : isEmpty (claimReg c f m w e) q n = isEmpty c q n := by
  unfold claimReg; split
  · rfl
  · rw [isEmpty_setOwner, isEmpty_setEmpty_of_ne _ _ h]

/-! ## Values -/

theorem physReadP_writeReg (c : Core) (m n : Nat) (x : Vec) :
    physReadP (writeReg c .p m x) n = if n = m ∧ m ≠ 0 then x.setWidth 128 else physReadP c n := by
  unfold physReadP writeReg hardwired
  by_cases hm : m = 0
  · simp [hm]
  · by_cases hn : n = 0
    · have : ¬ n = m := by omega
      simp [hm, hn, Ne.symm hm]
    · simp only [hn, beq_eq_false_iff_ne.2 hm, Bool.false_and, if_false]
      exact (mget_mset _ _ _ _ _).trans (by simp [hm])

theorem physReadG_writeReg (c : Core) (m n : Nat) (x : Vec) :
    physReadG (writeReg c .g m x) n = if n = m ∧ m ≠ 0 then x.setWidth 64 else physReadG c n := by
  unfold physReadG writeReg hardwired
  by_cases hm : m = 0
  · simp [hm]
  · by_cases hn : n = 0
    · simp [hm, hn, Ne.symm hm]
    · simp only [hn, beq_eq_false_iff_ne.2 hm, Bool.false_and, if_false]
      exact (mget_mset _ _ _ _ _).trans (by simp [hm])

theorem physReadV_writeReg (c : Core) (m n : Nat) (x : Vec) :
    physReadV (writeReg c .v m x) n = if n = m then x else physReadV c n := by
  unfold physReadV writeReg hardwired
  simp [mget_mset]

@[simp] theorem physReadP_claimReg (c : Core) (f : RegFile) (m w n : Nat) (e : Bool) :
    physReadP (claimReg c f m w e) n = physReadP c n := by simp [physReadP]

@[simp] theorem physReadG_claimReg (c : Core) (f : RegFile) (m w n : Nat) (e : Bool) :
    physReadG (claimReg c f m w e) n = physReadG c n := by simp [physReadG]

@[simp] theorem physReadV_claimReg (c : Core) (f : RegFile) (m w n : Nat) (e : Bool) :
    physReadV (claimReg c f m w e) n = physReadV c n := by simp [physReadV]

/-! ## Sources and checks -/

theorem withSources_full {s : State} {xs : List Source} (h : ∀ x ∈ xs, readable (src s) x = true) (k : Out) :
    withSources s xs k = k := by
  unfold withSources
  rw [List.find?_eq_none.2 (by simpa using h)]

theorem withSources_empty {s : State} {xs : List Source} {x : Source}
    (h : xs.find? (fun x => !readable (src s) x) = some x) (k : Out) :
    withSources s xs k = if x.trap then trap s causeEmptyRead (BitVec.ofNat 64 (regCode x.file x.num))
      else stallOn s .freeze (some (x.file, x.num)) := by
  unfold withSources; rw [h]

@[simp] theorem checked_false (s : State) (c : Nat) (i : Dword) (k : Out) : checked s false c i k = k := rfl

@[simp] theorem checked_true (s : State) (c : Nat) (i : Dword) (k : Out) : checked s true c i k = trap s c i := rfl

end Sys2Proof.Machine
end

