-- ==== Sys2Proof/Tests/Slice0.lean ====
section
/-! SUPPORT. Tests of the model: ill-formed terms that are refused, words of the spec's encodings as the decoder reads them,
single steps with results that the spec states, and for every statement with hypotheses a state that meets them. -/

namespace Sys2Proof.Tests

open Sys2Proof.Machine

/-! ## States for the tests -/

/-- Core 0 runs a task of one launch, in a whole HBM region at address 0, with its g registers set. -/
def withG (gs : List (Nat × Nat)) : State :=
  let s := placeWord State.reset 0
  setLive s { live s with g := gs.map fun e => (e.1, BitVec.ofNat 64 e.2) }

/-- A request of a type, as it is at least. -/
def requestOf (t : Nat) (body : List Byte) : Request :=
  { auth := 0, context := 1, length := BitVec.ofNat 32 body.length, seq := 7, status := 0, function := 0, partition := 0,
    type := BitVec.ofNat 16 t, reserved := 0, version := 1, source := 5, ordered := false, body := body }

/-! ## Ill-formed terms (WellFormed) -/

theorem test_illformed_words : ([
    .loop 0 3 1 false, .pand 16 1 2 false false, .por 1 16 2 false false, .pxor 1 2 16 false false,
    .pandn 63 1 2 false false, .pnot 16 1 false, .pnot 1 16 false, .pcnt 5 16 false, .ald 1 2 false .die .release false,
    .ald 1 2 false .die .acqRel false, .ast 1 2 false .die .acquire false, .ast 1 2 false .die .acqRel false,
    .vcvt 1 2 .dyn .fp32 false 0 .fp32, .vcvt 1 2 .dyn .int8 true 0 .fp32, .vcvt 1 2 .dyn .fp32 true 0 .bf16,
    .vcvt 1 2 .dyn .fp32 true 0 .e4m3, .vqnt 1 2 .bf16 false 0, .cpy 1 0 0 false false, .cpyh 1 0 0 false false,
    .cpyp 1 0 0 false false, .cpye 1 0 0 false false] : List Instr).all (fun i => !wellFormed i) = true := by decide

/-- A request event with a request of another listed type. -/
theorem test_illformed_requests :
    (requestRows.map fun f => wellFormed (f (requestOf 0x0001 [])) || wellFormed (f (requestOf 0x0010 []))).count true = 2 ∧
      requestRows.all (fun f => !wellFormed (f (requestOf 0x0012 [])) || !wellFormed (f (requestOf 0x0060 []))) = true := by
  decide

theorem test_wellformed : ([
    .loop 1 3 1 false, .pand 15 0 15 false false, .pcnt 63 15 false, .ald 1 2 false .die .acquire false,
    .ast 1 2 false .die .release false, .vcvt 1 2 .dyn .fp32 true 0 .e5m2, .vqnt 1 2 .e5m2 false 0, .cpy 1 1 0 false false,
    .identify (requestOf 0x0001 []), .identify (requestOf 0x0099 [])] : List Instr).all wellFormed = true := by decide

/-! ## Words (R188 to R194, and the tables of the families' chapters) -/

/-- Words, each with its chain bit and the instruction that it stands for. -/
def decodesTo (l : List (Word × Bool × Instr)) : Prop := l.map (fun p => decode p.1) = l.map fun p => .ok p.2

/-- Words that the spec writes out itself. -/
theorem test_decode_spec_words_1 : decodesTo [
    (0xBE8A6A48, true, .vfadd 40 41 42 false 9), (0x84518700, true, .add 5 6 7 false false),
    (0x2480C302, false, .ld 8 3 false 6 2), (0x08619FFF, false, .addi 6 6 false 0x1FFF),
    (0x146007FF, false, .bne 6 0 false 0x3FF), (0x00010501, false, .trap 4 5 false),
    (0x00701203, false, .rdsr 7 .prio), (0x00024304, false, .wrsr 9 .tvec false), (0x00720005, false, .snaprd 7 8 false),
    (0x00020906, false, .snapwr 8 9 false false), (0x00000008, false, .fenceD), (0x0001400C, false, .exit 5 false),
    (0x0062000D, false, .launch 6 8 false), (0x0000830E, false, .deadline 2 3 false false), (0x0000030F, false, .swpt 3),
    (0x70028B00, false, .waitge 10 11 false false), (0x70028C01, false, .armcnt 10 12 false false),
    (0x70051502, false, .bar 20 21 false false), (0x4C510407, false, .vqnt 5 4 .e2m1 false 0),
    (0x48A5031D, false, .vred 10 20 .fadd false 3)] := rfl

theorem test_decode_spec_words_2 : decodesTo [
    (0x44718203, false, .vcvt 7 6 (.fixed .rne) .fp32 false 0 .bf16), (0x54000000, false, .mlease),
    (0x54000001, false, .mrel), (0x54000202, false, .mclr 2), (0x54324003, false, .mofs 3 9 false),
    (0x54700204, false, .mstat 7 (.bank 2)), (0x58A30A00, false, .mma 5 6 1 2 false), (0x58A30A01, false, .mmaw 5 6 1 2 false),
    (0x61420C00, false, .cpy 20 2 12 false false), (0x61520001, false, .cpyh 21 2 0 false false),
    (0x60014002, false, .stage 5 false), (0x65420C00, false, .cpyp 20 2 12 false false),
    (0x65420001, false, .cpye 20 2 0 false false), (0x6A820900, false, .rld 40 8 9 false false),
    (0x6A820901, false, .rst 40 8 9 false false), (0x68A20908, false, .ratAdd 10 8 9 false false),
    (0x68A2090F, false, .ratCas 5 8 9 false false), (0x68B20916, false, .rredFadd 11 8 9 false false),
    (0x6C020000, false, .post 8 false), (0x6C020901, false, .trig 8 9 false false),
    (0x6CA20902, false, .ticket 10 8 9 false false), (0x6C020903, false, .flagadd 8 9 false false),
    (0x6C720904, false, .flagset 7 8 9 false false), (0x6C020905, false, .barg 8 9 false false)] := rfl

/-! ### Every constructor of a word, by its fields -/

theorem test_decode_system : decodesTo [
    (0x00000000, false, .nop), (0x800D5A81, true, .trap 53 26 true), (0x00000002, false, .eret),
    (0x83501203, true, .rdsr 53 .prio), (0x000D4384, false, .wrsr 53 .tvec true),
    (0x83568085, true, .snaprd 53 26 true), (0x000D5A86, false, .snapwr 53 26 true false),
    (0x80000007, true, .fenceS), (0x00000008, false, .fenceD), (0x80000009, true, .fenceY),
    (0x0000000A, false, .suspend), (0x8000000B, true, .endstep), (0x000D400C, false, .exit 53 false),
    (0x8356808D, true, .launch 53 26 true), (0x000D5A8E, false, .deadline 53 26 true false),
    (0x800AD50F, true, .swpt 2773), (0x700D5A80, false, .waitge 53 26 true false),
    (0xF00D5A81, true, .armcnt 53 26 true false), (0x700D5A82, false, .bar 53 26 true false)] := rfl

theorem test_decode_integer_1 : decodesTo [
    (0x8756A940, true, .add 53 26 41 false true), (0x0756A941, false, .sub 53 26 41 false true),
    (0x8756A942, true, .and 53 26 41 false true), (0x0756A943, false, .or 53 26 41 false true),
    (0x8756A944, true, .xor 53 26 41 false true), (0x0756A945, false, .andn 53 26 41 false true),
    (0x8756A946, true, .sll 53 26 41 false true), (0x0756A947, false, .srl 53 26 41 false true),
    (0x8756A948, true, .sra 53 26 41 false true), (0x0756A949, false, .rotl 53 26 41 false true),
    (0x8756A94A, true, .slt 53 26 41 false true), (0x0756A94B, false, .sltu 53 26 41 false true),
    (0x8756A94C, true, .seq 53 26 41 false true), (0x0756A94D, false, .min 53 26 41 false true),
    (0x8756A94E, true, .max 53 26 41 false true), (0x0756A94F, false, .minu 53 26 41 false true),
    (0x8756A950, true, .maxu 53 26 41 false true), (0x07568091, false, .clz 53 26 true),
    (0x87568092, true, .popc 53 26 true), (0x0756A914, false, .slli 53 26 41 false)] := rfl

theorem test_decode_integer_2 : decodesTo [
    (0x8756A915, true, .srli 53 26 41 false), (0x0756A916, false, .srai 53 26 41 false),
    (0x8756A917, true, .rotli 53 26 41 false), (0x0B56BAD5, false, .addi 53 26 true 6869)] := rfl

theorem test_decode_multiply : decodesTo [
    (0x8F56A940, true, .mul 53 26 41 false true), (0x0F56A941, false, .mulh 53 26 41 false true),
    (0x8F56A942, true, .mulhu 53 26 41 false true), (0x0F56A943, false, .mulhsu 53 26 41 false true),
    (0x8F56A944, true, .div 53 26 41 false true), (0x0F56A945, false, .divu 53 26 41 false true),
    (0x8F56A946, true, .rem 53 26 41 false true), (0x0F56A947, false, .remu 53 26 41 false true),
    (0x93545AD5, true, .li 53 1 23253), (0x13555AD5, false, .lik 53 1 23253)] := rfl

theorem test_decode_control : decodesTo [
    (0x9756A2D5, true, .beq 53 26 true 725), (0x1756A6D5, false, .bne 53 26 true 725),
    (0x9756AAD5, true, .blt 53 26 true 725), (0x1756AED5, false, .bge 53 26 true 725),
    (0x9756B2D5, true, .bltu 53 26 true 725), (0x1756B6D5, false, .bgeu 53 26 true 725),
    (0x995A5AD5, true, .jmp 22698709), (0x1B5A5AD5, false, .jal 22698709), (0x9C0D4000, true, .jr 53 false),
    (0x1F568081, false, .jalr 53 26 true), (0x9F56A942, true, .call 53 26 41 false true),
    (0x1C0D4003, false, .ret 53 false), (0x9C0D4004, true, .gset 53 false),
    (0x2356A900, false, .loop 53 26 41 false), (0xA0D18948, true, .pand 13 6 9 false true),
    (0x20D18949, false, .por 13 6 9 false true), (0xA0D1894A, true, .pxor 13 6 9 false true),
    (0x20D1894B, false, .pandn 13 6 9 false true), (0xA0D1808C, true, .pnot 13 6 true),
    (0x2351808D, false, .pcnt 53 6 true)] := rfl

theorem test_decode_loads_stores : decodesTo [
    (0xA756BAD5, true, .ld 53 26 true 53 85), (0x2B56AAD5, false, .st 53 26 true false 2773),
    (0x3356BA80, false, .vld 53 26 true 53), (0xB356A029, true, .vstW 53 26 true 5),
    (0x3356A02A, false, .vstH 53 26 true 5), (0xB356A02B, true, .vstB 53 26 true 5),
    (0x3756A928, false, .vgather 53 26 41 false 5), (0xB756A929, true, .vscatter 53 26 41 false 5)] := rfl

theorem test_decode_atomics_1 : decodesTo [
    (0xAF56B400, true, .ald 53 26 true .package .sc false), (0x2F56B401, false, .ast 53 26 true .package .sc false),
    (0xAF56B402, true, .atomAdd 53 26 true .package .sc false),
    (0x2F56B403, false, .atomAnd 53 26 true .package .sc false),
    (0xAF56B404, true, .atomOr 53 26 true .package .sc false),
    (0x2F56B405, false, .atomXor 53 26 true .package .sc false),
    (0xAF56B406, true, .atomMin 53 26 true .package .sc false),
    (0x2F56B407, false, .atomMax 53 26 true .package .sc false),
    (0xAF56B408, true, .atomMinu 53 26 true .package .sc false),
    (0x2F56B409, false, .atomMaxu 53 26 true .package .sc false),
    (0xAF56B40A, true, .atomSwap 53 26 true .package .sc false),
    (0x2F56B48B, false, .atomFadd 53 26 true .package .sc), (0xAF56B48C, true, .atomFmin 53 26 true .package .sc),
    (0x2F56B48D, false, .atomFmax 53 26 true .package .sc), (0xAEA6B410, true, .acas 21 26 true .package .sc false),
    (0x2D46B411, false, .acas2 5 26 true .package .sc), (0xAF56B412, true, .aenq 53 26 true .package .sc),
    (0x2F56B413, false, .apchase 53 26 true .package .sc),
    (0xAF56B420, true, .aredAdd 53 26 true .package .sc false),
    (0x2F56B421, false, .aredAnd 53 26 true .package .sc false)] := rfl

theorem test_decode_atomics_2 : decodesTo [
    (0xAF56B422, true, .aredOr 53 26 true .package .sc false),
    (0x2F56B423, false, .aredXor 53 26 true .package .sc false),
    (0xAF56B424, true, .aredMin 53 26 true .package .sc false),
    (0x2F56B425, false, .aredMax 53 26 true .package .sc false),
    (0xAF56B426, true, .aredMinu 53 26 true .package .sc false),
    (0x2F56B427, false, .aredMaxu 53 26 true .package .sc false),
    (0xAF56B4A8, true, .aredFadd 53 26 true .package .sc), (0x2F56B4A9, false, .aredFmin 53 26 true .package .sc),
    (0xAF56B4AA, true, .aredFmax 53 26 true .package .sc)] := rfl

theorem test_decode_vector_arithmetic_1 : decodesTo [
    (0x3B56A928, false, .vadd 53 26 41 false 5), (0xBB56A929, true, .vsub 53 26 41 false 5),
    (0x3B56A92A, false, .vmul 53 26 41 false 5), (0xBB56A92B, true, .vmin 53 26 41 false 5),
    (0x3B56A92C, false, .vmax 53 26 41 false 5), (0xBB56A92D, true, .vand 53 26 41 false 5),
    (0x3B56A92E, false, .vor 53 26 41 false 5), (0xBB56A92F, true, .vxor 53 26 41 false 5),
    (0x3F56A928, false, .vfadd 53 26 41 false 5), (0xBF56A929, true, .vfsub 53 26 41 false 5),
    (0x3F56A92A, false, .vfmul 53 26 41 false 5), (0xBF56A92B, true, .vfdiv 53 26 41 false 5),
    (0x3F56A92C, false, .vfmin 53 26 41 false 5), (0xBF56A92D, true, .vfmax 53 26 41 false 5),
    (0x3F5680AE, false, .vfsqrt 53 26 true 5), (0xBF5680AF, true, .vfabs 53 26 true 5),
    (0x4356A928, false, .vfma 53 26 41 false 5), (0xC356A929, true, .vfms 53 26 41 false 5),
    (0x4356A92A, false, .vfnma 53 26 41 false 5), (0xC356A92B, true, .vfnms 53 26 41 false 5)] := rfl

theorem test_decode_vector_arithmetic_2 : decodesTo [
    (0x4356A92C, false, .vmad 53 26 41 false 5), (0xC356A92D, true, .vdot4 53 26 41 false 5),
    (0x4756BA2B, false, .vcvt 53 26 .dyn .fp32 false 5 .bf16)] := rfl

theorem test_decode_vector_moves_1 : decodesTo [
    (0xCB56A928, true, .vshl 53 26 41 false 5), (0x4B56A929, false, .vshr 53 26 41 false 5),
    (0xCB56A92A, true, .vshra 53 26 41 false 5), (0x4B56A92B, false, .vperm 53 26 41 false 5),
    (0xCB56812C, true, .vbcast 53 26 true false 5), (0x4B56832D, false, .vred 53 26 .fadd false 5),
    (0xCB56B006, true, .vpack 53 26 (.byte 2) false), (0x4B56B007, false, .vunpack 53 26 (.byte 2) false),
    (0xCF5680A8, true, .vexp2 53 26 true 5), (0x4F5680A9, false, .vlog2 53 26 true 5),
    (0xCF5680AA, true, .vrcp 53 26 true 5), (0x4F5680AB, false, .vrsqrt 53 26 true 5),
    (0xCF5680AC, true, .vsinpi 53 26 true 5), (0x4F5680AD, false, .vtanh 53 26 true 5),
    (0xCF5680AE, true, .vrng 53 26 true 5), (0x4F56842F, false, .vqnt 53 26 .e2m1 false 5),
    (0xD056A928, true, .vcmpeq 5 26 41 false 5), (0x5056A929, false, .vcmplt 5 26 41 false 5),
    (0xD056A92A, true, .vcmple 5 26 41 false 5), (0x5056A92B, false, .vfcmpeq 5 26 41 false 5)] := rfl

theorem test_decode_vector_moves_2 : decodesTo [
    (0xD056A92C, true, .vfcmplt 5 26 41 false 5), (0x5056A92D, false, .vfcmple 5 26 41 false 5),
    (0xD356A92E, true, .vsel 53 26 41 false 5), (0x505680AF, false, .vmsk 5 26 true 5)] := rfl

theorem test_decode_array : decodesTo [
    (0xD4000000, true, .mlease), (0x54000001, false, .mrel), (0xD4000102, true, .mclr 1),
    (0x54568083, false, .mofs 5 26 true), (0xD7500D04, true, .mstat 53 (.offset 5)),
    (0x5AAAAD80, false, .mma 21 21 5 5 true), (0xDAAAAD81, true, .mmaw 21 21 5 5 true),
    (0x5EA07980, false, .mdrain 21 1 .dyn .bf16 true)] := rfl

theorem test_decode_copy : decodesTo [
    (0xE3552940, true, .cpy 53 5 41 false true), (0x63552941, false, .cpyh 53 5 41 false true),
    (0xE00D4002, true, .stage 53 false)] := rfl

theorem test_decode_fabric_1 : decodesTo [
    (0x67552940, false, .cpyp 53 5 41 false true), (0xE7552941, true, .cpye 53 5 41 false true),
    (0x6B56A940, false, .rld 53 26 41 false true), (0xEB56A941, true, .rst 53 26 41 false true),
    (0x6B56A948, false, .ratAdd 53 26 41 false true), (0xEB56A949, true, .ratAnd 53 26 41 false true),
    (0x6B56A94A, false, .ratOr 53 26 41 false true), (0xEB56A94B, true, .ratXor 53 26 41 false true),
    (0x6B56A94C, false, .ratMin 53 26 41 false true), (0xEB56A94D, true, .ratMax 53 26 41 false true),
    (0x6B56A94E, false, .ratSwap 53 26 41 false true), (0xEAA6A94F, true, .ratCas 21 26 41 false true),
    (0x6B56A950, false, .rredAdd 53 26 41 false true), (0xEB56A951, true, .rredAnd 53 26 41 false true),
    (0x6B56A952, false, .rredOr 53 26 41 false true), (0xEB56A953, true, .rredXor 53 26 41 false true),
    (0x6B56A954, false, .rredMin 53 26 41 false true), (0xEB56A955, true, .rredMax 53 26 41 false true),
    (0x6B56A956, false, .rredFadd 53 26 41 false true), (0xEB56A957, true, .rredFmin 53 26 41 false true)] := rfl

theorem test_decode_fabric_2 : decodesTo [
    (0x6B56A958, false, .rredFmax 53 26 41 false true), (0xEC0D4000, true, .post 53 false),
    (0x6C0D5A81, false, .trig 53 26 true false), (0xEF56A942, true, .ticket 53 26 41 false true),
    (0x6C0D5A83, false, .flagadd 53 26 true false), (0xEF56A944, true, .flagset 53 26 41 false true),
    (0x6C0D5A85, false, .barg 53 26 true false)] := rfl

/-- Reserved majors, functions, fields and values are refused (R191). -/
theorem test_decode_refuses : ([
    0x74000000, 0x78000000, 0x7C000000, 0x00000010, 0x00100000, 0x70000003, 0x04000013, 0x10020000, 0x14001800, 0x20000000,
    0x2C000780, 0x2C000540, 0x5800000A, 0x58104000, 0x54800003, 0x54000402, 0x54000504, 0x44000000, 0x44002A03,
    0x4C002007, 0x48000605, 0x30000008, 0x60000000, 0x5C000300, 0x00001503] : List Word).all
      (fun w => match decode w with
        | .ok _ => false
        | .error _ => true) = true := by decide

/-! ## Witnesses: states and operands that meet the hypotheses of each statement -/

theorem test_witness_EncodedWordsDecode :
    wellFormed (.vfadd 40 41 42 false 9) = true ∧ 0xBE8A6A48#32 ∈ encode true (.vfadd 40 41 42 false 9) := by decide

theorem test_witness_DecodedWordsEncode : decode 0x0000000B#32 = .ok (false, .endstep) := rfl

theorem test_witness_IllegalWordsTrap :
    29 ≤ ((0x74000000#32).extractLsb' 26 5).toNat ∧ 29 ≤ ((0xFFFFFFFF#32).extractLsb' 26 5).toNat ∧
    ((0x02000040#32).extractLsb' 26 5 = 0 ∧ (0x02000040#32).extractLsb' 0 6 = 0 ∧ (0x02000040#32).extractLsb' 0 26 ≠ 0) ∧
    let s := placeWord State.reset 0x74000000
    ∃ x e, launchOf s.dev 0 = some x ∧ fetchWords s.dev x (stopeOf 0) 6 (coreAt s.dev 0).pc = .words [0x74000000] ∧
      decode 0x74000000#32 = .error e :=
  ⟨by decide, by decide, by decide, _, _, rfl, rfl, rfl⟩

theorem test_witness_StepRunsTheDecodedInstruction :
    let s := placeWord State.reset 0x04518700
    let e := atTurn (passTime s.dev 1) 0
    s.agenda = [⟨1, .core 0⟩] ∧ clearToIssue (passTime s.dev 1) 0 ∧
      (∃ x, launchOf e 0 = some x ∧ let d := atFetch (passTime s.dev 1) 0 x
        fetchWords d x (stopeOf 0) 6 (coreAt d 0).pc = .words [0x04518700]) ∧
      decode 0x04518700#32 = .ok (false, .add 5 6 7 false false) ∧
      isWord (.postedOpFire 3) = false ∧ wellFormed (.postedOpFire 3) = true :=
  ⟨rfl, ⟨rfl, rfl, rfl, rfl, rfl, rfl, rfl, rfl, rfl, rfl, rfl, fun _ h => by cases h; exact ⟨rfl, rfl⟩⟩, ⟨_, rfl, rfl⟩, rfl, rfl,
    rfl⟩

theorem test_witness_NothingFaultsOrIsRefused :
    fairAgenda { State.reset with agenda := [⟨1, .event .fecWindowClear⟩] } ∧ fairAgenda State.reset := by
  refine ⟨fun t h i hi => ?_, fun t h => by simp [State.reset] at h⟩
  simp only [List.head?_cons, Option.some.injEq] at h
  subst h
  injection hi with hi
  subst hi
  decide

theorem test_witness_StepKeepsMemoryCanonical :
    (placeWord State.reset 0x0000000B).memOk = true ∧ ∃ t, step (placeWord State.reset 0x0000000B) = .next t :=
  ⟨rfl, _, rfl⟩

/-- A result in flight for a register. -/
def flightOf (word : Nat) (f : RegFile) (n remain : Nat) (fixed : Bool) (x : Nat) : Flight :=
  ⟨word, f, n, remain, fixed, fixed, false, BitVec.ofNat 1024 x, 1, .none⟩

theorem test_witness_LandingsGoToTheOwner :
    let c := { coreReset with owner := [(regCode .g 63, 9)] }
    hardwired .g 63 = false ∧ ownerOf c .g 63 = (flightOf 9 .g 63 1 true 5).word ∧
      ownerOf c .g 63 ≠ (flightOf 8 .g 63 1 true 5).word ∧ hardwired .g 0 = true := by decide

theorem test_witness_ResultsAtIssue :
    let l := flightOf 9 .p 15 16 true 5
    l.fixed = true ∧ 1 ≤ l.remain ∧ l.remain ≤ 16 ∧ hardwired l.file l.num = false ∧
      ownerOf coreReset l.file l.num ≤ l.word ∧ (∀ m ∈ coreReset.flights, m.word ≠ l.word) ∧ 15 < l.remain ∧ l.num < 64 ∧
      ownerOf (live State.reset) l.file l.num ≤ l.word := by decide

/-- A state whose g7 is empty. -/
def emptyG7 : State :=
  let s := withG [(6, 5)]
  setLive s { live s with empty := [(regCode .g 7, true)] }

theorem test_witness_EmptySourcesTrapOrFreeze :
    (sourcesOf (.add 5 6 7 false true) emptyG7).find? (fun x => !readable (src emptyG7) x) = some ⟨.g, 7, true⟩ ∧
      (sourcesOf (.add 5 6 7 false false) emptyG7).find? (fun x => !readable (src emptyG7) x) = some ⟨.g, 7, false⟩ := by
  decide

/-- The device of core 0's task with a handler at packet 2. -/
def withHandler : State :=
  let s := withG [(4, 77)]
  setLive s { live s with tvec := 24 }

theorem test_witness_TrapEntry :
    handled withHandler.dev 0 ∧ ¬ handled (withG []).dev 0 ∧ (coreAt (withG []).dev 0).run = some ⟨0, 0⟩ ∧
      launchAt (withG []).dev 0 = some probeLaunch ∧ probeLaunch.stop = none ∧
      ∃ q, { withHandler with clause := some ⟨withHandler.dev, 0, 0, 4, none, .going⟩ }.clause = some q :=
  ⟨⟨by decide, rfl, by decide⟩, fun h => absurd h.1 (by decide), rfl, rfl, rfl, _, rfl⟩

theorem test_witness_TrapWord :
    sourcesFull (.trap 4 5 false) withHandler ∧ handled (modCore withHandler.dev withHandler.cur tickFlights) 0 :=
  ⟨by unfold sourcesFull; decide, by decide, rfl, by decide⟩

theorem test_witness_TrapWithoutHandler :
    sourcesFull (.trap 4 63 false) (withG []) ∧ (live (withG [])).tvec = 0 ∧ (live (withG [])).run = some ⟨0, 0⟩ ∧
      launchAt (withG []).dev 0 = some probeLaunch ∧ probeLaunch.stop = none :=
  ⟨by unfold sourcesFull; decide, rfl, rfl, rfl, rfl⟩

/-- Core 0 in a handler, where a landing and a result in flight wait in its latch. -/
def inTheHandler : State :=
  let s := withHandler
  let e := entryOf (flightOf 9 .g 40 12 false 5)
  let i := entryOf (flightOf 8 .v 40 3 true 6)
  setLive s { live s with inHandler := true, latch := some { latchOf (live s) 36 with
    landing := [{ e with valid := true }], inflight := [{ i with valid := true }] } }

theorem test_witness_EretWord :
    (src inTheHandler).inHandler = true ∧ (src inTheHandler).noResume = false ∧
    (∃ l, (live inTheHandler).latch = some l ∧
      (((l.inflight ++ l.landing).filter fun e => e.valid).map fun e => (e.file, e.number)).Nodup ∧
      (∃ e ∈ l.inflight, e.valid = true ∧ hardwired (fileOfCode e.file) e.number.toNat = false ∧ 1 ≤ e.remain.toNat ∧ e.remain.toNat < 63) ∧
      ∃ e ∈ l.landing, e.valid = true ∧ hardwired (fileOfCode e.file) e.number.toNat = false) ∧
    (src withHandler).inHandler = false ∧
    (let s := setLive inTheHandler { live inTheHandler with noResume := true }
     (src s).inHandler = true ∧ (src s).noResume = true ∧ (src s).run = some ⟨0, 0⟩ ∧
       launchAt s.dev 0 = some probeLaunch ∧ probeLaunch.stop = none) :=
  ⟨rfl, rfl, ⟨_, rfl, by decide, ⟨_, List.mem_singleton_self _, rfl, rfl, by decide, by decide⟩, _,
      List.mem_singleton_self _, rfl, rfl⟩,
    rfl, rfl, rfl, rfl, rfl, rfl⟩

/-! The words of the S pipe -/

theorem test_witness_ScalarWords :
    (∀ row ∈ pairRows, sourcesFull (row.word 5 6 63 true false) (withG [(6, 2 ^ 63)])) ∧
      sourcesFull (.clz 5 6 true) (withG []) ∧ sourcesFull (.slli 5 6 63 true) (withG []) ∧
      sourcesFull (.lik 5 3 0x8000) (withG []) := by
  unfold sourcesFull
  decide

theorem test_witness_AddImmediate : sourcesFull (.addi 5 6 false 0x1000) (withG [(6, 2 ^ 63)]) := by
  unfold sourcesFull
  decide

theorem test_witness_PredicateWords :
    (∀ row ∈ predRows, sourcesFull (row.word 15 0 8 true true) (withG [])) ∧ sourcesFull (.pnot 15 8 true) (withG []) := by
  unfold sourcesFull
  decide

theorem test_witness_BranchesJumpsAndCalls :
    let s := withG [(6, 24), (7, 24), (8, 2 ^ 48), (9, 25)]
    (∀ row ∈ branchRows, sourcesFull (row.word 6 7 true 0x200) s) ∧
    (BranchRow.holds ⟨.beq, fun a b => a = b⟩ (readG (src s) 6) (readG (src s) 7)) ∧
    (¬ BranchRow.holds ⟨.beq, fun a b => a = b⟩ (readG (src s) 6) (readG (src s) 8)) ∧
    sourcesFull (.jr 6 false) s ∧ goodTarget s (readG (src s) 6) ∧ sourcesFull (.jalr 5 6 false) s ∧
    sourcesFull (.call 5 6 7 false false) s ∧ (readG (src s) 7).toNat < 2 ^ 48 ∧ sourcesFull (.gset 6 false) s ∧
    (sourcesFull (.call 5 8 0 false false) s ∧ readG (src s) 0 = 0 ∧ 2 ^ 48 ≤ (readG (src s) 8).toNat) ∧
    (sourcesFull (.call 5 9 0 false false) s ∧ (readG (src s) 9).toNat < 2 ^ 48 ∧
      (((readG (src s) 9).toNat : Int) - ((anchorOf s.dev s.cur).toNat : Int)) % 12 ≠ 0) := by
  unfold sourcesFull goodTarget
  refine ⟨by decide, ?_, ?_, by decide, ⟨by decide, by decide⟩, by decide, by decide, by decide, by decide, by decide,
    by decide⟩
  · show _ = _
    decide
  · show ¬ (_ = _)
    decide

/-- A word of a clause that ends at address 12, or at 4. -/
def inClause (s : State) (next : Va) : State := { s with clause := some ⟨s.dev, 0, 0, next, none, .going⟩ }

theorem test_witness_LoopStarts :
    let s := inClause (withG [(6, 3), (7, 2 ^ 32)]) 12
    let z := inClause (withG [(6, 3)]) 4
    sourcesFull (.loop 2 6 1 false) s ∧ packetStart (anchorOf s.dev s.cur) (clauseEnd s) = true ∧
      (readG (src s) 6).setWidth 32 ≠ 0#32 ∧ sourcesFull (.loop 2 7 1 false) s ∧ (readG (src s) 7).setWidth 32 = 0#32 ∧
      sourcesFull (.loop 2 6 1 false) z ∧ packetStart (anchorOf z.dev z.cur) (clauseEnd z) = false ∧
      ownerOf (live s) .p (physP (live s).rrb 9) ≤ wordId s ∧
      (let o := setLive s { live s with owner := [(regCode .p (physP (live s).rrb 9), 9)] }
       sourcesFull (.loop 2 6 1 false) o ∧ wordId o < ownerOf (live o) .p (physP (live o).rrb 9) ∧
         packetStart (anchorOf o.dev o.cur) (clauseEnd o) = true ∧ (readG (src o) 6).setWidth 32 ≠ 0#32) := by
  unfold sourcesFull
  decide

theorem test_witness_BackEdge :
    (let c := { coreReset with rrb := 0, lc := 1, ec := 2 }
     c.lc ≠ 0 ∧ ({ c with lc := 0 } : Core).lc = 0 ∧ 1 < c.ec.toNat ∧ ({ c with ec := 1 } : Core).ec.toNat ≤ 1) ∧
    (let s := withG []
     let s := setLive s { live s with active := true, lend := 4 }
     let s := { s with clause := some ⟨s.dev, 0, 0, 4, none, .going⟩ }
     ∃ q, s.clause = some q ∧ q.target = none ∧ q.verdict ≠ .moved ∧ (live s).leaving = false ∧ (live s).active = true ∧
       q.next = (live s).lend) :=
  ⟨by decide, _, rfl, rfl, by decide, rfl, rfl, rfl⟩

/-! System words -/

theorem test_witness_NopAndFences :
    quiet (withG []) ∧
    (let s := withG []
     let s := setLive s { live s with window := [⟨1, 0, .store []⟩], acks := [], flights :=
       [{ flightOf 5 .g 40 12 false 5 with src := .bytes 0 8 }] }
     let s := { s with dev := { s.dev with issues := 1 } }
     loadsBefore (src s) (wordId s) = true ∧ (src s).window ≠ []) ∧
    (let s := withG []
     earlierClear s = true ∧ storesLeft (live (performOwn s)) = false ∧
       loadsBefore (live (performOwn s)) (7 * s.dev.issues + 7) = false) ∧
    (let s := withG []
     let s := { s with dev := modStope { s.dev with issues := 1 } 0 fun x => { x with board := [⟨0, 3, 0, 31, true⟩] } }
     let l := { flightOf 12 .g 40 12 false 5 with src := .bytes 0 8 }
     let t := { setLive s { live s with flights := [l] } with clause := some ⟨s.dev, 0, 0, 8, none, .going⟩ }
     earlierClear t = true ∧ loadsBefore (live (performOwn t)) (7 * t.dev.issues + 7) = true) :=
  ⟨⟨rfl, rfl, rfl, rfl⟩, ⟨rfl, by decide⟩, ⟨rfl, rfl, rfl⟩, rfl, rfl⟩

theorem test_witness_SystemRegisterAndSnapshotWords :
    let s := withG [(8, 0x40 + 8 * 63), (9, 0x400 + 128 * 63 + 8 * 15), (10, 0x41), (11, 40960), (12, 0xFF),
                    (13, 0x280 + 16 * 15 + 8), (14, 0x380 + 8 * 7), (15, 0x3C0 + 8 * 7), (16, 0x2400 + 8 * 15)]
    sourcesFull (.wrsr 12 .rrb true) s ∧ (.fflags, 5) ∈ plainRegs ∧ SysReg.tcause ∈ readOnlyRegs ∧
    (sourcesFull (.snaprd 7 8 false) s ∧ (readG (src s) 8).toNat = 0x40 + 8 * 63) ∧
    (sourcesFull (.snaprd 7 9 false) s ∧ (readG (src s) 9).toNat = 0x400 + 128 * 63 + 8 * 15) ∧
    (sourcesFull (.snaprd 7 13 false) s ∧ (readG (src s) 13).toNat = 0x280 + 16 * 15 + 8 * 1) ∧
    (sourcesFull (.snaprd 7 14 false) s ∧ (readG (src s) 14).toNat = 0x380 + 8 * 7) ∧
    (sourcesFull (.snaprd 7 15 false) s ∧ (readG (src s) 15).toNat = 0x3C0 + 8 * 7 ∧ imageRegs[7]? = some .freezelimit) ∧
    (sourcesFull (.snaprd 7 16 false) s ∧ (readG (src s) 16).toNat = 0x2400 + 8 * 15 ∧ (src s).latch = none) ∧
    ((readG (src s) 0).toNat % 8 = 0 ∧ (readG (src s) 0).toNat < 0x40) ∧
    (let l := { latchOf (live s) 0 with acq := List.replicate 16 (true, ⟨5, 3, false⟩) }
     let u := setLive s { live s with latch := some l }
     sourcesFull (.snaprd 7 16 false) u ∧ (src u).latch = some l ∧ l.acq[15]? = some (true, ⟨5, 3, false⟩)) ∧
    sourcesFull (.snapwr 8 12 false false) s ∧
    (sourcesFull (.snapwr 10 12 false false) s ∧ (readG (src s) 10).toNat % 8 ≠ 0) ∧
    (sourcesFull (.snapwr 11 12 false false) s ∧ (readG (src s) 11).toNat % 8 = 0 ∧ 40960 ≤ (readG (src s) 11).toNat) := by
  unfold sourcesFull
  decide

/-- What the suspension of core 0's task needs: its record at 0x1000. -/
def suspending : Suspending :=
  ⟨⟨0, 0⟩, probeLaunch, (List.range 64).map fun i => hbmLoc (0x1000 + i), [], []⟩

theorem test_witness_SuspensionWords :
    suspending.holds (putCore (withG []).dev 0 (afterClause (withG []))) 0 ∧ sourcesFull (.exit 0 true) (withG []) ∧
    readG (src (withG [])) 0 = 0 ∧
    (let s := withG [(5, 0xFFFF)]
     sourcesFull (.exit 5 true) s ∧ readG (src s) 5 ≠ 0 ∧ (live s).run = some ⟨0, 0⟩ ∧
       launchAt s.dev 0 = some probeLaunch ∧ probeLaunch.stop = none) :=
  ⟨⟨rfl, rfl, rfl, rfl, rfl, rfl⟩, by unfold sourcesFull; decide, rfl, by unfold sourcesFull; decide, by decide, rfl, rfl,
    rfl⟩

/-- The probe's launch with a switch table at 0x2000 of one switch point. -/
def withSwitches : State :=
  let s := withG [(2, 900), (8, 0x100)]
  let x := { probeLaunch with record := { probeRecord with switches := 1, switchTab := 0x2000 } }
  { s with dev := putLaunch { s.dev with mem := writeN s.dev.mem (hbmLoc (0x2000 + 16 * 7)) 16 (12 + 64 * 2 ^ 64) } 0 x }

/-- The places of the 256 bytes from 0x100 on. -/
def recordPlaces : List Nat := (List.range 256).map fun i => hbmLoc (0x100 + i)

set_option maxRecDepth 8000 in
theorem places_of_record : (List.range 256).all (fun i =>
    match xlate withSwitches.dev (withSwitches.dev.launches.getD 0 (0, probeLaunch)).2 0 .fetch .read
      (0x100 + BitVec.ofNat 64 i) with
    | .place (.hbm a) => a == 0x100 + i && recordPlaces[i]? == some (hbmLoc a)
    | _ => false) = true := by decide

set_option maxRecDepth 8000 in
theorem test_witness_LaunchWord :
    let s := withSwitches
    ∃ x, launchOf s.dev 0 = some x ∧ sourcesFull (.launch 0 8 false) s ∧ (readG (src s) 8).toNat < 2 ^ 48 ∧
      fetchable s x (readG (src s) 8) 256 recordPlaces ∧ diesSound s (diesAt 0 recordPlaces) ∧
      readWaits s (granulesOf recordPlaces) = false ∧
      (∃ tags, raceFree s x (granulesOf recordPlaces) false false true tags) ∧
      (readG (src s) 8).toNat % 8 = 0 ∧ quiet s ∧ dmodeOf s.dev 0 = false ∧
      (let u := setLive s { live s with window := [⟨1, 0, .store []⟩] }
       launchOf u.dev 0 = some x ∧ sourcesFull (.launch 0 8 false) u ∧ fetchable u x (readG (src u) 8) 256 recordPlaces ∧
         (src u).window ≠ [] ∧ dmodeOf u.dev 0 = false) := by
  refine ⟨_, rfl, by unfold sourcesFull; decide, by decide, ⟨rfl, by decide, fun i => .hbm (0x100 + i), ?_⟩,
    rfl, rfl, ⟨_, ⟨0, 0⟩, rfl, rfl, rfl⟩, by decide, ⟨rfl, rfl, rfl, rfl⟩, rfl, rfl, by unfold sourcesFull; decide,
    ⟨rfl, by decide, fun i => .hbm (0x100 + i), ?_⟩, by decide, rfl⟩
  all_goals
    intro i hi
    have h := List.all_eq_true.mp places_of_record i (List.mem_range.mpr hi)
    split at h
    · rename_i a e
      have h : a = 0x100 + i ∧ recordPlaces[i]? = some (hbmLoc a) := by simpa using h
      obtain ⟨rfl, h⟩ := h
      exact ⟨e, h.symm⟩
    · exact absurd h (by decide)

theorem test_witness_DeadlineAndSwitchPointWords :
    let s := withSwitches
    (sourcesFull (.deadline 2 0 false false) s ∧ (src s).run = some ⟨0, 0⟩ ∧ 
      ∃ x, launchAt s.dev 0 = some x ∧ declares s.dev.now (gangCore x 0) x = true ∧
        declares s.dev.now 1 { x with declared := true, declBy := some (s.dev.now, 0) } = false) ∧
    (∃ x, reaches s ⟨.fetch, .read, 0x2070, 1, true, false⟩ x (.hbm 0x2070) ∧ (src s).riskPend = false ∧
      s.dev.power.grant.toNat = 7 ∧ 0 < x.record.switches ∧ x.record.switchTab.toNat % 16 = 0 ∧
      diesSound s (diesOf 0 (.hbm 0x2070)) ∧ readable' s (granules (hbmLoc 0x2070) 16) ∧
      (∃ tags, raceFree s x (granules (hbmLoc 0x2070) 16) false false false tags) ∧ (src s).swpt = none ∧
      readN s.dev.mem (hbmLoc 0x2070) 16 / 2 ^ 48 % 2 ^ 16 = 0 ∧ readN s.dev.mem (hbmLoc 0x2070) 16 / 2 ^ 112 = 0 ∧
      BitVec.ofNat 48 (readN s.dev.mem (hbmLoc 0x2070) 16) ≠ 0 ∧ (64#48).toNat % 4 = 0 ∧
      packetStart (anchorOf s.dev 0) (BitVec.ofNat 48 (readN s.dev.mem (hbmLoc 0x2070) 16)) = true) :=
  ⟨⟨by unfold sourcesFull; decide, rfl, _, rfl, rfl, rfl⟩,
    ⟨_, ⟨rfl, by decide, rfl, rfl, rfl⟩, rfl, rfl, by decide, rfl, rfl, ⟨rfl, rfl⟩, ⟨_, ⟨0, 0⟩, rfl, rfl, rfl⟩, rfl,
      by decide, by decide, by decide, rfl, rfl⟩⟩

/-- Counters at 0x200 (5, armed to 9), at 0x208 (in overrun) and at 0x210 (not armed). -/
def withCounters : State :=
  let s := withG [(10, 0x200), (11, 0x208), (12, 0x210), (13, 5), (14, 6), (15, 2 ^ 64 - 1)]
  { s with dev := { s.dev with
      mem := writeN s.dev.mem (hbmLoc 0x200) 8 5,
      arms := [(hbmLoc 0x200, ⟨0, 0, 9, false, []⟩), (hbmLoc 0x208, ⟨0, 0, 9, true, []⟩)] } }

theorem test_witness_CounterWords :
    let s := withCounters
    (sourcesFull (.waitge 10 13 false false) s ∧
      reaches s ⟨.coreAtomic, .read, readG (src s) 10, 8, true, false⟩ probeLaunch (.hbm 0x200) ∧
      diesSound s (diesOf 0 (.hbm 0x200)) ∧ readable' s (granules (hbmLoc 0x200) 8) ∧
      (∃ tags, raceFree s probeLaunch (granules (hbmLoc 0x200) 8) false true false tags) ∧ dmodeOf s.dev 0 = false ∧
      overrunAt s.dev (hbmLoc 0x200) = false ∧ (readG (src s) 13).toNat ≤ readN s.dev.mem (hbmLoc 0x200) 8 ∧
      sourcesFull (.waitge 10 14 false false) s ∧ readN s.dev.mem (hbmLoc 0x200) 8 < (readG (src s) 14).toNat ∧
      suspending.holds (modCore (accessed s probeLaunch (diesOf 0 (.hbm 0x200)) []).dev 0 fun c =>
        { c with gpc := (src s).gpc }) 0) ∧
    (sourcesFull (.waitge 11 13 false false) s ∧ overrunAt s.dev (hbmLoc 0x208) = true ∧
      reaches s ⟨.coreAtomic, .read, readG (src s) 11, 8, true, false⟩ probeLaunch (.hbm 0x208) ∧
      readable' s (granules (hbmLoc 0x208) 8) ∧
      ∃ tags, raceFree s probeLaunch (granules (hbmLoc 0x208) 8) false true false tags) ∧
    (sourcesFull (.armcnt 12 13 false false) s ∧ armFits s.dev probeLaunch.part (hbmLoc 0x210) = true ∧
      reaches s ⟨.coreAtomic, .write, readG (src s) 12, 8, true, false⟩ probeLaunch (.hbm 0x210) ∧
      diesSound s (diesOf 0 (.hbm 0x210)) ∧
      ∃ tags, raceFree s probeLaunch (granules (hbmLoc 0x210) 8) true true false tags) ∧
    readG (src s) 15 = BitVec.allOnes 64 ∧ (9#64 ≠ BitVec.allOnes 64) ∧
    metWaits { s.dev with mem := writeN s.dev.mem (hbmLoc 0x210) 8 0,
                          arms := minsert s.dev.arms (hbmLoc 0x210) ⟨0, 0, 9, false, []⟩ } = [] :=
  ⟨⟨by unfold sourcesFull; decide, ⟨rfl, by decide, rfl, rfl, rfl⟩, rfl, ⟨rfl, rfl⟩, ⟨_, ⟨0, 0⟩, rfl, rfl, rfl⟩, rfl, rfl,
      by decide, by unfold sourcesFull; decide, by decide, ⟨rfl, rfl, rfl, rfl, rfl, rfl⟩⟩,
    ⟨by unfold sourcesFull; decide, rfl, ⟨rfl, by decide, rfl, rfl, rfl⟩, ⟨rfl, rfl⟩, ⟨_, ⟨0, 0⟩, rfl, rfl, rfl⟩⟩,
    ⟨by unfold sourcesFull; decide, rfl, ⟨rfl, by decide, rfl, rfl, rfl⟩, rfl, ⟨_, ⟨0, 0⟩, rfl, rfl, rfl⟩⟩, rfl, by decide,
    rfl⟩

/-- A launch of eight tasks, of which core 0 runs task 0. -/
def withTasks : State :=
  let s := withG [(20, 63), (21, 64), (22, 1), (23, 4), (24, 9)]
  let x := { probeLaunch with record := { probeRecord with tasks := 8 }, tasks := (List.range 8).map fun i => (i, probeTask) }
  { s with dev := putLaunch s.dev 0 x }

theorem test_witness_BarrierWord :
    let s := withTasks
    ∃ x, launchOf s.dev 0 = some x ∧ (src s).run = some ⟨0, 0⟩ ∧ sourcesFull (.bar 20 22 false false) s ∧
      63 < (readG (src s) 21).toNat ∧ x.record.tasks < (readG (src s) 24).toNat ∧ (readG (src s) 20).toNat ≤ 63 ∧
      (readG (src s) 22).toNat = 1 ∧ mfind x.tasks 0 = some probeTask ∧ quiet s ∧
      mfind x.barriers (slotKey 63 (mget 0 probeTask.arrivals 63)) = none ∧
      (0 : Nat) / (readG (src s) 23).toNat * (readG (src s) 23).toNat + 1 < x.record.tasks ∧
      (∀ e ∈ x.tasks, e.2.state ≠ .exited) ∧
      suspending.record = (List.range 64).map (fun i => hbmLoc (0x1000 + i)) ∧
      (⟨⟨0, 0⟩, x, suspending.record, [], []⟩ : Suspending).holds
        (putCore s.dev 0 (afterClause (setLive s { live s with epoch := nextEpoch (live s).epoch }))) 0 := by
  refine ⟨_, rfl, rfl, ?_, by decide, by decide, by decide, by decide, rfl, ⟨rfl, rfl, rfl, rfl⟩, rfl, by decide,
    by decide, rfl, ⟨rfl, rfl, rfl, rfl, rfl, rfl⟩⟩
  unfold sourcesFull
  decide

/-! Loads, stores and atomics -/

/-- A page entry of a target. -/
def pageOn (target info output : Nat) : LttPage :=
  ⟨1, BitVec.ofNat 3 target, 7, false, false, false, 0, BitVec.ofNat 24 info, BitVec.ofNat 64 output, none⟩

/-- A second region, paged: the local vault, an agent's window, the counter window, a peer, a reduction window, the
vault's side bank, and a regenerate page. -/
def withPages (gs : List (Nat × Nat)) : State :=
  let s := withG gs
  let c := { probeContext with
    regions := probeContext.regions ++ [(1, ⟨true, 0, 0, true, false, 0, 0⟩)],
    pages := [(512, pageOn 0 0 0), (513, pageOn 6 0 0), (514, pageOn 7 0 0), (515, pageOn 3 5 0x40), (516, pageOn 4 9 0),
      (517, pageOn 0 0 0xC00000), (518, { pageOn 2 0 0 with state := 2 })] }
  { s with dev := { s.dev with ctxs := minsert s.dev.ctxs 0 c } }

def vaultPage : Nat := 0x40000000
def agentPage : Nat := 0x40200000
def windowPage : Nat := 0x40400000
def peerPage : Nat := 0x40600000
def reductionPage : Nat := 0x40800000

theorem test_witness_LoadWords :
    let s := withPages [(8, 0x100), (9, windowPage), (10, agentPage), (11, vaultPage)]
    let x := probeLaunch
    (sourcesFull (.ld 5 8 false 0 0x40) (withPages [(8, 0x300)]) ∧
      reaches (withPages [(8, 0x300)]) ⟨.core, .read, 0x100, 8, false, false⟩ x (.hbm 0x100)) ∧
    (sourcesFull (.ld 5 8 true 62 0x3F) s ∧ reaches s ⟨.core, .read, 0x2F8, 8, false, false⟩ x (.hbm 0x2F8) ∧
      (∃ tags, raceFree s x (accessGranules (.hbm 0x2F8) 8) false false false tags) ∧
      diesSound s (diesOf 0 (.hbm 0x2F8))) ∧
    (sourcesFull (.ld 5 9 false 63 0) s ∧
      reaches s ⟨.core, .read, BitVec.ofNat 64 windowPage, 8, false, false⟩ x (.sysreg 0) ∧
      (∃ tags, raceFree s x (accessGranules (.sysreg 0) 8) false false false tags)) ∧
    (sourcesFull (.ld 5 10 false 63 0) s ∧
      reaches s ⟨.core, .read, BitVec.ofNat 64 agentPage, 8, false, false⟩ x (.agent 0 0)) ∧
    (sourcesFull (.vld 40 11 false 6) s ∧
      reaches s ⟨.core, .read, BitVec.ofNat 64 vaultPage, 128, true, false⟩ x (.vault 0 0) ∧
      (∃ tags, raceFree s x (accessGranules (.vault 0 0) 128) false false false tags) ∧
      diesSound s (diesOf 0 (.vault 0 0))) := by
  unfold sourcesFull
  exact ⟨⟨by decide, rfl, by decide, rfl, rfl, rfl⟩,
    ⟨by decide, ⟨rfl, by decide, rfl, rfl, rfl⟩, ⟨_, ⟨0, 0⟩, rfl, rfl, rfl⟩, rfl⟩,
    ⟨by decide, ⟨rfl, by decide, rfl, rfl, rfl⟩, ⟨_, ⟨0, 0⟩, rfl, rfl, rfl⟩⟩,
    ⟨by decide, ⟨rfl, by decide, rfl, rfl, rfl⟩⟩,
    ⟨by decide, ⟨rfl, by decide, rfl, rfl, rfl⟩, ⟨_, ⟨0, 0⟩, rfl, rfl, rfl⟩, rfl⟩⟩

/-- A granule that another task's write has tagged, in the same launch and epoch. -/
def racing : State :=
  let s := withPages [(8, 0x100)]
  let tag := tagOf (accessOf probeLaunch 1 0 true false false) 3 false
  { s with dev := { s.dev with tags := [(hbmLoc 0x100 / 32, tag)] } }

theorem test_witness_AccessFaults :
    let s := withPages [(8, 2 ^ 48), (9, 0x1F80000000), (10, 0x104), (11, peerPage)]
    let x := probeLaunch
    launchOf s.dev s.cur = some x ∧
    (sourcesFull (.st 5 8 false false 0) s ∧ sourcesFull (.ld 5 8 false 0 0) s ∧ 2 ^ 48 ≤ (readG (src s) 8).toNat) ∧
    (sourcesFull (.st 5 9 false false 0) s ∧ (readG (src s) 9).toNat < 2 ^ 48 ∧
      xlate s.dev x 0 .core .read (readG (src s) 9) = .trap causeAbsent ∧
      xlate s.dev x 0 .core .write (readG (src s) 9) = .trap causeAbsent) ∧
    xlate s.dev x 0 .core .write (readG (src s) 11) = .trap causeAccess ∧
    (sourcesFull (.st 5 10 false false 0) s ∧ (readG (src s) 10).toNat % 8 ≠ 0 ∧
      xlate s.dev x 0 .core .read (readG (src s) 10) = .place (.hbm 0x104) ∧
      xlate s.dev x 0 .core .write (readG (src s) 10) = .place (.hbm 0x104)) ∧
    (sourcesFull (.st 5 8 false false 0) racing ∧ racing.clause = none ∧ (live racing).run = some ⟨0, 0⟩ ∧
      reaches racing ⟨.core, .write, 0x100, 8, false, false⟩ x (.hbm 0x100) ∧
      hbmLoc 0x100 % 32 = (0x100#64).toNat % 32 ∧
      raceAll (heldNumber racing.dev x.ctx) (src racing).acq (accessOf x 0 (src racing).epoch true false false)
        (granules (hbmLoc 0x100) 8) racing.dev.tags = .error (hbmLoc 0x100 / 32)) := by
  unfold sourcesFull
  exact ⟨rfl, ⟨by decide, by decide, by decide⟩, ⟨by decide, by decide, by decide, by decide⟩, by decide,
    ⟨by decide, by decide, by decide, by decide⟩, ⟨by decide, rfl, rfl, ⟨rfl, by decide, rfl, rfl, rfl⟩, rfl, rfl⟩⟩

theorem test_witness_StoreWords :
    let s := withPages [(8, 0x4100), (9, agentPage), (11, vaultPage)]
    let x := probeLaunch
    (sourcesFull (.st 5 8 true true 0x800) s ∧ reaches s ⟨.core, .write, 0x100, 8, false, false⟩ x (.hbm 0x100) ∧
      readG (src s) 8 + BitVec.ofInt 64 (8 * (0x800#12).toInt) = 0x100 ∧
      (∃ tags, raceFree s x (granules (hbmLoc 0x100) 8) true false false tags) ∧ diesSound s (diesOf 0 (.hbm 0x100))) ∧
    (sourcesFull (.st 5 9 false false 0) s ∧
      reaches s ⟨.core, .write, readG (src s) 9 + BitVec.ofInt 64 (8 * (0#12).toInt), 8, false, false⟩ x (.agent 0 0) ∧
      (∃ tags, raceFree s x [] true false false tags)) ∧
    (∀ row ∈ vectorStores, sourcesFull (row.1 40 11 false 0) s) ∧
    reaches s ⟨.core, .write, readG (src s) 11, 128, true, false⟩ x (.vault 0 0) ∧
    (∀ row ∈ vectorStores, selectedBytes (readP (src s) 0) row.2 = List.range 128) ∧
    (∃ tags, raceFree s x (storedGranules (.vault 0 0) (readG (src s) 11) (List.range 128)) true false false tags) := by
  unfold sourcesFull
  exact ⟨⟨by decide, ⟨rfl, by decide, rfl, rfl, rfl⟩, by decide, ⟨_, ⟨0, 0⟩, rfl, rfl, rfl⟩, rfl⟩,
    ⟨by decide, ⟨rfl, by decide, rfl, rfl, rfl⟩, ⟨_, ⟨0, 0⟩, rfl, rfl, rfl⟩⟩, by decide, ⟨rfl, by decide, rfl, rfl, rfl⟩,
    by decide, ⟨_, ⟨0, 0⟩, rfl, rfl, rfl⟩⟩

/-- Lanes 0 and 1 of v41 under p3, four bytes below the base and four above. -/
def lanesSet : State :=
  let s := withPages [(11, vaultPage + 64)]
  setLive s { live s with v := [(41, 0x4FFFFFFFC#1024)], p := [(3, 0x11)] }

theorem lanes_active : lanesOn (src lanesSet) 3 = [0, 1] := by decide +kernel

theorem race_free_of {s : State} {x : Launch} {gs : List Nat} {w a e : Bool} {r : Running} (h : (live s).run = some r)
    (h' : (src s).run = some r)
    (ok : (raceAll (heldNumber s.dev x.ctx) (live s).acq (accessOf x r.task (live s).epoch w a e) gs s.dev.tags).toBool = true) :
    ∃ tags, raceFree s x gs w a e tags := by
  generalize hr : raceAll (heldNumber s.dev x.ctx) (live s).acq (accessOf x r.task (live s).epoch w a e) gs s.dev.tags = o at ok
  cases o with
  | ok t => exact ⟨t, r, h, h', hr⟩
  | error g => cases ok

theorem test_witness_GatherAndScatter :
    let s := lanesSet
    let x := probeLaunch
    laneAddress (src s) 11 41 0 = BitVec.ofNat 64 (vaultPage + 60) ∧
    lanesFit (src s) 11 41 3 (.vault 0 64) ∧ diesSound s (diesOf 0 (.vault 0 64)) ∧
    sourcesFull (.vgather 40 11 41 true 3) s ∧ sourcesFull (.vscatter 40 11 41 true 3) s ∧
    reaches s ⟨.core, .read, readG (src s) 11, 1, true, false⟩ x (.vault 0 64) ∧
    reaches s ⟨.core, .write, readG (src s) 11, 1, true, false⟩ x (.vault 0 64) ∧
    (∃ tags, raceFree s x ((laneGranules ((lanesOn (src s) 3).map fun k => (k, laneAddress (src s) 11 41 k))
      (inPage (.vault 0 64) (readG (src s) 11))).map (·.1)) true false false tags) := by
  unfold sourcesFull
  refine ⟨by decide +kernel, ?_, rfl, by decide, by decide, ⟨rfl, by decide, rfl, rfl, rfl⟩,
    ⟨rfl, by decide, rfl, rfl, rfl⟩, race_free_of (r := ⟨0, 0⟩) rfl rfl (by decide +kernel)⟩
  intro i hi
  rw [lanes_active] at hi
  have hi : i = 0 ∨ i = 1 := by simpa using hi
  rcases hi with rfl | rfl
  · exact ⟨by decide +kernel, by decide +kernel, fun st o h => by cases h; decide +kernel⟩
  · exact ⟨by decide +kernel, by decide +kernel, fun st o h => by cases h; decide +kernel⟩

/-- Core 0 waits for the bytes of a load, with a store of an earlier clause in its check window. -/
def waiting (remain owner : Nat) : State :=
  let s := withG []
  setLive s { live s with
    flights := [{ flightOf 9 .g 40 remain false 0 with src := .bytes (hbmLoc 0x100) 8 }], owner := [(regCode .g 40, owner)],
    window := [⟨1, 0, .store [(hbmLoc 0x200, 5), (hbmLoc 0x200, 6)]⟩] }

theorem test_witness_ArrivalsAndWindowStores :
    let d := (waiting 12 9).dev
    let c := coreAt d 0
    coreNum ⟨0, 0⟩ = 0 ∧ c.run = some ⟨0, 0⟩ ∧ preemptDue d.now c = false ∧
    replaying d (stopeOf 0) = false ∧
    (∃ f, c.flights.find? (fun f => f.word == 9 && isLoad f.src && !f.arrived) = some f ∧
      f.src = .bytes (hbmLoc 0x100) 8 ∧ f.num < 64 ∧ loadReady d 0 f.word f.src = true ∧ owns c f = true ∧
      f.remain < 63 ∧ f.remain ≠ 0 ∧ buffered c < 16) ∧
    (∃ f, (coreAt (waiting 0 9).dev 0).flights = [f] ∧ owns (coreAt (waiting 0 9).dev 0) f = true ∧ f.remain = 0) ∧
    (∃ f, (coreAt (waiting 63 10).dev 0).flights = [f] ∧ owns (coreAt (waiting 63 10).dev 0) f = false) ∧
    (∃ w cs, c.window = [w] ∧ w.op = .store cs ∧ canLeave d c (7 * d.issues + 8) w = true ∧
      wakesNone { putCore d 0 { c with window := [] } with mem := writeCells d.mem cs }) :=
  ⟨rfl, rfl, rfl, rfl, ⟨_, rfl, rfl, by decide, rfl, rfl, by decide, by decide, by decide⟩, ⟨_, rfl, rfl, rfl⟩,
    ⟨_, rfl, rfl⟩, ⟨_, _, rfl, rfl, rfl, rfl⟩⟩

theorem test_witness_AtomicWords :
    let s := withPages [(4, 0x148), (8, 0x1FFFF8), (9, 0x1FFFFC), (10, 0x140), (12, 0x180)]
    let x := probeLaunch
    (∀ row ∈ atomRows, sourcesFull (row.word 5 8 false .system .sc false) s) ∧
    (∀ row ∈ atomRows, sourcesFull (row.word 5 9 false .stope .relaxed true) s) ∧
    reaches s ⟨.coreAtomic, .atomic, readG (src s) 8, 8, true, true⟩ x (.hbm 0x1FFFF8) ∧
    reaches s ⟨.coreAtomic, .atomic, readG (src s) 9, 4, true, true⟩ x (.hbm 0x1FFFFC) ∧
    (∃ tags, raceFree s x ((granulesAt (.hbm 0x1FFFF8) (readG (src s) 8) 8).map (·.1)) true true false tags) ∧
    diesSound s (diesOf 0 (.hbm 0x1FFFF8)) ∧ dmodeOf s.dev s.cur = false ∧
    sourcesFull (.ald 5 8 false .die .acquire false) s ∧
    (let d := { s with dev := { s.dev with parts := [(0, { probePart with dmode := true })] } }
     dmodeOf d.dev d.cur = true ∧ reaches d ⟨.coreAtomic, .atomic, readG (src d) 8, 8, true, true⟩ x (.hbm 0x1FFFF8) ∧
       reaches d ⟨.coreAtomic, .atomic, readG (src d) 10, 16, true, true⟩ x (.hbm 0x140) ∧
       reaches d ⟨.coreAtomic, .atomic, readG (src d) 12, 8, true, true⟩ x (.hbm 0x180) ∧
       reaches d ⟨.coreAtomic, .atomic, readG (src d) 10, 8, true, true⟩ x (.hbm 0x140) ∧
       sourcesFull (.acas 2 8 false .die .relaxed false) d ∧ sourcesFull (.acas2 1 10 false .die .relaxed) d ∧
       sourcesFull (.aenq 12 10 false .die .relaxed) d ∧ sourcesFull (.apchase 0 10 false .die .relaxed) d) ∧
    sourcesFull (.acas 2 8 false .die .relaxed false) s ∧
    (sourcesFull (.acas2 1 10 false .die .relaxed) s ∧
      reaches s ⟨.coreAtomic, .atomic, readG (src s) 10, 16, true, true⟩ x (.hbm 0x140)) ∧
    (sourcesFull (.aenq 12 10 false .die .relaxed) s ∧
      reaches s ⟨.coreAtomic, .atomic, readG (src s) 12, 8, true, true⟩ x (.hbm 0x180) ∧
      (readG (src s) 12).toNat / 2 ^ 21 = (readG (src s) 10).toNat / 2 ^ 21 ∧
      (∃ tags, raceFree s x ((addGranules (granulesAt (.hbm 0x140) (readG (src s) 10) 16)
        ((hbmLoc 0x180, readG (src s) 12) :: walkPlaces (memSeen s) .aenq (hbmLoc 0x140) 0x140 (readG (src s) 12))).map
        (·.1)) true true false tags)) ∧
    (sourcesFull (.apchase 0 10 false .die .relaxed) s ∧
      (∃ tags, raceFree s x ((addGranules (granulesAt (.hbm 0x140) (readG (src s) 10) 8)
        (walkPlaces (memSeen s) .apchase (hbmLoc 0x140) 0x140 (readG (src s) 0))).map (·.1)) true true false tags) ∧
      reaches s ⟨.coreAtomic, .atomic, readG (src s) 10, 8, true, true⟩ x (.hbm 0x140)) := by
  unfold sourcesFull
  exact ⟨by decide, by decide, ⟨rfl, by decide, rfl, rfl, rfl⟩, ⟨rfl, by decide, rfl, rfl, rfl⟩, ⟨_, ⟨0, 0⟩, rfl, rfl, rfl⟩,
    rfl, rfl, by decide, ⟨rfl, ⟨rfl, by decide, rfl, rfl, rfl⟩, ⟨rfl, by decide, rfl, rfl, rfl⟩,
      ⟨rfl, by decide, rfl, rfl, rfl⟩, ⟨rfl, by decide, rfl, rfl, rfl⟩, by decide⟩, by decide,
    ⟨by decide, ⟨rfl, by decide, rfl, rfl, rfl⟩⟩,
    ⟨by decide, ⟨rfl, by decide, rfl, rfl, rfl⟩, rfl, ⟨_, ⟨0, 0⟩, rfl, rfl, rfl⟩⟩,
    ⟨by decide, ⟨_, ⟨0, 0⟩, rfl, rfl, rfl⟩, ⟨rfl, by decide, rfl, rfl, rfl⟩⟩⟩

/-- An atomic request on the word at 0x140. -/
def requestAt (fn : AtomFn) (half : Bool) (x y : Nat) : AtomReq :=
  { fn := fn, loc := hbmLoc 0x140, va := 0x140, half := half, x := BitVec.ofNat 64 x, y := BitVec.ofNat 64 y, z := 1, w := 2,
    scope := .die, order := .relaxed, task := 0, epoch := 0, loc2 := hbmLoc 0x180 }

theorem test_witness_AtomicsAndIncrements :
    let d := withCounters.dev
    (∀ row ∈ dwordRows, (requestAt row.1 false 5 6).fn = row.1 ∧
      wakesNone { d with mem := writeN d.mem (hbmLoc 0x140) 8 (row.2 0 5).toNat }) ∧
    (wakesNone d ∧ BitVec.ofNat 64 (readN d.mem (hbmLoc 0x140) 8) = (requestAt .acas false 0 6).x ∧
      BitVec.ofNat 64 (readN d.mem (hbmLoc 0x140) 8) ≠ (requestAt .acas false 5 6).x) ∧
    (readN d.mem (hbmLoc 0x140) 8 = (requestAt .acas2 false 0 0).x.toNat ∧
      readN d.mem (hbmLoc 0x148) 8 = (requestAt .acas2 false 0 0).y.toNat ∧
      readN d.mem (hbmLoc 0x148) 8 ≠ (requestAt .acas2 false 0 6).y.toNat) ∧
    (armOf d (hbmLoc 0x210) = none ∧ wakesNone { d with mem := writeN d.mem (hbmLoc 0x210) 8 (0 + 5#64).toNat }) ∧
    (∃ a, armOf d (hbmLoc 0x200) = some a ∧ a.overrun = false ∧ a.limit ≠ 0 ∧
      a.limit.toNat < (counterValue d (hbmLoc 0x200)).toNat + (5#64).toNat ∧
      (counterValue d (hbmLoc 0x200)).toNat + (4#64).toNat ≤ a.limit.toNat) ∧
    (∃ a, armOf d (hbmLoc 0x208) = some a ∧ a.overrun = true) := by
  refine ⟨?_, ⟨rfl, by decide, by decide⟩, ⟨by decide, by decide, by decide⟩, ⟨rfl, rfl⟩,
    ⟨_, rfl, rfl, by decide, by decide, by decide⟩, ⟨_, rfl, rfl⟩⟩
  unfold wakesNone
  decide

/-- Core 0 has an acknowledgement for its atomic's result. -/
theorem test_witness_AtomicAcknowledgement :
    let f := { flightOf 9 .g 40 63 false 0 with src := .result 0 }
    let a : AckItem := ⟨9, [77], 1⟩
    let c := { coreReset with flights := [f], owner := [(regCode .g 40, 9)], acks := [a] }
    replaying (setLive (withG []) c).dev (stopeOf 0) = false ∧ c.acks.find? (fun b => b.word == a.word) = some a ∧ a.results = [77] ∧ c.flights = [] ++ f :: [] ∧ f.word = a.word ∧
      f.src = .result 0 ∧ preemptDue 0 c = false ∧
      f.fixed = false ∧ f.arrived = false ∧ f.remain = 63 ∧ f.file = .g ∧ f.num < 64 ∧ owns c f = true :=
  ⟨rfl, rfl, rfl, rfl, rfl, rfl, rfl, rfl, rfl, rfl, rfl, by decide, rfl⟩

/-! Vector words -/

theorem test_witness_VectorIntegerWords :
    let s := withG [(6, 0xFFFFFFFF00000001)]
    (∀ row ∈ laneRows, sourcesFull (row.word 63 0 32 true 15) s) ∧ sourcesFull (.vperm 1 2 3 true 0) s ∧
      sourcesFull (.vbcast 1 6 true true 8) s ∧ sourcesFull (.vsel 1 2 3 false 7) s := by
  unfold sourcesFull
  decide

theorem test_witness_VectorFloatWords :
    (∀ row ∈ floatRows, sourcesFull (row.word 63 0 32 true 15) (withG [])) ∧
      (∀ row ∈ singleRows, sourcesFull (row.word 63 0 true 15) (withG [])) ∧ sourcesFull (.vrng 1 2 true 0) (withG []) := by
  unfold sourcesFull
  decide

theorem test_witness_VectorCompareAndMasks :
    (∀ row ∈ compareRows, sourcesFull (row.word 15 0 63 true 15) (withG [])) ∧ sourcesFull (.vmsk 15 2 true 8) (withG []) := by
  unfold sourcesFull
  decide

theorem test_witness_VectorConvertWords :
    let s := withG []
    sourcesFull (.vcvt 1 2 .dyn .fp32 true 15 .int8) s ∧ sourcesFull (.vpack 1 2 (.byte 3) true) s ∧
      sourcesFull (.vunpack 1 2 (.half true) true) s ∧ sourcesFull (.vqnt 1 2 .e2m1 true 8) s ∧
      sourcesFull (.vred 1 2 .add true 8) s ∧ sourcesFull (.vred 1 2 .fmax true 8) s := by
  unfold sourcesFull
  decide

theorem test_witness_FloatingPointArithmetic :
    let x : Exact := ⟨true, 3, -2, false⟩
    x.tail = false ∧ (-4 : Int) ≤ x.exp ∧ x.num ≠ 0 ∧ 5 % 2 ^ 1 ≠ 0 ∧ 4 % 2 ^ 1 = 0 ∧
    128 ≤ topExact ⟨false, 1, 128, false⟩ ∧ nanWord 0x7F800001 = true ∧ snanWord 0x7FC00000 = false ∧
    fp32Key 0x80000000 = 0 ∧ nanWord 0x00000001 = false ∧ (0x00000001#32).toNat % 2 ^ 31 < 0x7F800000 ∧
    fp32Key 0x00000001 ≠ 0 ∧ nanWord 0x80000001 = false ∧ fp32Key 0x80000001 < 0 ∧ (-126 : Int) ≤ -126 ∧
    (2 * 63 : Int) ≤ 126 ∧ (-126 : Int) ≤ 2 * -63 := by decide

/-! Events of a core -/

/-- A result of v40 due on core 0, and one that is not. -/
def landing : State :=
  let s := withG []
  let due := { flightOf 9 .v 40 0 true 5 with arrived := true }
  setLive s { live s with flights := [due, flightOf 10 .g 41 3 true 6], owner := [(regCode .g 41, 10), (regCode .v 40, 9)] }

/-- Core 0 freezes for register n; core 1 runs another task. -/
def frozen (since : Nat) : State :=
  let s := withG []
  let s := setLive s { live s with empty := [(regCode .g 63, true)], stall := some ⟨.freeze, some (.g, 63), since⟩ }
  { s with dev := { s.dev with now := 1024 * 1024 + 1 } }

theorem test_witness_DueResultsAndFreezes :
    let d := landing.dev
    coreNum ⟨0, 0⟩ = 0 ∧ standsStill d 0 = false ∧ standsStill (frozen 0).dev 1 = true ∧
    (∃ f ∈ (coreAt d 0).flights, (f.fixed == true && due f) = true ∧ owns (coreAt d 0) f = true ∧ f.num < 64) ∧
    (∀ q, q < 4 → freezeOver d.now (coreAt d (4 * 0 + q)) = false) ∧
    (∀ j, j < 4 → j ≠ 0 → (coreAt (frozen 0).dev j).stall = none) ∧
    (coreAt (frozen 0).dev 0).stall = some ⟨.freeze, some (.g, 63), 0⟩ ∧
    isEmpty (coreAt (frozen 0).dev 0) .g 63 = true ∧ (coreAt (frozen 0).dev 0).limit ≠ 0 ∧
    (coreAt (frozen 0).dev 0).limit.toNat * 1024 < (frozen 0).dev.now - 0 ∧
    ¬ ((coreAt (frozen 1).dev 0).limit.toNat * 1024 < (frozen 1).dev.now - 1) ∧ issuing (frozen 0).dev 0 = true ∧
    (coreAt (frozen 0).dev 0).bubble = false := by
  refine ⟨rfl, rfl, rfl, ⟨_, List.mem_cons_self, rfl, rfl, by decide⟩, by decide, by decide, rfl, rfl, by decide, by decide,
    by decide, rfl, rfl⟩

/-- The state after a word or an event. -/
def after (i : Instr) (s : State) : State :=
  match exec i s with
  | .next t => t
  | .fault _ => s
  | .refused _ => s

theorem test_witness_ReplaysAndDeadlineRisk :
    let s := withHandler
    issuing s.dev 0 = true ∧ (coreAt s.dev 0).replays < 3 ∧ (stopeAt s.dev 0).arrayQ = [] ∧
    lateLanding (coreAt s.dev 0) = none ∧
    (let t := setLive s { live s with replays := 3 }
     issuing t.dev 0 = true ∧ lateLanding (coreAt t.dev 0) = none ∧ 3 ≤ (coreAt t.dev 0).replays ∧ mxMv t.dev.power < 700 ∧
       ∃ since, (stopeAt (after (.timingReplay ⟨0, 0⟩) t).dev 0).settling = some since) ∧
    (let t := setLive s { live s with risk := some 3, riskEn := true }
     issuing t.dev 0 = true ∧ cycleOver (coreAt t.dev 0) = true ∧ (coreAt t.dev 0).notice = [] ∧
       (coreAt t.dev 0).risk = some 3 ∧ clauseReplays t.dev 0 = false ∧ (coreAt t.dev 0).pend = none ∧
       (coreAt t.dev 0).written = [] ∧ (coreAt t.dev 0).riskEn = true ∧ dmodeOf t.dev 0 = false ∧ (coreAt t.dev 0).inHandler = false ∧
       (coreAt t.dev 0).tvec ≠ 0 ∧ packetStart (anchorOf t.dev 0) (coreAt t.dev 0).tvec = true) ∧
    (let t := setLive (withG []) { live (withG []) with risk := some 3, riskEn := true }
     issuing t.dev 0 = true ∧ cycleOver (coreAt t.dev 0) = true ∧ (coreAt t.dev 0).risk = some 3 ∧
       (coreAt t.dev 0).tvec = 0) ∧
    (let t := setLive s { live s with risk := some 3, riskEn := false }
     cycleOver (coreAt t.dev 0) = true ∧ (coreAt t.dev 0).risk = some 3 ∧ (coreAt t.dev 0).riskEn = false) := by
  refine ⟨by decide, by decide, by decide, by decide, ⟨by decide, by decide, by decide, by decide, 0, by decide⟩, by decide,
    by decide, by decide⟩

/-! The array -/

/-- The state of the worked example of spec/17_array_instructions.md, with the lease taken. -/
def withArray : State :=
  let s := withPages [(10, 0x0001002400000000), (11, 0x0100002400C00000), (12, 0x0001002800000100),
    (13, 0x0100002800000000), (20, 0x0101000004000200), (22, 0x0101000004000204), (23, 0x0000FD0100000000)]
  let s := setLive s { live s with gpc := 0x800, lease := true, leaseRem := 64 }
  let m := writeN s.dev.mem (hbmLoc 0x800) 4 0x00046304
  let m := writeN m (vaultLoc 0 0) 36 (2 + 2 ^ 32 + 3 * 2 ^ 96 + 3 * 2 ^ 128 + 2 ^ 192 + 2 ^ 224)
  let m := writeN m (vaultLoc 0 0x100) 8 (3 + 5 * 512)
  { s with dev := { s.dev with mem := writeN m (vaultLoc 0 0xC00000) 8 0xFFFA006D64000000 } }

theorem test_witness_LeaseAndStatusWords :
    let s := withPages [(9, 2 ^ 23)]
    (src s).leaseOk = false ∧ (src s).leaseReq = false ∧ (stopeAt s.dev 0).leaseQ = [] ∧ (stopeAt s.dev 0).holder = none ∧
    s.clause = none ∧
    (let t := { s with dev := modStope s.dev 0 fun x => { x with holder := some 3 } }
     (stopeAt t.dev 0).holder ≠ none ∧ (stopeAt t.dev 0).holder ≠ some (t.cur % 4)) ∧
    (src withArray).lease = true ∧ (src s).lease = false ∧ sourcesFull (.mofs 7 9 false) s ∧
    ownerOf (live s) .o 7 ≤ wordId s ∧
    sourcesFull (.mstat 5 (.offset 7)) s ∧ (src s).run = some ⟨0, 0⟩ ∧
    bankBusy (releaseBank s.dev 0 3) 0 3 0 0 = false ∧ bankPending (releaseBank s.dev 0 3) 0 3 0 0 = false := by
  unfold sourcesFull
  decide

theorem ready_for_array : arrayReady withArray ⟨0, 0⟩ probeLaunch 0 (releaseBank withArray.dev 0 0) :=
  ⟨rfl, rfl, rfl, rfl, rfl, rfl, rfl, rfl⟩

theorem test_witness_CountedArrayWords :
    arrayReady withArray ⟨0, 0⟩ probeLaunch 0 (releaseBank withArray.dev 0 0) ∧
    (let s := withPages []
     (src s).lease = false ∧ sourcesFull (.mma 5 6 1 2 false) s ∧ sourcesFull (.mmaw 5 6 1 2 false) s ∧
       sourcesFull (.mdrain 10 0 (.fixed .rne) .fp32 false) s) ∧
    (let s := withArray
     let v := releaseBank s.dev 0 0
     sourcesFull (.mma 5 6 1 2 false) s ∧ (src s).gpc.toNat % 4 = 0 ∧ ownerOf (live s) .o 1 ≤ wordId s ∧
     ownerOf (live s) .o 2 ≤ wordId s ∧
     xlate s.dev probeLaunch 0 .fetch .read ((src s).gpc.setWidth 64) = .place (.hbm 0x800) ∧
     byteBlocks (srcDev s) (wordId s) false (hbmLoc 0x800) = false ∧ diesSound s (diesOf 0 (.hbm 0x800)) ∧
     readN s.dev.mem (hbmLoc 0x800) 4 = 0x00046304 ∧ glossBad 0x00046304 = false ∧ glBank 0x00046304 = 0 ∧
     productFault v 0 0 (productOf (readG (src s) 10) (readG (src s) 11) (readG (src s) 12) (readG (src s) 13) 0 0
       0x00046304 false) = none ∧ 3 ≤ boardFree v 0 ∧ sourcesFull (.mdrain 10 0 (.fixed .rne) .fp32 false) s ∧
     drainFault v 0 0 (readG (src s) 20) (readG (src s) 21) .fp32 = none) :=
  ⟨ready_for_array, by unfold sourcesFull; decide, by unfold sourcesFull; decide, rfl, by decide, by decide, rfl, rfl, rfl,
    rfl, rfl, rfl, rfl, by decide,
    by unfold sourcesFull; decide, rfl⟩

theorem test_witness_WideProduct :
    let s := withArray
    glossBad 0x01046317 = false ∧ glSynth 0x01046317 ≠ 0 ∧
    productFault (releaseBank s.dev 0 0) 0 0 (productOf (readG (src s) 10) (readG (src s) 11) (readG (src s) 12)
      (readG (src s) 13) 0 0 0x01046317 true) = none := by decide

/-- The array's command at work completes. -/
def completes (s : State) : State :=
  match execMatrixCommandComplete 0 [] none s with
  | .next t => t
  | .fault _ => s
  | .refused _ => s

/-- The array's oldest command starts. -/
def starts (s : State) : State := setDev s (startCmd s.dev 0)

/-- A clear, a product and a drain wait at the array. -/
def withCommands : State :=
  after (.mdrain 10 0 (.fixed .rne) .fp32 false) (after (.mma 5 6 1 2 false) (after (.mclr 0) withArray))

/-- The product of the worked example heads the array's queue; the drain does. -/
def withProduct : State := completes (starts withCommands)
def withDrain : State := completes (starts withProduct)

set_option maxRecDepth 20000 in
theorem product_waits : (stopeAt withProduct.dev 0).arrayQ.length = 2 ∧
    (stopeAt withProduct.dev 0).arrayQ.map (·.started) = [false, false] := by decide

set_option maxRecDepth 20000 in
theorem test_witness_ArrayEvents :
    (let s := { withArray with dev := modStope withArray.dev 0 fun x => { x with leaseQ := [3] } }
     (stopeAt s.dev 0).holder = none ∧ (stopeAt s.dev 0).leaseQ = 3 :: [] ∧ (coreAt s.dev 3).leaseBack = false) ∧
    stopeFrozen withCommands.dev 0 = false ∧ stopeFrozen (starts withCommands).dev 0 = false ∧
    (∃ c r, (stopeAt withCommands.dev 0).arrayQ = c :: r ∧ c.started = false ∧ c.op = .clear ∧
      boardClear withCommands.dev c.id c.issue.core c.issue.word = true ∧ ∀ e ∈ r, e.id ≠ c.id) ∧
    (∃ c r, (stopeAt (starts withCommands).dev 0).arrayQ = c :: r ∧ c.started = true ∧
      c.op = .clear ∧ (∀ e ∈ r, e.id ≠ c.id) ∧ ∃ l i y, (bankAt (starts withCommands).dev 0 c.bank).owner = some (l, i) ∧
      launchAt (starts withCommands).dev l = some y ∧ y.stop = none) ∧
    (let d := modStope withArray.dev 0 fun x => { x with
       banks := [(3, { bankReset with owner := some (9, 9) })], restores := [⟨2, 0, 0, bankReset⟩] }
     ownerGone d 0 3 = true ∧ (∀ r ∈ (stopeAt d 0).restores, r.bank ≠ 3) ∧ (bankAt d 0 2).owner = none ∧
       ∃ r, (stopeAt d 0).restores.find? (fun r => r.bank == 2) = some r) :=
  ⟨⟨rfl, rfl, rfl⟩, rfl, rfl, ⟨_, _, rfl, rfl, rfl, rfl, by decide⟩, ⟨_, _, rfl, rfl, rfl, by decide, _, _, _, rfl, rfl, rfl⟩, ⟨rfl, by decide, rfl, _, rfl⟩⟩

set_option maxRecDepth 20000 in
theorem test_witness_ProductAtWork :
    stopeFrozen withProduct.dev 0 = false ∧ ∃ c r, (stopeAt withProduct.dev 0).arrayQ = c :: r ∧ c.started = false ∧
      boardClear withProduct.dev c.id c.issue.core c.issue.word = true ∧ (∀ e ∈ r, e.id ≠ c.id) ∧
      ∃ w0 w1 a0 a1 uw ua g wide v, c.op = .mma w0 w1 a0 a1 uw ua g wide ∧
        feedSteps withProduct.dev 0 c.ctx c.issue (productOf w0 w1 a0 a1 uw ua g wide) 0
          (opSteps (productOf w0 w1 a0 a1 uw ua g wide).w) = (none, v) :=
  ⟨rfl, _, _, rfl, rfl, rfl, by decide, _, _, _, _, _, _, _, _, _, rfl, rfl⟩

set_option maxRecDepth 20000 in
theorem test_witness_DrainAtWork :
    stopeFrozen withDrain.dev 0 = false ∧ ∃ c r, (stopeAt withDrain.dev 0).arrayQ = c :: r ∧ c.started = false ∧
      boardClear withDrain.dev c.id c.issue.core c.issue.word = true ∧ (∀ e ∈ r, e.id ≠ c.id) ∧
      ∃ d0 d1 m k f v, c.op = .drain d0 d1 m k f ∧
        drainRows withDrain.dev 0 c.ctx c.issue (drainDesc d0 d1) f 0 (drainDesc d0 d1).rows = (none, v) ∧
        wakesNone (putBank { withDrain.dev with mem := (drainCells 0 (drainDesc d0 d1) f m k
          (grid (drainDesc d0 d1).rows (drainDesc d0 d1).cols) (bankAt withDrain.dev 0 c.bank) withDrain.dev.mem).2 } 0
          c.bank (drainCells 0 (drainDesc d0 d1) f m k (grid (drainDesc d0 d1).rows (drainDesc d0 d1).cols)
            (bankAt withDrain.dev 0 c.bank) withDrain.dev.mem).1) :=
  ⟨rfl, _, _, rfl, rfl, rfl, by decide, _, _, _, _, _, _, rfl, rfl, rfl⟩

/-- The worked example of spec/17_array_instructions.md: the product's promotion is S = 2^62, E = −60, and the drain as
FP32 writes 4.0. -/
theorem test_array_product : mget xaZero (bankAt withDrain.dev 0 0).cells 0 = ⟨2 ^ 62, -60, false⟩ := by
  decide +kernel

theorem test_array_drain : readN (completes (starts withDrain)).dev.mem (vaultLoc 0 0x200) 4 = 0x40800000 := by
  decide +kernel

/-! Copies: the worked example of spec/20_copy_instructions.md, with its source at 0x1000 -/

def pairedG (q : Nat) (ds : List Nat) : List (Nat × Nat) := ds.zip (List.range 4) |>.map fun e => (4 * q + e.2, e.1)

def plainCopy : List Nat := [0x100, 0x200, 1, 3]
def planeCopy : List Nat := [0x1000, 0x4000C00100001000, 0x0000240000240102, 0x4100400000A0000A]

def withCopies (ds : List Nat) : State :=
  let s := withPages ((3, 0x40001000) :: pairedG 2 ds ++ [(12, 0x40008000)])
  let m := writeN s.dev.mem (hbmLoc 0x1000) 40 (0x6D + 0xF4 * 256 + 0x7F * 2 ^ 256)
  { s with dev := { s.dev with mem := writeN m (hbmLoc 0x100) 3 0x030201 } }

def copyReady (row : (RegNum → BitVec 4 → RegNum → Bool → Bool → Instr) × CopyKind) (n : RegNum) (s : State) : Prop :=
  let ds := (List.range 4).map fun j => readG (src s) (BitVec.ofNat 6 (4 * 2 + j))
  sourcesFull (row.1 20 2 n false false) s ∧ launchOf s.dev s.cur = some probeLaunch ∧ (src s).run = some ⟨0, 0⟩ ∧
  copyFault row.2 ds = none ∧ badOffset s.dev 0 0 row.2 ds = none ∧
  channelFull s.dev 0 (dwField ds 3 62 2) = false ∧ entriesFit s.dev (copyEntries s.dev probeLaunch 0 row.2 ds) = true ∧
  ownerOf (live s) .g (phys (src s) .g 20) ≤ wordId s

theorem test_witness_CopyWords :
    copyReady (.cpy, .cpy) 0 (withCopies plainCopy) ∧
    copyReady (.cpyp, .cpyp) 12 (withCopies planeCopy) ∧
    reaches (withCopies planeCopy) ⟨.coreAtomic, .atomic, readG (src (withCopies planeCopy)) 12, 8, true, false⟩ probeLaunch
      (.vault 0 0x8000) ∧
    (∀ n ∈ [0, 1, 255, 256], sourcesFull (.stage 5 false) (withG [(5, n)])) ∧
    quiet (withG [(5, 255)]) ∧ (src (withG [(5, 255)])).run = some ⟨0, 0⟩ ∧
    launchAt (withG [(5, 255)]).dev 0 = some probeLaunch ∧ probeLaunch.record.schedule = 0 := by
  unfold copyReady sourcesFull quiet
  exact ⟨by decide, by decide, ⟨rfl, by decide, rfl, rfl, rfl⟩, by decide, by decide, rfl, rfl, rfl⟩

/-- A copy issued, its window closed, and its sector done. -/
def oneCopy (i : Instr) (ds : List Nat) : State := after (.checkWindowClose ⟨0, 0⟩) (after i (withCopies ds))
def sectorDone (ch : BitVec 2) (s : State) : State :=
  match execCopySector 0 ch false s with
  | .next t => t
  | .fault _ => s
  | .refused _ => s

def planeDone : State := sectorDone 1 (oneCopy (.cpyp 20 2 12 false false) planeCopy)

/-- The side entries and the planes of the worked example (R129, R337). -/
theorem test_copy_planes : readN planeDone.dev.mem (vaultLoc 0 0x1000) 8 = 0x100000002 ∧
    readN planeDone.dev.mem (vaultLoc 0 0xC00100) 8 = 0xFFFA006D64000000 ∧
    readN planeDone.dev.mem (vaultLoc 0 0xC00108) 8 = 0xFFFA000004000000 := by decide +kernel

/-- Two rows of CPY, the second over the first's source: a copy at work. -/
def plainIssued : State := oneCopy (.cpy 20 2 0 false false) plainCopy

def onSchedule : State :=
  let s := withCopies plainCopy
  let m := writeN (writeN s.dev.mem (hbmLoc 0x2000) 8 (2 ^ 32 + 1)) (hbmLoc 0x2010) 32 (0x100 + 2 ^ 64 * 0x200 + 2 ^ 128 + 3 * 2 ^ 192)
  let x := { probeLaunch with phase := .replay, record := { probeLaunch.record with schedule := 0x2000 } }
  { s with dev := { s.dev with mem := m, launches := [(0, x)] } }

theorem test_witness_SectorAtWork :
    let s := plainIssued
    ∃ n q x sc ps ts d d' e e', copyAtWork s.dev 0 0 n q x ∧ q.stope = 0 ∧ q.kind = .cpy ∧ sectorOf s.dev q = .ok sc ∧
      placed s.dev x 0 sc.srcSpace .read sc.srcs ps ∧ placed s.dev x 0 sc.dstSpace .write sc.dsts ts ∧
      ownPending s.dev q.issue ps = false ∧ diesTouched 0 (ps ++ ts) &&& s.dev.lost = 0 ∧
      passGranules q.ctx q.issue sc.srcSpace false (fun d _ (_ : Unit) => d) (byGranule ((sc.srcs.zip ps).map fun e => (e.1, e.2, ())))
        (touchDies s.dev q.ctx (diesTouched 0 (ps ++ ts))) = (.ok d, d') ∧
      passGranules q.ctx q.issue sc.dstSpace true copyWrite
        (byGranule (((sectorData q sc (ps.map (copyRead d))).1.zip ts).map fun e => (e.1.1, e.2, e.1.2)))
        { d with names := d.names + 1 } = (.ok e, e') ∧ wakesNone e ∧
      (ts.filterMap locOf).Nodup ∧ ts.length = (sectorData q sc (ps.map (copyRead d))).1.length :=
  ⟨_, _, _, _, _, _, _, _, _, _, ⟨rfl, rfl, by decide, rfl⟩, rfl, rfl, rfl, rfl, rfl, rfl, rfl, rfl, rfl, rfl,
    by decide +kernel, rfl⟩

set_option maxRecDepth 20000 in
theorem test_witness_CopyEvents :
    (let s := sectorDone 0 plainIssued
     ∃ n q x tk c f, headCopy s.dev 0 0 = some (n, q) ∧ copySectors q.kind q.desc ≤ q.next ∧ q.entry = none ∧
       q.token = some 20 ∧ q.place = none ∧ launchAt s.dev q.issue.launch = some x ∧ mfind x.tasks q.issue.task = some tk ∧
       tk.snap = none ∧ s.dev.cores.find? (fun e => e.2.run == some ⟨q.issue.launch, q.issue.task⟩) = some (0, c) ∧
       c = coreAt s.dev 0 ∧ c.flights = [f] ∧ awaits c q.issue.word f ∧ f.file = .g ∧ f.num < 64 ∧ f.remain = 63 ∧
       f.src = .none ∧ preemptDue s.dev.now c = false ∧ replaying s.dev (stopeOf 0) = false) ∧
    (let s := sectorDone 0 (oneCopy (.cpy 0 2 12 false false) plainCopy)
     ∃ n q loc, headCopy s.dev 0 0 = some (n, q) ∧ q.stope = 0 ∧ q.chan = 0 ∧ copySectors q.kind q.desc ≤ q.next ∧
       q.entry = none ∧ q.token = none ∧ q.place = some loc ∧ armOf s.dev loc = none ∧ copyBytes q.kind q.desc < 2 ^ 64 ∧
       byteBlocks s.dev q.issue.word true loc = false ∧ diesAt 0 [loc] &&& s.dev.lost = 0 ∧
       (∃ v, engineRace (touchDies s.dev q.ctx (diesAt 0 [loc])) q.ctx q.issue true true [granuleOf loc] = .ok v) ∧
       (let v := counterValue s.dev loc + BitVec.ofNat 64 (copyBytes q.kind q.desc)
        wakesNone { s.dev with mem := writeN s.dev.mem loc 8 v.toNat })) ∧
    (let s := sectorDone 0 (oneCopy (.cpy 0 2 0 false false) plainCopy)
     ∃ n q, headCopy s.dev 0 0 = some (n, q) ∧ copySectors q.kind q.desc ≤ q.next ∧ q.token = none ∧ q.place = none) ∧
    (let s := onSchedule
     ∃ x e, launchAt s.dev 0 = some x ∧ x.state = .running ∧ x.phase = .replay ∧ x.stop = none ∧
       replayNext s.dev x = .ok (some 0) ∧ schedEntry s.dev x 0 = .ok e ∧ kindOf e.kind = some .cpy ∧ e.res = 0 ∧
       e.stope < gangSize x.record ∧ copyFault .cpy e.desc = none ∧ entryCounter s.dev x (x.gang.getD 0 0) e.counter = .ok none ∧
       badOffset s.dev x.ctx 0 .cpy e.desc = none ∧ channelFull s.dev 0 e.chan = false ∧
       entriesFit s.dev (copyEntries s.dev x 0 .cpy e.desc) = true) := by
  unfold awaits
  exact ⟨⟨_, _, _, _, _, _, rfl, by decide, rfl, rfl, rfl, rfl, rfl, rfl, rfl, rfl, rfl, by decide, rfl, by decide, rfl, rfl,
      rfl, rfl⟩,
    ⟨_, _, _, rfl, rfl, rfl, by decide, rfl, rfl, rfl, rfl, by decide, by decide, rfl, ⟨_, rfl⟩, rfl⟩,
    ⟨_, _, rfl, by decide, rfl, rfl⟩,
    ⟨_, _, rfl, rfl, rfl, rfl, rfl, rfl, rfl, rfl, by decide, rfl, rfl, rfl, by decide⟩⟩

/-! The fabric -/

/-- HBM addresses in g4 and g8, a dispenser's in g9, a counter of the vault's in g10, a flag's in g11, and in g6 a control word of
4 bytes with that counter. -/
def withFabric : State :=
  withPages [(4, 0x148), (5, 1), (6, 5 * 2 ^ 50 + vaultPage + 0x8000), (8, 0x1000), (9, agentPage + 0x8000), (10, vaultPage + 0x8000),
    (11, 0x100), (12, 65535), (13, 65536), (14, 8)]

theorem test_witness_FabricOperationWords :
    let s := withFabric
    (src s).run = some ⟨0, 0⟩ ∧
    (∀ row ∈ fabRows, sourcesFull (row.word 7 4 6 false true) s) ∧
    (∀ f ∈ fabRows.map (·.fn) ++ [FabFn.load, .store, .cas],
      fabReady s f (readG (src s) 4) (readG (src s) 6) probeLaunch (.hbm 0x148) (some (vaultLoc 0 0x8000))) ∧
    sourcesFull (.rld 7 4 6 false true) s ∧ sourcesFull (.rst 7 4 6 false true) s ∧
    sourcesFull (.ratCas 7 4 6 false true) s := by
  unfold sourcesFull
  refine ⟨rfl, by decide, fun f hf => ?_, by decide, by decide, by decide⟩
  have e : f ∈ [FabFn.add, .and, .or, .xor, .min, .max, .swap, .redAdd, .redAnd, .redOr, .redXor, .redMin, .redMax, .redFadd,
      .redFmin, .redFmax, .load, .store, .cas] := hf
  simp only [List.mem_cons, List.not_mem_nil, or_false] at e
  rcases e with rfl | rfl | rfl | rfl | rfl | rfl | rfl | rfl | rfl | rfl | rfl | rfl | rfl | rfl | rfl | rfl | rfl | rfl | rfl <;>
    exact ⟨rfl, ⟨rfl, by decide, rfl, rfl, rfl⟩, rfl, rfl, rfl, fun _ => rfl, by decide,
      fun _ _ => ⟨.vault 0 0x8000, ⟨rfl, by decide, rfl, rfl, rfl⟩, rfl⟩, rfl, rfl⟩

theorem test_witness_FabricCounters :
    let s := withFabric
    launchOf s.dev s.cur = some probeLaunch ∧ sourcesFull (.trig 10 5 false false) s ∧
    reaches s ⟨.trig, .atomic, readG (src s) 10, 8, false, false⟩ probeLaunch (.vault 0 0x8000) ∧
    fabHeld s true (isRemote (.vault 0 0x8000)) = false ∧ s.dev.lost = 0 ∧
    (sourcesFull (.ticket 7 9 10 false false) s ∧
      reaches s ⟨.fabric, .atomic, readG (src s) 9, 1, false, false⟩ probeLaunch (.agent 0 0x8000) ∧
      ticketBad (.agent 0 0x8000) = false ∧ dmodeOf s.dev s.cur = false ∧
      reaches s ⟨.coreAtomic, .atomic, readG (src s) 10, 8, true, false⟩ probeLaunch (.vault 0 0x8000) ∧
      fabHeld s false false = false) ∧
    (let w := readG (src s) 11
     sourcesFull (.flagadd 11 5 false false) s ∧ sourcesFull (.flagset 5 11 5 false false) s ∧
     w.toNat / 2 ^ 24 % 2 ^ 34 = 0 ∧ w.toNat % 2 ^ 24 % 8 = 0 ∧ w.toNat % 2 ^ 24 < 0xC00000 ∧
     probeLaunch.gang[w.toNat / 2 ^ 58]? = some 0 ∧ rangeGranted s.dev 0 0 0xC00000 0x100 1 = true ∧
     ((List.range probeLaunch.gang.length).filter fun j => (readG (src s) 5).getLsbD j).filterMap
       (fun j => probeLaunch.gang[j]?) = [0]) := by
  unfold sourcesFull
  exact ⟨rfl, by decide, ⟨rfl, by decide, rfl, rfl, rfl⟩, rfl, rfl,
    ⟨by decide, ⟨rfl, by decide, rfl, rfl, rfl⟩, rfl, rfl, ⟨rfl, by decide, rfl, rfl, rfl⟩, rfl⟩, by decide⟩

theorem test_witness_SwitchBarrier :
    (let s := withFabric
     sourcesFull (.barg 13 5 false false) s ∧ 65535 < (readG (src s) 13).toNat ∧ sourcesFull (.barg 12 14 false false) s ∧
     (readG (src s) 12).toNat ≤ 65535 ∧ probeLaunch.record.tasks < (readG (src s) 14).toNat ∧
     sourcesFull (.barg 12 5 false false) s) ∧
    (let s := withFabric
     (live s).run = some ⟨0, 0⟩ ∧ (readG (src s) 5).toNat = 1 ∧ 1 ≤ probeLaunch.record.tasks ∧ quiet s ∧
     (live s).leaving = false ∧ s.clause = none ∧ mfind probeLaunch.tasks 0 = some probeTask ∧
     mfind probeLaunch.gBarriers (groupKey 65535 (mget 0 probeTask.gArrivals 65535)) = none) ∧
    (let s := withG [(12, 65535), (5, 1)]
     let d := (setLive s { live s with epoch := nextEpoch (live s).epoch }).dev
     let d := modLaunch d 0 fun y => { y with gBarriers := minsert y.gBarriers (groupKey 65535 0) ⟨1, [0], [], []⟩ }
     let d := modTask d 0 0 fun t => { t with gArrivals := minsert t.gArrivals 65535 1 }
     let e := { d with groups := mmod d.groups 65535 fun q => { q with flip := !q.flip } }
     let d := emit e 0 (.arrival 65535 false)
     let d := putCore d s.cur (afterClause (setDev s d))
     ∃ q : Suspending, q.holds d s.cur) := by
  unfold sourcesFull quiet
  exact ⟨by decide, by decide,
    ⟨⟨0, 0⟩, _, (List.range 64).map fun i => hbmLoc (0x1000 + i), [], []⟩, ⟨rfl, rfl, rfl, rfl, rfl, rfl⟩⟩

/-- Task 0 of eight comes second to a generation of group 65,535 of size 2. -/
def secondOfTwo : Barrier := ⟨2, [1], [], []⟩

def withGroup : State :=
  let s := withG [(12, 65535), (5, 2), (6, 1)]
  let x := { probeLaunch with record := { probeRecord with tasks := 8 }, tasks := (List.range 8).map fun i => (i, probeTask),
                              gBarriers := [(groupKey 65535 0, secondOfTwo)] }
  { s with dev := putLaunch s.dev 0 x }

theorem test_witness_LastArrival :
    let s := withGroup
    ∃ x, launchOf s.dev s.cur = some x ∧ sourcesFull (.barg 12 5 false false) s ∧ (src s).run = some ⟨0, 0⟩ ∧
      (live s).run = some ⟨0, 0⟩ ∧ (readG (src s) 12).toNat = 65535 ∧ (readG (src s) 5).toNat = 2 ∧ 2 ≤ x.record.tasks ∧
      quiet s ∧ (live s).leaving = false ∧ mfind x.tasks 0 = some probeTask ∧
      mfind x.gBarriers (groupKey 65535 (mget 0 probeTask.gArrivals 65535)) = some secondOfTwo ∧ secondOfTwo.size = 2 ∧
      (secondOfTwo.arrived ++ [0]).length = 2 ∧ sourcesFull (.barg 12 6 false false) s ∧
      secondOfTwo.size ≠ (readG (src s) 6).toNat ∧
      (let b := { secondOfTwo with arrived := secondOfTwo.arrived ++ [0] }
       let d := (setLive s { live s with epoch := nextEpoch (live s).epoch }).dev
       let d := modLaunch d 0 fun y => { y with gBarriers := minsert y.gBarriers (groupKey 65535 0) b }
       let d := modTask d 0 0 fun t => { t with gArrivals := minsert t.gArrivals 65535 1 }
       let e := { d with groups := mmod d.groups 65535 fun q => { q with flip := !q.flip } }
       let d := emit e 0 (.arrival 65535 false)
       let d := putCore d s.cur (afterClause (setDev s d))
       ∃ q : Suspending, q.holds d s.cur) := by
  unfold sourcesFull quiet
  exact ⟨_, rfl, by decide, rfl, rfl, by decide, by decide, by decide, ⟨rfl, rfl, rfl, rfl⟩, rfl, rfl, by decide, rfl,
    rfl, by decide, by decide, ⟨⟨0, 0⟩, _, (List.range 64).map fun i => hbmLoc (0x1000 + i), [], []⟩,
    ⟨rfl, rfl, rfl, rfl, rfl, rfl⟩⟩

/-- The descriptor at 0x1000: an add of 5 to the counter at offset 0x8010, once the one at 0x8000 reaches 1. -/
def withDescriptor : State :=
  let s := withFabric
  let m := writeN s.dev.mem (hbmLoc 0x1000) 16 (2 ^ 56 + vaultPage + 0x8000 + 2 ^ 64)
  let m := writeN m (hbmLoc 0x1020) 24 (vaultPage + 0x8010 + 2 ^ 128 * 5)
  { s with dev := { s.dev with mem := m } }

def descriptorPlaces : List Nat := (List.range 64).map fun i => hbmLoc (0x1000 + i)

set_option maxRecDepth 8000 in
theorem places_of_descriptor : (List.range 64).all (fun i =>
    match xlate withDescriptor.dev probeLaunch 0 .fetch .read (0x1000 + BitVec.ofNat 64 i) with
    | .place (.hbm a) => a == 0x1000 + i && descriptorPlaces[i]? == some (hbmLoc a)
    | _ => false) = true := by decide

set_option maxRecDepth 8000 in
theorem test_witness_Post :
    let s := withDescriptor
    let bits := diesAt 0 descriptorPlaces
    let ds := (List.range 8).map fun j => BitVec.ofNat 64 (fieldAt (descriptorPlaces.map (readByte s.dev.mem)) (8 * j) 8)
    sourcesFull (.post 8 false) s ∧ (readG (src s) 8).toNat % 64 = 0 ∧ quiet s ∧
    fetchable s probeLaunch (readG (src s) 8) 64 descriptorPlaces ∧ readWaits s (granulesOf descriptorPlaces) = false ∧
    diesSound s bits ∧ (src s).run = some ⟨0, 0⟩ ∧
    postInvalid ds = false ∧
    ∃ tags, raceFree s probeLaunch (granulesOf descriptorPlaces) false false true tags ∧
      let v := accessed s probeLaunch bits tags
      postLook v.dev probeLaunch 0 .coreAtomic .atomic (postTrigger ds) 8 = .ok (.vault 0 0x8000) ∧ postGate ds = 0 ∧
      postTargetBad v.dev probeLaunch 0 ds = false ∧ ds.getD 5 0 = 0 ∧ ctlCounter (ds.getD 7 0) = 0 ∧
      postRoom v.dev 0 (vaultLoc 0 0x8000) = true ∧ postRuled v.dev probeLaunch 0 ds = false ∧
      postWaits v ds = false := by
  unfold sourcesFull quiet
  refine ⟨by decide, by decide, by decide, ⟨rfl, by decide, fun i => .hbm (0x1000 + i), ?_⟩, rfl, rfl, rfl, rfl,
    _, ⟨⟨0, 0⟩, rfl, rfl, rfl⟩, rfl, by decide, rfl, by decide, by decide, rfl, rfl, rfl⟩
  intro i hi
  have h := List.all_eq_true.1 places_of_descriptor i (List.mem_range.2 hi)
  split at h
  · rename_i a e
    simp only [Bool.and_eq_true, beq_iff_eq] at h
    obtain ⟨rfl, h⟩ := h
    exact ⟨e, h.symm⟩
  · cases h

/-- A connection of the context to package 5, which expects sequence 7 and keeps the reply of 6. -/
def peerConn : Conn :=
  { part := 0, ident := 1, package := 5, down := false, sendSeq := 1, unacked := [3], expiries := 0, expect := 7,
    cache := [(6, 0, ⟨0, 9, 0⟩)] }

/-- An operation of the peer on the context's memory at 0x148. -/
def peerOp (f : FabFn) : FabOp := ⟨f, 0x148, 8, 5, 0, none⟩
def peerPacket (q : Word) (b : PacketBody) : Packet := ⟨5, 1, q, 0, b⟩

/-- A fabric operation of the task, and the connection. -/
def opAtWork (f : FabFn) (dest : FabDest) (loc : Option Nat) : FabRec :=
  { issue := ⟨0, 0, 0, 1, 0, 0, 0, 0, 0, []⟩, part := 0, ctx := 0, op := peerOp f, dest := dest, loc := loc, result := none,
    counter := none, scope := .stope, order := .relaxed, seqNo := none, post := none, holder := none,
    sets := [], va := 0x148, counterVa := 0 }

def withPeer (dest : FabDest) : State :=
  let s := withFabric
  let s := setLive s { live s with fabricQ := [3] }
  { s with dev := { s.dev with conns := [(0, peerConn)], fabric := [(3, opAtWork .store dest (some (vaultLoc 0 0x8000)))] } }

set_option maxRecDepth 8000 in
theorem test_witness_PacketsArrive :
    let s := withPeer .here
    arrives s.dev 0 peerConn (peerPacket 7 (.operation (peerOp .store))) (peerOp .store) (hbmLoc 0x148) ∧
    arrives s.dev 0 peerConn (peerPacket 7 (.operation (peerOp .load))) (peerOp .load) (hbmLoc 0x148) ∧
    arrivalHeld s.dev 0 (peerPacket 7 (.operation (peerOp .store))) (peerOp .store) = false ∧
    arrivalHeld s.dev 0 (peerPacket 7 (.operation (peerOp .load))) (peerOp .load) = false ∧
    wakesNone { s.dev with mem := writeN s.dev.mem (hbmLoc 0x148) 8 5 } ∧
    arrivalHeld s.dev 0 (peerPacket 6 (.operation (peerOp .store))) (peerOp .store) = false ∧
    (connOf s.dev (Machine.partOf s.dev 1) 1 5 = some 0 ∧ mfind s.dev.conns 0 = some peerConn ∧ seqBelow 6 7 = true ∧
      mfind peerConn.cache 6 = some (0, ⟨0, 9, 0⟩) ∧ seqBelow 6 (peerPacket 6 .ackOnly).rack.toNat = false) :=
  ⟨⟨rfl, rfl, rfl, rfl, by decide, by decide, 0, _, .hbm 0x148, rfl, rfl, rfl⟩,
    ⟨rfl, rfl, rfl, rfl, by decide, by decide, 0, _, .hbm 0x148, rfl, rfl, rfl⟩, rfl, rfl, rfl, rfl, rfl, rfl, by decide, rfl,
    by decide⟩

def withDue : State :=
  let s := withDescriptor
  let ds := (List.range 8).map fun j => BitVec.ofNat 64 (fieldAt (descriptorPlaces.map (readByte s.dev.mem)) (8 * j) 8)
  let p : Posted := { issue := (opAtWork .trig .here none).issue, part := 0, ctx := 0, desc := ds, addr := 0x1000,
                      trigger := vaultLoc 0 0x8000, gate := none, counter := none, due := some 1, dmode := false }
  { s with dev := { s.dev with posted := [(2, p)] } }

set_option maxRecDepth 8000 in
theorem test_witness_FabricEvents :
    (dispenserAt State.reset.dev 0 0 2047).holders = [] ∧
    (let s := withPeer .here
     performable s.dev 3 (opAtWork .store .here (some (vaultLoc 0 0x8000))) ∧
     (∃ d, fabRace s.dev (opAtWork .store .here (some (vaultLoc 0 0x8000))) = (none, d)) ∧
     wakesNone { s.dev with mem := writeN s.dev.mem (vaultLoc 0 0x8000) 8 5 }) ∧
    (let s := withPeer (.conn 0)
     let s := { s with dev := { s.dev with
       ports := [(0, { portReset with received := [⟨0, 0⟩] })], parts := [(0, { probePart with shares := [(0, 0xFF)] })] } }
     (∃ r, mfind s.dev.fabric 3 = some r ∧ r.dest = .conn 0 ∧ r.post = none ∧ r.result = none ∧ r.counter = none ∧
       (takePacket s.dev r.part (replyBytes r.op ⟨0, 0, 0⟩) 0).isSome = true) ∧
     mfind s.dev.conns 0 = some peerConn ∧ peerConn.unacked.head? = some 3 ∧ peerConn.down = false ∧ peerConn.expiries < 7 ∧
     ∀ n ∈ peerConn.unacked, ∃ r, mfind s.dev.fabric n = some r) ∧
    (let c := { peerConn with expiries := 7 }
     let s := { withPeer (.conn 0) with dev := { (withPeer (.conn 0)).dev with conns := [(0, c)] } }
     mfind s.dev.conns 0 = some c ∧ c.down = false ∧ c.unacked ≠ [] ∧ c.expiries = 7) ∧
    (let s := withDue
     ∃ p, mfind s.dev.posted 2 = some p ∧ firesNext s.dev 2 p = true ∧ postHeld s.dev p = false ∧ postKind p.desc = 1 ∧
       xlate s.dev (postLaunch s.dev p) (stopeOf p.issue.core) .trig .atomic (p.desc.getD 4 0) = .place (.vault 0 0x8010) ∧
       (p.desc.getD 4 0).toNat % 8 = 0 ∧ ∃ ls, postSource s.dev p 8 = .ok ls ∧
         (diesOf (stopeOf p.issue.core) (.vault 0 0x8010) ||| diesAt (stopeOf p.issue.core) ls) &&& s.dev.lost = 0) ∧
    (let b : Barrier := ⟨1, [0], [], []⟩
     let x := { probeLaunch with gBarriers := [(65535, b)] }
     let s := withG []
     let s := { s with dev := { s.dev with launches := [(0, x)] } }
     openGeneration s.dev 65535 = some (0, 65535, b) ∧ launchAt s.dev 0 = some x ∧ mfind x.tasks 0 = some probeTask ∧
       onCore s.dev 0 0 = true) :=
  ⟨rfl, ⟨⟨rfl, rfl, by decide, rfl, rfl⟩, ⟨_, rfl⟩, rfl⟩,
    ⟨⟨_, rfl, rfl, rfl, rfl, rfl, rfl⟩, rfl, rfl, rfl, by decide, fun n h => ⟨_, by cases h with
      | head => rfl
      | tail _ h => cases h⟩⟩,
    ⟨rfl, rfl, by decide, rfl⟩, ⟨_, rfl, rfl, rfl, rfl, rfl, by decide, _, rfl, rfl⟩, rfl, rfl, rfl, rfl⟩

/-- A load, or an add, of the task is due, and its result awaited in g40. -/
def withResult (f : FabFn) : State :=
  let r := { opAtWork f .here (some (hbmLoc 0x148)) with result := some (.g, 40) }
  let s := withFabric
  let s := setLive s { live s with fabricQ := [3], flights := [flightOf r.issue.word .g 40 63 false 0],
                                   owner := [(regCode .g 40, r.issue.word)] }
  { s with dev := { s.dev with fabric := [(3, r)] } }

set_option maxRecDepth 8000 in
theorem test_witness_FabricResults :
    ∀ fn ∈ [FabFn.load, .add],
      let s := withResult fn
      ∃ r c f, performable s.dev 3 r ∧ r.dest = .here ∧ r.loc = some (hbmLoc 0x148) ∧ r.counter = none ∧
        (∃ d, fabRace s.dev r = (none, d)) ∧ r.result = some (f.file, f.num) ∧
        launchAt s.dev r.issue.launch = some probeLaunch ∧ mfind probeLaunch.tasks r.issue.task = some probeTask ∧
        probeTask.snap = none ∧
        s.dev.cores.find? (fun e => e.2.run == some ⟨r.issue.launch, r.issue.task⟩) = some (0, c) ∧ c = coreAt s.dev 0 ∧
        c.flights = [f] ∧ awaits c r.issue.word f ∧ f.num < 64 ∧ f.remain = 63 ∧ f.src = .none ∧
        preemptDue s.dev.now c = false ∧ replaying s.dev (stopeOf 0) = false ∧ r.op.fn = fn ∧ r.op.size = 8 ∧
        armOf s.dev (hbmLoc 0x148) = none ∧
        wakesNone { s.dev with mem := writeN s.dev.mem (hbmLoc 0x148) 8 (0 + r.op.data.toNat % 2 ^ 64) } := by
  unfold awaits
  simp only [List.mem_cons, List.not_mem_nil, or_false, forall_eq_or_imp, forall_eq]
  exact ⟨⟨_, _, _, ⟨rfl, rfl, by decide, rfl, rfl⟩, rfl, rfl, rfl, ⟨_, rfl⟩, rfl, rfl, rfl, rfl, rfl, rfl, rfl,
      ⟨.head _, rfl, rfl, rfl, rfl⟩, by decide, rfl, rfl, rfl, rfl, rfl, rfl, rfl, rfl⟩,
    _, _, _, ⟨rfl, rfl, by decide, rfl, rfl⟩, rfl, rfl, rfl, ⟨_, rfl⟩, rfl, rfl, rfl, rfl, rfl, rfl, rfl,
      ⟨.head _, rfl, rfl, rfl, rfl⟩, by decide, rfl, rfl, rfl, rfl, rfl, rfl, rfl, rfl⟩

/-- A posted store of 5 to the 4 bytes at 0x148 is due. -/
def withDueStore : State :=
  let s := withDue
  { s with dev := { s.dev with posted := s.dev.posted.map fun e =>
      (e.1, { e.2 with desc := [2 ^ 48 + 0x8000, 1, 0, 0, 0x148, 0, 5, 5 * 2 ^ 50] }) } }

theorem test_witness_PostedStore :
    let s := withDueStore
    ∃ p, mfind s.dev.posted 2 = some p ∧ firesNext s.dev 2 p = true ∧ postHeld s.dev p = false ∧ postKind p.desc = 0 ∧
      postFn (postFunction p.desc) = some .store ∧ ctlSize (p.desc.getD 7 0) = 4 ∧
      xlate s.dev (postLaunch s.dev p) (stopeOf p.issue.core) .fabricReduce .write (p.desc.getD 4 0) = .place (.hbm 0x148) ∧
      (p.desc.getD 4 0).toNat % 4 = 0 ∧ ∃ ls, postSource s.dev p 4 = .ok ls ∧
        (diesOf (stopeOf p.issue.core) (.hbm 0x148) ||| diesAt (stopeOf p.issue.core) ls) &&& s.dev.lost = 0 :=
  ⟨_, rfl, rfl, rfl, rfl, rfl, rfl, rfl, by decide, _, rfl, rfl⟩

/-! Links and the governor -/

/-- Port 35 with what a clause asks of it. -/
def withPort (p : Port) : State := { State.reset with dev := putPort State.reset.dev 35 p }

def soundFlit (seq : Byte) : Flit := buildFlit { portReset with expect := 1 } false false seq 5

set_option maxRecDepth 100000 in
theorem test_witness_FlitArrival :
    (let p := portReset
     let f := soundFlit 0
     portLives State.reset.dev 35 = true ∧ activeLanes p.rx ≠ [] ∧ canSend p = true ∧
     flitBad p f = false ∧ hdrSeq f = p.expect.toNat ∧ hdrControl f = false ∧ hdrStripe f = 0 ∧ hdrNak f = false ∧
       p.requests = [] ∧ p.waiting = [] ∧ p.buffer = [] ∧ p.missing = none) ∧
    (let f := soundFlit 9
     flitBad portReset f = false ∧ hdrSeq f ≠ portReset.expect.toNat ∧ behind portReset f = false ∧
       portReset.missing = none ∧ hdrControl f = false ∧ hdrStripe f = 0 ∧ hdrNak f = false) ∧
    (let f := soundFlit 255
     flitBad portReset f = false ∧ hdrSeq f ≠ portReset.expect.toNat ∧ behind portReset f = true ∧
       hdrControl f = false ∧ hdrStripe f = 0 ∧ hdrNak f = false) ∧
    (let f := { soundFlit 0 with beats := 6 }
     flitBad portReset f = true ∧ (portAt (withPort { portReset with missing := some 9 }).dev 35).missing ≠ none) := by
  decide +kernel

theorem test_witness_Wavelengths :
    (let p := portAt (withPort { portReset with requests := [⟨false, 3⟩] }).dev 35
     p.requests = [⟨false, 3⟩] ∧ canSend p = true) ∧
    (portAt (withPort { portReset with missing := some 9 }).dev 35).missing = some 9 ∧
    (let p := portReset
     portLives State.reset.dev 35 = true ∧ canSend p = true ∧ p.woken = false ∧ queueFlits p < p.park ∧
       p.tx.length = 8 ∧ (laneAt p.tx 7).state = .active ∧ 7 ≠ lowestLane p.tx ∧ 2 ≤ activeCount p.tx ∧
       (laneAt p.rx 7).state = .active ∧ 2 ≤ activeCount p.rx ∧ p.requests.contains ⟨false, 7⟩ = false) ∧
    (let p := { portReset with tx := setLaneState portReset.tx 7 .parked, waiting := List.replicate 32 ⟨7, false, 0⟩ }
     p.wake ≤ queueFlits p ∧ (∃ l ∈ p.tx, l.state = .parked) ∧ (wakePort p).woken = true) ∧
    (let rx := (List.range 7).foldl (fun r i => setLaneState r (i + 1) .retired) portReset.rx
     rx.length = 8 ∧ (laneAt rx 0).state = .active ∧ activeCount rx ≤ 1) ∧
    (let rx := setLaneState portReset.rx 7 .retraining
     rx.length = 8 ∧ (laneAt rx 7).state = .retraining ∧ (laneAt rx 7).fails < 2 ∧
       portReset.requests.contains ⟨true, 7⟩ = false) ∧
    (let rx := portReset.rx.set 7 { laneReset with state := .retraining, fails := 2 }
     rx.length = 8 ∧ (laneAt rx 7).state = .retraining ∧ 2 ≤ (laneAt rx 7).fails) := by
  decide

/-- One running launch with a deadline: ahead of it at every level, or past it. -/
def withDeadline (ns : Nat) : State :=
  let s := withG []
  let x := { probeLaunch with deadline := some ns }
  { s with dev := { s.dev with launches := [(0, x)], now := 10 ^ 9, stopes := [] } }

theorem test_witness_GovernorEvents :
    (let s := withDeadline (10 ^ 12)
     s.dev.power.nextEval ≤ s.dev.now ∧
       s.dev.power.sensors = [] ∧ s.dev.power.boost = 0 ∧ worstReplays s.dev ≤ 64 ∧ s.dev.parts = [(0, probePart)] ∧
       deadlineLaunches s.dev 0 ≠ []) ∧
    (let s := withG []
     let s := { s with dev := { s.dev with power := { s.dev.power with nextEval := 10000 } } }
     s.dev.now < s.dev.power.nextEval) ∧
    ¬ (3 = 7 ∧ (withG []).dev.lost.getLsbD 3 = true) ∧
    calibrated (withG []).dev 3 ⟨0, 0x100000000#64, (withG []).dev.clock⟩ = true ∧ deadlineLaunches (withG []).dev 0 = [] ∧
    (let s := withDeadline 5
     ∃ x v, s.dev.launches = [(0, x)] ∧ x.state = .running ∧ x.risked = false ∧
       slackNs s.dev.now x (stopeMhz s.dev.power.grant.toNat) = some v ∧ v < 0 ∧ s.dev.stopes = [] ∧
       partAt s.dev x.part.toNat = some probePart ∧ probePart.dmode = false ∧ x.tasks = [(0, probeTask)] ∧
       probeTask.state = .running ∧
       (s.dev.cores.find? fun e => e.2.run == some ⟨0, 0⟩).map (·.1) = some 0) ∧
    (let s := withG []
     let c := { probeContext with sampling := some ⟨1, [], 0, 2000⟩ }
     let s := { s with dev := { s.dev with ctxs := [(0, c)] } }
     ctxAt s.dev 0 = some c ∧ 1 ≠ 0 ∧ partAt s.dev c.part.toNat = some probePart ∧ 1000 * 2 ^ 1 ≤ 2000 ∧ 0 + 4 * probePart.stopes.length ≤ 65536) :=
  ⟨by decide, by decide, by decide, by decide, by decide,
    ⟨_, _, rfl, rfl, rfl, rfl, by decide, rfl, rfl, rfl, rfl, rfl, rfl⟩, rfl, by decide, rfl, by decide⟩

/-! Launches and tasks -/

/-- The probe's launch with other fields, its core idle where run is none. -/
def withLaunch' (x : Launch) (run : Option Running) : State :=
  let s := withG []
  let s := setLive s { live s with run := run }
  { s with dev := { s.dev with launches := [(0, x)] } }

def queuedLaunch : Launch := { probeLaunch with state := .queued, number := none, gang := [], tasks := [] }

theorem test_witness_Admission :
    (let s := withLaunch' queuedLaunch none
     partAt s.dev 0 = some probePart ∧ headOf s.dev 0 0 = some (0, queuedLaunch) ∧ queuedLaunch.passUntil = 0 ∧
       (∀ m, 0 < m → m < 16 → headOf s.dev 0 m = none) ∧ reserve s.dev probePart queuedLaunch = some [0] ∧
       numberFor s.dev queuedLaunch = some 0 ∧ queuedLaunch.state = .queued ∧ queuedLaunch.parent = none ∧
       queuedLaunch.record.deadlines = 0 ∧
       (let y := { queuedLaunch with state := .running, number := some 0, admitted := s.dev.names, gang := [0] }
        let y := { y with tasks := (List.range 1).map fun i => (i, freshTask) }
        ∃ e, loadWaits e 0 = false ∧ writeConts y 0 1 (putLaunch { s.dev with names := s.dev.names + 1 } 0 y) = .ok e)) ∧
    (let x := { queuedLaunch with failures := 14 }
     let s := withLaunch' x none
     let s := { s with dev := modStope s.dev 0 fun q => { q with failed := true } }
     headOf s.dev 0 0 = some (0, x) ∧ launchAt s.dev 0 = some x ∧ reserve s.dev probePart x = none ∧ x.failures < 15) ∧
    launchAt (withLaunch' { queuedLaunch with passUntil := 9 } none).dev 0 = some { queuedLaunch with passUntil := 9 } := by
  refine ⟨⟨rfl, rfl, rfl, ?_, rfl, rfl, rfl, rfl, rfl, _, ?_, rfl⟩, by decide, rfl⟩
  · intro m h0 h1
    have h : ∀ m < 16, 0 < m → headOf (withLaunch' queuedLaunch none).dev 0 m = none := by decide
    exact h m h1 h0
  · rfl

theorem test_witness_Preemption :
    canSnapshot (withG []).dev 0 ⟨0, 0⟩ probeLaunch probeTask ∧ (coreAt (withG []).dev 0).lease = false ∧
    (coreAt (withG []).dev 0).preempt = none ∧ issuing (withG []).dev 255 = false ∧
    (let s := setLive (withG []) { live (withG []) with preempt := some 0 }
     (coreAt s.dev 0).preempt = some 0 ∧ canSnapshot s.dev 0 ⟨0, 0⟩ probeLaunch probeTask ∧ 0 ≤ s.dev.now) ∧
    (let s := setLive (withG []) { live (withG []) with preempt := some 99, lease := true }
     issuing s.dev 0 = true ∧ (coreAt s.dev 0).run ≠ none ∧ (coreAt s.dev 0).lease = true ∧ s.dev.now < 99) ∧
    (let x := { probeLaunch with state := .preempting }
     let s := withLaunch' x none
     launchAt s.dev 0 = some x ∧ x.state = .preempting ∧ x.stop = none ∧ childrenOf s.dev 0 = [] ∧ coresOf s.dev 0 = [] ∧
       arrayLeft s.dev 0 = false) :=
  ⟨⟨rfl, rfl, rfl, rfl, rfl, rfl, rfl, rfl, rfl, rfl, rfl, rfl, rfl⟩, rfl, rfl, rfl,
    ⟨rfl, ⟨rfl, rfl, rfl, rfl, rfl, rfl, rfl, rfl, rfl, rfl, rfl, rfl, rfl⟩, by decide⟩, by decide, by decide⟩

def readyTask : Task := { probeTask with state := .ready }
def stoppedTask : Task := { probeTask with state := .snapshot, snap := some ⟨coreReset, latchOf coreReset 64, [], 0, false⟩ }

set_option maxRecDepth 8000 in
theorem test_witness_Resumption :
    (let x := { probeLaunch with tasks := [(0, readyTask)] }
     let s := withLaunch' x none
     ∃ q, nextReady s.dev 0 = some q ∧ idleCore s.dev 0 = true ∧ q.x = x ∧ q.launch = 0 ∧ q.t = readyTask ∧
       (∀ j, j < gangCore q.x 0 → idleCore s.dev (coreOfGang q.x j) = false) ∧ launchAt s.dev 0 = some x ∧
       mfind x.tasks 0 = some readyTask ∧ x.saved = [] ∧ x.record.frameSize < 64 ∧ x.record.params.length ≤ 55 ∧
       ∃ ls, placeBytes s.dev x 0 .fetch .read 0x1000 64 = .ok ls ∧ readHeld s.dev ls = false) ∧
    (let x := { probeLaunch with tasks := [(0, stoppedTask)] }
     let s := withLaunch' x none
     ∃ q, nextReady s.dev 0 = some q ∧ q.t = stoppedTask ∧ idleCore s.dev 0 = true ∧ launchAt s.dev 0 = some x ∧
       gangCore q.x 0 = 0 ∧ x.saved = [] ∧ stoppedTask.state = .snapshot ∧
       (∃ sn, q.t.snap = some sn ∧ snapHeld s.dev q.x q.t sn = false) ∧
       ∃ ls, Sys2Proof.Machine.recordPlaces s.dev 0 q = .ok ls ∧ readHeld s.dev ls = false) :=
  ⟨⟨_, rfl, rfl, rfl, rfl, rfl, by decide, rfl, rfl, rfl, by decide, by decide, _, rfl, rfl⟩,
    ⟨_, rfl, rfl, rfl, rfl, rfl, rfl, rfl, ⟨_, rfl, rfl⟩, _, rfl, rfl⟩⟩

theorem test_witness_LaunchSteps :
    (let x := { probeLaunch with tasks := [(0, { probeTask with state := .stepEnd })] }
     let s := withLaunch' x none
     launchAt s.dev 0 = some x ∧ goes x = true ∧ x.phase = .open ∧ stepOver x = true ∧ launchBusy s.dev 0 = false ∧
       stagedEntry s.dev x = none) ∧
    (goes probeLaunch = true ∧ probeLaunch.phase = .open ∧ stepOver probeLaunch = false) ∧
    (let x := { probeLaunch with phase := .replay, record := { probeRecord with steps := 2 } }
     let s := withLaunch' x none
     goes x = true ∧ x.phase = .replay ∧ copiesLeft s.dev 0 = false ∧ x.record.schedule = 0 ∧ loadWaits s.dev 0 = false ∧
       x.cancel = false ∧ x.parent = none ∧ x.step + 1 < x.record.steps ∧ (∃ tk ∈ x.tasks, tk.2.state ≠ .exited) ∧
       msorted x.tasks = true ∧ stepEntry s.dev x 1 = .ok (none, 0, 0) ∧ entryDies s.dev x 1 &&& s.dev.lost = 0 ∧
       entryHeld s.dev x 1 = false) ∧
    (let x := { probeLaunch with phase := .replay }
     x.step + 1 = x.record.steps ∧ x.record.complRec = 0 ∧ x.record.complCtr = 0 ∧ x.waiters = []) ∧
    (let x := { probeLaunch with phase := .replay, record := { probeRecord with complRec := 0x3000 } }
     let s := withLaunch' x none
     let ls := (List.range 32).map (hbmLoc 0x3000 + ·)
     x.step + 1 = x.record.steps ∧ x.record.complCtr = 0 ∧ x.record.complRec ≠ 0 ∧
       placeBytes s.dev x (firstStope s.dev x) .fetch .write 0x3000 32 = .ok ls ∧
       diesAt (firstStope s.dev x) ls &&& s.dev.lost = 0 ∧
       lateHeld s.dev ((List.range 32).map fun i => granuleOf (hbmLoc 0x3000 + i)) = false ∧
       wakesNone { s.dev with mem := writeCells s.dev.mem (cellsAt ls
         (completionBytes ⟨0, x.step + 1, BitVec.ofNat 64 s.dev.now, none, 0, 0⟩)) }) ∧
    (let x := { probeLaunch with phase := .replay, record := { probeRecord with complCtr := 0x3000 } }
     let s := withLaunch' x none
     let mem := writeN s.dev.mem (hbmLoc 0x3000) 8 (readN s.dev.mem (hbmLoc 0x3000) 8 + 1)
     x.step + 1 = x.record.steps ∧ x.record.complRec = 0 ∧ x.record.complCtr ≠ 0 ∧ x.waiters = [] ∧
       xlate s.dev x (firstStope s.dev x) .coreAtomic .atomic (x.record.complCtr.setWidth 64) = .place (.hbm 0x3000) ∧
       diesOf (firstStope s.dev x) (.hbm 0x3000) &&& s.dev.lost = 0 ∧ lateHeld s.dev [granuleOf (hbmLoc 0x3000)] = false ∧
       armOf s.dev (hbmLoc 0x3000) = none ∧ wakesNone { s.dev with mem := mem } ∧
       (let a : Arming := ⟨0, 0, 1, false, []⟩
        let s := { s with dev := { s.dev with arms := [(hbmLoc 0x3000, a)] } }
        armOf s.dev (hbmLoc 0x3000) = some a ∧ a.overrun = false ∧ readN s.dev.mem (hbmLoc 0x3000) 8 + 1 ≤ a.limit.toNat ∧
          wakesNone { s.dev with mem := mem })) ∧
    (let st : Stop := ⟨none, 5, 0, none, none, 8⟩
     let x := { probeLaunch with stop := some st }
     let s := withLaunch' x none
     launchAt s.dev 0 = some x ∧ st.task = none ∧ x.state ≠ .complete ∧ childrenOf s.dev 0 = [] ∧ s.dev.copies = [] ∧
       launchBusy s.dev 0 = false ∧ x.record.complRec = 0 ∧ x.waiters = [] ∧ x.parent = none) :=
  ⟨⟨rfl, rfl, rfl, rfl, rfl, rfl⟩, by decide,
    ⟨rfl, rfl, rfl, rfl, rfl, rfl, rfl, by decide, ⟨_, .head _, by decide⟩, rfl, rfl, rfl, rfl⟩, by decide,
    ⟨rfl, rfl, by decide, rfl, rfl, rfl, rfl⟩,
    ⟨rfl, rfl, by decide, rfl, rfl, rfl, rfl, rfl, rfl, rfl, rfl, by decide, rfl⟩, rfl, rfl, by decide, rfl, rfl, rfl, rfl,
    rfl, rfl⟩

/-! Pages -/

/-- A launch record of one task and one step whose continuation record lies at 0x1000 (R35, R36). -/
def recordBody (regen : Bool) : List Byte :=
  (List.range 256).map fun i =>
    if i = 16 ∨ i = 23 ∨ i = 24 then 1 else if i = 22 then (if regen then 1 else 0) else if i = 129 then 0x10 else 0

/-- The probe's context with a regeneration record at 0x2000, page 518 to be regenerated, and page 520, backed by page 0, to
be fetched. -/
def withFaults : State :=
  let s := withPages []
  let c := { probeContext with
    regen := 0x2000, regions := probeContext.regions ++ [(1, ⟨true, 0, 0, true, false, 0, 0⟩)],
    pages := [(518, { pageOn 2 0 0 with state := 2, phys := some 1 }), (520, { pageOn 2 0 0 with state := 3, phys := some 1 })] }
  let x := { probeLaunch with pageQ := [(518, 0x40C00000)] }
  let q : CopyCmd := { issue := ⟨0, 0, 0, 1, 0, 0, 0, 0, 0, []⟩, ctx := 0, stope := 0, chan := 0, kind := .cpy, desc := [],
                       token := none, counter := 0, place := none, queued := true, next := 0, paused := some 0x41000000,
                       flags := 0, carry := [], entry := none }
  let m := writeCells s.dev.mem ((recordBody true).zipIdx.map fun b => (hbmLoc (0x2000 + b.2), b.1))
  { s with dev := { s.dev with mem := m, ctxs := [(0, c)], launches := [(0, x)], copies := [(7, q)], names := 8 } }

set_option maxRecDepth 8000 in
theorem test_witness_Regeneration :
    let s := withFaults
    ∃ x e n ns r es dl f,
      (let d := unlistPage s.dev x.ctx 518
       let c := { launchOfRecord x.part x.ctx 0 x.sender r d.now with
         level := x.level, state := .running, number := some n, admitted := d.names, gang := x.gang, parent := some 0,
         page := 518, regens := x.regens }
       let c' := { c with ranges := es, dl0 := dl, tasks := (List.range r.tasks).map fun i => (i, freshTask) }
       let b := modLaunch { d with names := d.names + 1 } 0 fun x => { x with regens := x.regens + 1 }
       launchAt s.dev 0 = some x ∧ goes x = true ∧ x.pageQ = (518, 0x40C00000) :: [] ∧ pageOf s.dev x.ctx 518 = some e ∧
         e.state = 2 ∧ e.phys ≠ none ∧ (childrenOf s.dev 0).length < 8 ∧ freeNumbers s.dev x.ctx = n :: ns ∧ 0 ≠ s.dev.names ∧
         regenRecord d x 518 0x40C00000 = some r ∧ queueReads d c = some (es, dl) ∧
         writeConts c' 0 r.tasks (putLaunch b d.names c') = .ok f ∧ loadWaits f x.ctx = false ∧
         regenHeld s.dev x 518 0x40C00000 = false ∧ entryHeld f c' 0 = false ∧
         regenDies d x 518 0x40C00000 &&& d.lost = 0) :=
  ⟨_, _, _, _, _, _, _, _, rfl, rfl, rfl, rfl, rfl, by decide, by decide, rfl, by decide, rfl, rfl, rfl, rfl, rfl, rfl,
    rfl⟩

set_option maxRecDepth 8000 in
theorem test_witness_PageEvents :
    (let s := withFaults
     ∃ e x, s.memOk = true ∧ pageOf s.dev 0 520 = some e ∧ e.state = 3 ∧ e.phys = some 1 ∧
       fillUser s.dev 0 520 = some (x, 0) ∧ pageWaiters s.dev 0 520 = [] ∧
       (let va : Dword := BitVec.ofNat 64 (e.backing.toNat * 2 ^ 21)
        xlate s.dev x 0 .copy .read va = .place (.hbm 0) ∧
        xlate s.dev x 0 .copy .read (va + BitVec.ofNat 64 (2 ^ 21 - 1)) = .place (.hbm 0x1FFFFF)) ∧
       (diesOf 0 (.hbm 0) ||| diesOf 0 (.hbm (1 * 2 ^ 21))) &&& s.dev.lost = 0 ∧
       hbmLoc 0 + 2 ^ 21 ≤ hbmLoc (1 * 2 ^ 21) ∧ wakesNone { s.dev with mem := fillFrom s.dev (.hbm 0) (hbmLoc (1 * 2 ^ 21)) }) ∧
    (let w : PendingLoad := ⟨[], [], 0, [], requestOf 0x001F []⟩
     let c := { probeContext with pending := some w }
     let s := withLaunch' { probeLaunch with phase := .held } none
     let s := { s with dev := { s.dev with ctxs := [(0, c)] } }
     ctxAt s.dev 0 = some c ∧ allHeld s.dev 0 = true ∧
       allHeld { s.dev with launches := [(0, probeLaunch)] } 0 = false) ∧
    (let p := { probePart with free := [5] }
     let s := withG []
     let s := { s with dev := { s.dev with parts := [(0, p)] } }
     partAt (collect s.dev 0) 0 = some p ∧ p.free ≠ [] ∧ waitingPages s.dev 0 = []) :=
  ⟨⟨_, _, by decide, rfl, rfl, rfl, rfl, rfl, ⟨rfl, rfl⟩, rfl, by decide, rfl⟩, by decide, by decide⟩

/-- A posted launch of the record at 0x2000 is due. -/
def withDueLaunch : State :=
  let s := withDue
  let m := writeCells s.dev.mem ((recordBody false).zipIdx.map fun b => (hbmLoc (0x2000 + b.2), b.1))
  { s with dev := { s.dev with mem := m, posted := s.dev.posted.map fun e =>
      (e.1, { e.2 with desc := [2 * 2 ^ 56 + 0x8000, 1, 0, 0, 0x2000, 0, 0, 0] }) } }

set_option maxRecDepth 8000 in
theorem test_witness_PostedLaunch :
    let s := withDueLaunch
    ∃ p ls l d, mfind s.dev.posted 2 = some p ∧ firesNext s.dev 2 p = true ∧ postHeld s.dev p = false ∧
      postKind p.desc = 2 ∧
      placeBytes s.dev (postLaunch s.dev p) (stopeOf p.issue.core) .fetch .read (p.desc.getD 4 0) 256 = .ok ls ∧
      diesAt (stopeOf p.issue.core) ls &&& s.dev.lost = 0 ∧
      enqueueLaunch (touchDies s.dev p.ctx (diesAt (stopeOf p.issue.core) ls)) (BitVec.ofNat 4 p.part) p.ctx
        (postLaunch s.dev p).sender false (ls.map (readByte s.dev.mem)) = .ok (l, d) :=
  ⟨_, _, _, _, rfl, rfl, rfl, rfl, rfl, rfl, rfl⟩

/-! The Foreman -/

/-- The endpoint of partition 0's function 0, and the operator's: sessions under an empty key, from address 5. -/
def boundEnd : Endpoint := ⟨[], some [], 5⟩

def bootedForeman : Foreman := { foremanReset with booted := true, endpoints := [(0, boundEnd), (96, boundEnd)] }

/-- The probe's partition and context, with launches, under a Foreman that serves. -/
def withForeman (ls : SMap Launch) : State :=
  let s := withLaunch' probeLaunch none
  { s with dev := { s.dev with foreman := bootedForeman, launches := ls } }

/-- A request whose Auth holds. -/
def signed (part : Byte) (t : Nat) (body : List Byte) : Request :=
  let r := { requestOf t body with partition := part }
  { r with auth := Config.keyedDigest [] (requestHeader r 0 ++ body) }

theorem auth_of_signed (d : Dev) (part : Byte) (t : Nat) (body : List Byte) (h : d.foreman = bootedForeman)
    (hp : part = 0 ∨ part = 0xFF) : authHolds d (signed part t body) = true := by
  have hn : endpointOf (signed part t body) = some (if part = 0 then 0 else 96) := by rcases hp with rfl | rfl <;> rfl
  have he : endpointAt d (if part = 0 then 0 else 96) = some boundEnd := by
    rcases hp with rfl | rfl <;> simp only [endpointAt, h] <;> rfl
  unfold authHolds
  rw [hn]
  simp only [he]
  exact beq_self_eq_true (signed part t body).auth

theorem served_signed (d : Dev) (part : Byte) (t : Nat) (body : List Byte) (h : d.foreman = bootedForeman)
    (hp : part = 0 ∨ part = 0xFF) (hl : body.length ≤ 1048576) (ht : listedTypes.contains (BitVec.ofNat 16 t) = true) :
    served d (signed part t body) := by
  refine ⟨by rw [h]; rfl, by rw [h]; decide, by rw [h]; rfl, .inr (auth_of_signed d part t body h hp), ?_⟩
  have hm : (BitVec.ofNat 32 body.length).toNat = body.length := by
    rw [BitVec.toNat_ofNat]; exact Nat.mod_eq_of_lt (by omega)
  have hc : BitVec.ofNat 16 t ∈ listedTypes := by simpa using ht
  simp [headerBad, signed, requestOf, hm, hc, hl]

theorem test_witness_RequestChecks :
    foremanReset.booted = false ∧
    (let f := { bootedForeman with pairsLost := 2 }
     f.booted = true ∧ 2 ≤ f.pairsLost) ∧
    (let f := { bootedForeman with recovery := true }
     f.booted = true ∧ f.pairsLost < 2 ∧ f.recovery = true ∧ recoveryType (requestOf 0x0010 []) = false) ∧
    (let d := { (withForeman []).dev with foreman := { bootedForeman with endpoints := [] } }
     authExempt (requestOf 0x0010 []) = false ∧ authHolds d (requestOf 0x0010 []) = false) ∧
    (authExempt (requestOf 0x0012 []) = true ∧ headerBad { requestOf 0x0012 [] with reserved := 1 } = true) := by
  decide

set_option maxRecDepth 30000 in
theorem test_witness_PackageRequests :
    (∀ t ∈ [0x0001, 0x0002, 0x0003, 0x0010, 0x0011, 0x0012, 0x0060], listedTypes.contains (BitVec.ofNat 16 t) = true) ∧
    attestBad (signed 0 0x0002 (List.replicate 40 0)) = false ∧
    (isOperator (signed 0xFF 0x0003 (1 :: List.replicate 4691 0)) = true ∧
      firmwareBad (signed 0xFF 0x0003 (1 :: List.replicate 4691 0)) = false) ∧
    (let r := signed 0 0x0012 (List.replicate 8819 0)
     r.body.length = 8819 ∧ endpointOf r = some 0 ∧ endpointAt (withForeman []).dev 0 = some boundEnd) ∧
    (let r := signed 0xFF 0x0010 (0 :: 1 :: List.replicate 718 0)
     let s := withForeman []
     let s := { s with dev := { s.dev with sites := [(0, 0)] } }
     isOperator r = true ∧ assignBad r = false ∧ byteAt r.body 0 = 0 ∧ partBusy s.dev 0 = false ∧
       partLeft s.dev 0 = false ∧ assignClash s.dev 0 r = false ∧ ∃ d, repairSites (chooseStopes s.dev 0 (byteAt r.body 1)) s.dev = ([0], d)) ∧
    (let r := signed 0xFF 0x0011 (List.replicate 8 0)
     let s := withForeman []
     let s := { s with dev := { s.dev with ctxs := [] } }
     isOperator r = true ∧ r.body.length = 8 ∧ nonzeroIn r.body 1 7 = false ∧ byteAt r.body 0 = 0 ∧ r.type = 0x0011 ∧
       partAt s.dev 0 = some probePart ∧ contextsOf s.dev 0 = [] ∧ s.dev.foreman.waiting = []) ∧
    (telemetryBad (signed 0 0x0060 (List.replicate 32 0)) = false ∧
      othersContext (withForeman []).dev (signed 0 0x0060 (List.replicate 32 0)) = false ∧ endpointOf (signed 0 0x0060 (List.replicate 32 0)) = some 0) ∧
    (∀ op ∈ [1, 2, 3],
      let r := signed 0 0x0060 (BitVec.ofNat 8 op :: List.replicate 7 0 ++ (if op = 1 then 20 else 0) :: List.replicate 23 0)
      telemetryBad r = false ∧ isOperator r = false ∧ fieldAt r.body 0 4 = op) ∧
    (let s := withForeman []
     let c := { probeContext with sampling := some ⟨10, [], 0, 0⟩ }
     let s := { s with dev := { s.dev with ctxs := [(0, c)] } }
     owned s.dev (signed 0 0x0060 []) 0 c ∧ ctxAt s.dev 0 = some c) := by
  refine ⟨by decide, rfl, ⟨rfl, ?_⟩, ⟨List.length_replicate, rfl, rfl⟩, ⟨rfl, rfl, rfl, rfl, rfl, by decide, _, rfl⟩, by decide,
    ⟨rfl, rfl, rfl⟩, by decide, ⟨by decide, rfl, rfl⟩, rfl⟩
  simp only [firmwareBad, signed, requestOf, List.length_cons, List.length_replicate]
  decide +kernel

/-! Requests in a context -/

def loadBody : List Byte := (List.range 32).map fun i => if i = 14 then 1 else if i = 25 then 0x30 else 0
def shootBody : List Byte := 1 :: List.replicate 7 0 ++ 1 :: List.replicate 15 0
def oneByteBody (more : List Byte) : List Byte := List.replicate 8 0 ++ 1 :: List.replicate 7 0 ++ more

/-- A table of one region, in the host's space, at 0x3000. -/
def withTable : State :=
  let s := withForeman []
  { s with dev := { s.dev with mem := writeN s.dev.mem (hbmLoc 0x3000) 16 (3 * 2 ^ 110 + 5 * 2 ^ 105 + 7 * 2 ^ 102 + 2 ^ 100) } }

theorem owned_by_function (d : Dev) (t : Nat) (body : List Byte) (h : d.ctxs = [(0, probeContext)]) :
    owned d (signed 0 t body) 0 probeContext := ⟨show (1 : Dword) ≠ 0 by decide, by unfold contextIn; rw [h]; rfl, rfl⟩

set_option maxRecDepth 8000 in
theorem test_witness_Tables :
    listedTypes.contains (BitVec.ofNat 16 0x0020) = true ∧ listedTypes.contains (BitVec.ofNat 16 0x0021) = true ∧
    (let s := withTable
     let r := signed 0 0x0020 loadBody
     loadBad r = false ∧ bitsOf r.body 255 192 = 0x3000 ∧ bitsOf r.body 127 112 = 1 ∧ loadWaits s.dev 0 = false ∧
       partAt s.dev 0 = some probePart ∧ (∃ d w, walkTable 0 0x3000 1 (s.dev, ⟨[], [], []⟩) = .ok (d, w) ∧
         tableFits d 0 probePart w = true ∧ connsFit d 0 w = true ∧ d.launches = [] ∧ ctxAt d 0 ≠ none ∧
         d.foreman = s.dev.foreman ∧ grantsWait (collect d 0) 0 (grantsOf probePart w.pages) = false)) ∧
    (let s := withTable
     let s := { s with dev := { s.dev with names := 9 } }
     let r := { signed 0 0x0020 loadBody with context := 2 }
     r.context ≠ 0 ∧ contextIn s.dev 0 r.context = none ∧ partAt s.dev 0 = some probePart ∧ loadBad r = false ∧
       (contextsOf s.dev 0).length < 256 ∧ ∃ d w, walkTable 0 0x3000 1 (s.dev, ⟨[], [], []⟩) = .ok (d, w) ∧
         tableFits d d.names probePart w = true ∧ connsFit d d.names w = true ∧ d.launches = [] ∧
         d.foreman = s.dev.foreman ∧ grantsWait (collect d 0) 0 (grantsOf probePart w.pages) = false) ∧
    (let s := withForeman []
     let r := signed 0 0x0020 (List.replicate 32 0)
     loadBad r = false ∧ bitsOf r.body 127 112 = 0 ∧ r.type = 0x0020 ∧ probeContext.pending = none ∧
       ctxAt s.dev 0 = some probeContext ∧ s.dev.foreman.waiting = [] ∧ s.dev.launches = [] ∧ s.dev.fabric = [] ∧
       s.dev.late = []) ∧
    (let s := withForeman []
     let r := signed 0 0x0021 shootBody
     shootBad r = false ∧ r.type = 0x0021 ∧ accessesLeft s.dev 0 s.dev.issues (fun _ _ => true) = false ∧ s.dev.copies = [] ∧
       covered (shootRanges r) 0 = true) :=
  ⟨by decide, by decide, ⟨rfl, rfl, rfl, rfl, rfl, _, _, rfl, rfl, rfl, rfl, by simp [ctxAt, withTable, withForeman, withLaunch', withG]; decide, rfl, rfl⟩,
    ⟨by decide, rfl, rfl, rfl, by decide, _, _, rfl, rfl, rfl, rfl, rfl, rfl⟩, by decide, by decide⟩

theorem handle_of_launch (d : Dev) (t : Nat) (body : List Byte) (x : Launch) (h : d.ctxs = [(0, probeContext)])
    (hl : d.launches = [(0, x)]) (hx : x.parent = none ∧ x.part = 0 ∧ x.level = 0 ∧ x.seq = 0 ∧ x.ctx = 0)
    (hb : fieldAt body 0 8 = 0) : handled' d (signed 0 t body) 0 x := by
  obtain ⟨h1, h2, h3, h4, h5⟩ := hx
  have hh : handleOf x = 0#64 := by unfold handleOf; rw [h2, h3, h4]; rfl
  refine ⟨?_, by simp [othersContext, contextIn, h, signed, requestOf, probeContext], probeContext, by rw [h5]; unfold ctxAt; rw [h]; rfl, rfl, rfl⟩
  unfold launchByHandle
  simp [hl, h1, hh, signed, requestOf, hb]

set_option maxRecDepth 8000 in
theorem test_witness_LaunchRequests :
    (let s := withForeman []
     let r := signed 0 0x0030 (recordBody false)
     r.body.length = 256 ∧ (∃ l d, enqueueLaunch s.dev 0 0 0 false r.body = .ok (l, d)) ∧
       enqueueHeld s.dev 0 0 0 r.body = false) ∧
    fieldAt (List.replicate 16 0) 0 8 = 0 ∧ fieldAt (List.replicate 16 0) 8 8 = 0 ∧ launchAt (withForeman [(0, queuedLaunch)]).dev 0 = some queuedLaunch ∧
    (withForeman [(0, queuedLaunch)]).dev.late = [] ∧ metWaits (withForeman [(0, queuedLaunch)]).dev = [] ∧
    (let s := withForeman [(0, probeLaunch)]
     let q : CopyCmd := { issue := ⟨0, 0, 0, 1, 0, 0, 0, 0, 0, []⟩, ctx := 0, stope := 0, chan := 0, kind := .cpy,
                          desc := [], token := none, counter := 0, place := none, queued := true, next := 0, paused := none,
                          flags := 0, carry := [], entry := none }
     let s := { s with dev := { s.dev with copies := [(7, q)] } }
     fieldAt (List.replicate 8 0 ++ 1 :: List.replicate 7 0) 8 8 = 1 ∧ launchAt s.dev 0 = some probeLaunch ∧
       probeLaunch.state = .running ∧ probeLaunch.stop = none ∧ childrenOf s.dev 0 = [] ∧ launchBusy s.dev 0 = true ∧
       coresOf s.dev 0 = [] ∧ ∀ q ∈ s.dev.copies, q.2.paused = none) :=
  ⟨⟨rfl, ⟨_, _, rfl⟩, rfl⟩, rfl, rfl, rfl, rfl, rfl, by decide⟩

theorem test_witness_MemoryRequests :
    let s := withForeman []
    let x := requestLaunch s.dev probeContext 0
    (let r := signed 0 0x0040 (oneByteBody [])
     byteAt r.body 12 ≠ 0xFF ∧ fillRange .read s.dev 0 (BitVec.ofNat 64 (fieldAt r.body 0 8)) 1 x 0 = some s.dev ∧
       metWaits s.dev = [] ∧ memBad s.dev r probeContext false = false ∧
       ∃ ls, placeBytes s.dev x 0 .fetch .read (BitVec.ofNat 64 (fieldAt r.body 0 8)) (fieldAt r.body 8 4) = .ok ls ∧
         readHeld s.dev ls = false ∧ rangeFillHeld .read s.dev 0 (BitVec.ofNat 64 (fieldAt r.body 0 8)) 1 x 0 = false ∧
         diesAt 0 ls &&& s.dev.lost = 0) ∧
    (let r := signed 0 0x0041 (oneByteBody [7])
     memBad s.dev r probeContext true = false ∧
       fillRange .write s.dev 0 (BitVec.ofNat 64 (fieldAt r.body 0 8)) 1 x 0 = some s.dev ∧
       ∃ ls, placeBytes s.dev x 0 .fetch .write (BitVec.ofNat 64 (fieldAt r.body 0 8)) (fieldAt r.body 8 4) = .ok ls ∧
         lateHeld s.dev (granulesOf ls) = false ∧
         rangeFillHeld .write s.dev 0 (BitVec.ofNat 64 (fieldAt r.body 0 8)) 1 x 0 = false ∧ diesAt 0 ls &&& s.dev.lost = 0 ∧
         wakesNone { s.dev with mem := writeCells s.dev.mem (cellsAt ls (r.body.drop 16)) }) :=
  ⟨⟨by decide, rfl, rfl, rfl, _, rfl, rfl, rfl, rfl⟩, rfl, rfl, _, rfl, rfl, rfl, rfl, rfl⟩

theorem bytes_of_zeros (n : Nat) : bytesNat (List.replicate n 0) = 0 := by
  induction n with
  | zero => rfl
  | succ n ih => rw [List.replicate_succ, bytesNat, ih]; rfl

theorem field_of_zeros (a b n off : Nat) (pre : List Byte) (h : pre.length = a) (ho : a ≤ off) :
    fieldAt (pre ++ List.replicate b 0) off n = 0 := by
  subst h
  obtain ⟨k, rfl⟩ := Nat.exists_eq_add_of_le ho
  unfold fieldAt
  rw [← List.drop_drop, List.drop_left, List.drop_replicate, List.take_replicate, bytes_of_zeros]

/-- An image of Version 1 that holds nothing else breaks no rule. -/
theorem zero_image_good (n m : Nat) : imagesBad ([1] ++ List.replicate (n + 63) 0) (List.replicate m 0) = false := by
  have z : ∀ off k, 1 ≤ off → fieldAt ([1] ++ List.replicate (n + 63) 0) off k = 0 :=
    fun off k h => field_of_zeros 1 _ k off [1] rfl h
  have h0 : fieldAt ([1] ++ List.replicate (n + 63) 0) 0 64 = 1 := by
    unfold fieldAt
    rw [List.drop_zero, List.singleton_append, List.take_succ_cons, List.take_replicate, show min 63 (n + 63) = 63 by omega]
    simp only [bytesNat, bytes_of_zeros]
    rfl
  have e : ∀ off, 1 ≤ off → imageEntryBad ([1] ++ List.replicate (n + 63) 0) off = false := by
    intro off h
    unfold imageEntryBad
    rw [z _ _ (by omega)]
    decide
  have hl : ∀ k, imageEntryBad ([1] ++ List.replicate (n + 63) 0) (landingOff k) = false := fun k =>
    e _ (by unfold landingOff; split <;> omega)
  have hi : ∀ k, imageEntryBad ([1] ++ List.replicate (n + 63) 0) (inflightOff k) = false := fun k =>
    e _ (by unfold inflightOff; omega)
  have hq : ∀ i, fieldAt ([1] ++ List.replicate (n + 63) 0) (0x2400 + 8 * i) 8 = 0 := fun i => z _ _ (by omega)
  have ht : Nat.testBit 1 165 = false := by decide
  have hs : sysBad ([1] ++ List.replicate (n + 63) 0) = false := by
    have z' : ∀ off k, 1 ≤ off → fieldAt (1#8 :: List.replicate (n + 63) 0#8) off k = 0 := z
    simp [sysBad, sysFields, z']
  unfold imagesBad versionBad latchedBad
  simp only [h0, hl, hi, hq, ht, hs, bytes_of_zeros, Bool.false_eq_true, if_false]
  decide

theorem test_witness_Snapshots :
    let x := { probeLaunch with tasks := [(0, stoppedTask)] }
    let s := withForeman [(0, x)]
    let body : List Byte := List.replicate 16 0 ++ ([1] ++ List.replicate (imageSize - 1) 0) ++ List.replicate imageSize 0
    launchAt s.dev 0 = some x ∧ (∃ sn, namedSnap s.dev x 0 = some (stoppedTask, sn)) ∧ namedHeld s.dev x 0 = false ∧
    (fieldAt (List.replicate 16 0) 0 8 = 0 ∧ fieldAt (List.replicate 16 0) 8 4 = 0 ∧ nonzeroIn (List.replicate 16 0) 12 4 = false) ∧
    body.length = 16 + 2 * imageSize ∧ fieldAt body 0 8 = 0 ∧ fieldAt body 8 4 = 0 ∧ nonzeroIn body 12 4 = false ∧
    stoppedTask.state = .snapshot ∧ imagesBad ((body.drop 16).take imageSize) (body.drop (16 + imageSize)) = false := by
  intro x s body
  have hb : body = List.replicate 16 0 ++ (([1] ++ List.replicate (imageSize - 1) 0) ++ List.replicate imageSize 0) := by
    simp only [body, List.append_assoc]
  have hd : body.drop 16 = ([1] ++ List.replicate (imageSize - 1) 0) ++ List.replicate imageSize 0 := by
    rw [hb]; exact List.drop_left' List.length_replicate
  have hn : ([1] ++ List.replicate (imageSize - 1) 0 : List Byte).length = imageSize := by
    rw [List.length_append, List.length_replicate]; rfl
  refine ⟨rfl, ⟨_, rfl⟩, rfl, ⟨rfl, rfl, rfl⟩, ?_, rfl, rfl, rfl, rfl, ?_⟩
  · rw [hb, List.length_append, List.length_append, hn, List.length_replicate, List.length_replicate]; rfl
  · rw [hd, List.take_left' hn, ← List.drop_drop, hd, List.drop_left' hn]
    exact zero_image_good (imageSize - 64) imageSize

/-! Failures -/

theorem test_witness_FailureEvents :
    (let s := withForeman []
     let s := { s with dev := { s.dev with foreman := { bootedForeman with waiting := [⟨requestOf 0x0020 [], 0⟩] } } }
     s.dev.foreman.booted = true ∧ s.dev.foreman.pairsLost < 2 ∧ s.dev.foreman.waiting ≠ []) ∧
    ((withG []).dev.launches = [(0, probeLaunch)] ∧ holdsStope probeLaunch 0 = true ∧ probeLaunch.stop = none ∧
      probeLaunch.parent = none) ∧
    ((withG []).dev.module.retired.contains 255 = false ∧ (withG []).dev.parts = [(0, probePart)]) ∧
    (let c := { probeContext with dmask := 2 }
     let s := withG []
     let s := { s with dev := { s.dev with ctxs := [(0, c)] } }
     s.dev.lost.getLsbD 1 = false ∧ 1 % 4 ≠ 3 ∧ 1 % 4 ≠ 0 ∧ s.dev.launches = [(0, probeLaunch)] ∧
       probeLaunch.state = .running ∧ metWaits s.dev = [] ∧ probeLaunch.tasks = [(0, probeTask)] ∧
       probeTask.state = .running ∧ s.dev.ctxs.map (·.1) = [probeLaunch.ctx] ∧ ctxAt s.dev 0 = some c ∧
       c.dmask.getLsbD 1 = true ∧
       (s.dev.cores.find? fun e => e.2.run == some ⟨0, 0⟩ && !e.2.leaving).map (·.1) = some 0) := by
  decide

/-! ## Results of single words -/

/-- The results under way after a word, as register and value. -/
def results (i : Instr) (s : State) : List (Nat × Nat) := (live (after i s)).flights.map fun f => (f.num, f.data.toNat)

/-- The values that words on g8 and g9 leave for g7. -/
def valuesOn (a b : Nat) (is : List Instr) : List Nat :=
  is.map fun i => ((results i (withG [(8, a), (9, b)])).headD (0, 0)).2

/-- R217, by hand: −1 and 3. -/
theorem test_integer_1 : valuesOn (2 ^ 64 - 1) 3
    [.add 7 8 9 false false, .sub 7 9 8 false false, .and 7 8 9 false false, .or 7 9 0 false false, .xor 7 8 9 false false,
     .andn 7 8 9 false false, .sll 7 8 9 false false, .srl 7 8 9 false false, .sra 7 8 9 false false,
     .rotl 7 9 8 false false] =
    [2, 4, 3, 3, 2 ^ 64 - 4, 2 ^ 64 - 4, 2 ^ 64 - 8, 2 ^ 61 - 1, 2 ^ 64 - 1, 2 ^ 63 + 1] := by decide

/-- R217, by hand: comparisons, counts and the shifts by a constant of −2 and 5. -/
theorem test_integer_2 : valuesOn (2 ^ 64 - 2) 5
    [.slt 7 8 9 false false, .sltu 7 8 9 false false, .seq 7 8 8 false false, .min 7 8 9 false false, .max 7 8 9 false false,
     .minu 7 8 9 false false, .maxu 7 8 9 false false, .clz 7 9 false, .clz 7 0 false, .popc 7 8 false, .slli 7 9 63 false,
     .srli 7 8 63 false, .srai 7 8 1 false, .rotli 7 9 62 false] =
    [1, 0, 1, 2 ^ 64 - 2, 5, 5, 2 ^ 64 - 2, 61, 64, 63, 2 ^ 63, 1, 2 ^ 64 - 1, 2 ^ 62 + 1] := by decide

/-- R219, by hand: −7 and 2, and the cases that it names. -/
theorem test_multiply_divide_1 : valuesOn (2 ^ 64 - 7) 2
    [.mul 7 8 9 false false, .mulh 7 8 9 false false, .mulhu 7 8 9 false false, .mulhsu 7 8 9 false false,
     .div 7 8 9 false false, .divu 7 8 9 false false, .rem 7 8 9 false false, .remu 7 8 9 false false] =
    [2 ^ 64 - 14, 2 ^ 64 - 1, 1, 2 ^ 64 - 1, 2 ^ 64 - 3, 2 ^ 63 - 4, 2 ^ 64 - 1, 1] := by decide

theorem test_multiply_divide_2 :
    valuesOn 9 0 [.div 7 8 9 false false, .divu 7 8 9 false false, .rem 7 8 9 false false, .remu 7 8 9 false false] =
      [2 ^ 64 - 1, 2 ^ 64 - 1, 9, 9] ∧
    valuesOn (2 ^ 63) (2 ^ 64 - 1) [.div 7 8 9 false false, .rem 7 8 9 false false] = [2 ^ 63, 0] := by decide

/-- R218, R220, by hand. -/
theorem test_constants : valuesOn 0x1111222233334444 0
    [.addi 7 8 false 0x1FFF, .addi 7 0 false 0xFFF, .li 7 3 0x8000, .li 7 1 0x8000, .li 7 0 0xFFFF] =
    [0x1111222233334443, 0xFFF, 2 ^ 63, 2 ^ 64 - 2 ^ 31, 2 ^ 64 - 1] ∧
    results (.lik 8 2 0xABCD) (withG [(8, 0x1111222233334444)]) = [(8, 0x1111ABCD33334444)] := by decide

/-- R221 to R223, R184 and R225 at address 0x64, whose packet starts at 0x60, by hand: a branch back by one packet, and one
not taken; the link is the address after the clause. -/
def at64 : State :=
  let s := withG [(8, 5), (9, 2 ^ 64 - 5), (10, 120)]
  setLive s { live s with pc := 0x64, gpc := 0x40, glink := 0x80 }

def target (i : Instr) : Nat := (live (after i at64)).pc.toNat
theorem test_branches :
    [Instr.bne 8 9 false 0x3FF, .beq 8 9 false 0x3FF, .blt 9 8 false 2, .bge 9 8 false 2, .bltu 8 9 false 1, .bgeu 8 9 false 1].map
      target = [0x54, 0x64, 0x78, 0x64, 0x6C, 0x64] := by decide

/-- R222, R223, by hand: the transfers, the link and the gloss registers. -/
theorem test_jumps :
    target (.jmp 0x1FFFFFF) = 0x54 ∧ target (.jal 3) = 0x84 ∧ results (.jal 3) at64 = [(62, 0x68)] ∧
    target (.jr 10 false) = 120 ∧ results (.jalr 10 10 false) at64 = [(10, 0x68)] ∧ target (.jalr 10 10 false) = 120 ∧
    (live (after (.gset 8 false) at64)).gpc = 5 := by decide

theorem test_call_ret :
    (let c := live (after (.call 7 10 8 false false) at64)
     c.pc = 120 ∧ c.glink = 0x40 ∧ c.gpc = 5 ∧ c.flights.map (fun f => (f.num, f.data.toNat)) = [(7, 0x68)]) ∧
    (let c := live (after (.ret 10 false) at64)
     c.pc = 120 ∧ c.gpc = 0x80) := by decide

/-- R228, by hand: a loop of three packets, 5 trips and an epilogue of 2, after the word at 0x68. -/
theorem test_loop :
    (let s := setLive at64 { live at64 with pc := 0x68 }
     let c := live (after (.loop 3 8 2 false) s)
     c.lstart = 0x6C ∧ c.lend = 0x6C + 36 ∧ c.lgpc = 0x40 ∧ c.lc = 4 ∧ c.ec = 2 ∧ c.active = true) ∧
    (let s := setLive at64 { live at64 with pc := 0x68 }
     let c := live (after (.loop 3 0 2 false) s)
     c.lc = 0 ∧ c.active = false ∧ c.pc = 0x6C + 36) := by decide

/-- R227, by hand. -/
def predicates : State := setLive (withG []) { live (withG []) with p := [(1, 0xC), (2, 0xA)] }

theorem test_predicates :
    ([Instr.pand 3 1 2 false false, .por 3 1 2 false false, .pxor 3 1 2 false false, .pandn 3 1 2 false false, .pnot 3 1 false,
      .pcnt 3 2 false, .pcnt 3 0 false].map fun i => results i predicates) =
    [8, 14, 6, 4, 2 ^ 128 - 13, 2, 128].map fun x => [(3, x)] := by decide +kernel

/-- What an atomic request on the bytes at 0x140 returns, its flags, and the bytes after it. -/
def atomic (fn : AtomFn) (half : Bool) (m x : Nat) : List Nat × Nat × Nat :=
  let d := (withG []).dev
  let n := if half then 4 else 8
  let r := performAtomic { d with mem := writeN d.mem (hbmLoc 0x140) 8 m } 0 (requestAt fn half x 0)
  (r.1.map (·.toNat), r.2.1.toNat, readN r.2.2.mem (hbmLoc 0x140) n)

/-- The table of R243 (a signalling NaN in x sets NV at issue). -/
theorem test_float_minimum :
    atomic .fmin true 0x00000000 0x80000000 = ([0x00000000], 0, 0x80000000) ∧
    atomic .fmin true 0x7FC00001 0x3F800000 = ([0x7FC00001], 0, 0x3F800000) ∧
    atomic .fmin true 0x40000000 0x7FA00000 = ([0x40000000], 0, 0x40000000) ∧
    atomic .fmin true 0x7F800001 0xFFC00000 = ([0x7F800001], flagNV.toNat, 0x7FC00000) ∧
    atomic .fmin true 0x00000001 0x00000000 = ([0x00000001], 0, 0x00000000) := by decide +kernel

/-- R241, R244, by hand. -/
theorem test_atomics :
    atomic .add false (2 ^ 64 - 1) 3 = ([2 ^ 64 - 1], 0, 2) ∧ atomic .min true 5 0xFFFFFFFF = ([5], 0, 0xFFFFFFFF) ∧
    atomic .minu true 5 0xFFFFFFFF = ([5], 0, 5) ∧ atomic .max true 5 0xFFFFFFFF = ([5], 0, 5) ∧
    atomic .swap true 5 9 = ([5], 0, 9) ∧ atomic .fadd true 0x3F800000 0x3F800000 = ([0x3F800000], 0, 0x40000000) := by
  decide +kernel

/-- The worked example of spec/12_core_memory_atomics.md: both enqueues, and the chase, with the list in the page of 0. -/
def enqueue (e : Nat) (d : Dev) : List Dword × Dev :=
  let r := performAtomic d 0 { requestAt .aenq false e 0 with loc2 := hbmLoc e }
  (r.1, r.2.2)

theorem test_enqueue :
    let a := enqueue 0x40 (withG []).dev
    let b := enqueue 0x80 a.2
    a.1 = [0] ∧ b.1 = [0x40] ∧ readN b.2.mem (hbmLoc 0x40) 8 = 0x80 ∧ readN b.2.mem (hbmLoc 0x148) 8 = 0x80 ∧
      readN b.2.mem (hbmLoc 0x140) 8 = 0x40 ∧ readN b.2.mem (hbmLoc 0x80) 8 = 0 := by decide +kernel

theorem test_chase :
    let d := (withG []).dev
    let m := writeN d.mem (hbmLoc 0x140) 8 0x80
    (performAtomic { d with mem := m } 0 (requestAt .apchase false 5 0)).1 = [0x4001000000000080] := by decide +kernel

/-! Vector words -/

def ofLanes (xs : List Nat) : Vec := BitVec.ofNat 1024 (xs.foldr (fun x acc => x + acc * 2 ^ 32) 0)

def withV (vs : List (Nat × List Nat)) (ps : List (Nat × BitVec 128)) : State :=
  setLive (withG []) { live (withG []) with v := vs.map fun e => (e.1, ofLanes e.2), p := ps }

/-- The first n lanes and the flags that a word leaves. -/
def lanesOf (n : Nat) (i : Instr) (s : State) : List Nat × Nat :=
  match (live (after i s)).flights with
  | f :: _ => ((List.range n).map fun k => f.data.toNat / 2 ^ (32 * k) % 2 ^ 32, f.flags.toNat)
  | [] => ([], 0)

/-- R253 to R255, by hand: −1 and 3, with lane 1 inactive. -/
theorem test_vector_integer :
    let s := withV [(1, [0xFFFFFFFF, 7]), (2, [3, 3]), (3, [10, 20])] [(1, 0xF)]
    ([Instr.vadd 3 1 2 false 1, .vsub 3 1 2 false 1, .vmul 3 1 2 false 1, .vmin 3 1 2 false 1, .vmax 3 1 2 false 1,
      .vand 3 1 2 false 1, .vor 3 1 2 false 1, .vxor 3 1 2 false 1, .vshl 3 1 2 false 1, .vshr 3 1 2 false 1,
      .vshra 3 1 2 false 1, .vmad 3 1 2 false 1, .vdot4 3 1 2 false 1, .vperm 3 1 2 false 1].map
        fun i => lanesOf 2 i s) =
      [2, 0xFFFFFFFC, 0xFFFFFFFD, 0xFFFFFFFF, 3, 3, 0xFFFFFFFF, 0xFFFFFFFC, 0xFFFFFFF8, 0x1FFFFFFF, 0xFFFFFFFF, 7, 7,
       0].map (fun x => ([x, 20], 0)) := by decide +kernel

/-- R256 to R258, by hand: 1 and 2^−24, a quotient by zero, the square root of −0, and the minimum of zeros. -/
theorem test_vector_float :
    let s := withV [(1, [0x3F800000, 0x80000000]), (2, [0x33800000, 0]), (3, [0xBF800000, 0xC0000000])] []
    lanesOf 2 (.vfadd 4 1 2 false 0) s = ([0x3F800000, 0], flagNX.toNat) ∧
    lanesOf 2 (.vfdiv 4 3 2 false 0) s = ([0xCB800000, 0xFF800000], (flagDZ ||| flagNV).toNat) ∧
    lanesOf 2 (.vfmin 4 1 2 false 0) s = ([0x33800000, 0x80000000], 0) ∧
    lanesOf 2 (.vfma 3 1 1 false 0) s = ([0, 0xC0000000], 0) ∧
    lanesOf 2 (.vfsqrt 4 1 false 0) s = ([0x3F800000, 0x80000000], 0) ∧
    lanesOf 2 (.vfmul 4 1 3 false 0) s = ([0xBF800000, 0], 0) := by decide +kernel

/-- The worked example of R262. -/
theorem test_quantise :
    lanesOf 5 (.vqnt 5 4 .e2m1 false 0) (withV [(4, [0x40A00000, 0xBFA00000, 0x3E99999A, 0x41400000])] []) =
      ([0x7094, 0, 0, 0, 0x80], (flagNX ||| flagUF).toNat) := by decide +kernel

/-- The example of R263. -/
theorem test_reduce :
    let s := withV [(20, [0x4B800000, 0x3F800000, 0x3F800000, 0x3F800000, 0x3F800000, 0xCB800000])] [(3, 0xFFFFFF)]
    results (.vred 10 20 .fadd false 3) s = [(10, 0x40400000)] ∧ lanesOf 1 (.vred 10 20 .min false 3) s = ([0xCB800000], 0) := by
  decide +kernel

/-- R264, by hand: integral and exact arguments, and 2^0.5 and 1/3 to the nearest. -/
theorem test_functions_1 : [0x40400000, 0xC0000000, 0, 0x7F800000, 0x3F000000].map fpExp2 =
    [(0x41000000, 0), (0x3E800000, 0), (0x3F800000, 0), (0x7F800000, 0), (0x3FB504F3, flagNX)] := by decide +kernel

theorem test_functions_2 :
    [0x41000000, 0x3F800000, 0, 0x7F800000].map fpLog2 =
      [(0x40400000, 0), (0, 0), (0xFF800000, flagDZ), (0x7F800000, 0)] ∧
    [0x41000000, 0x40400000, 0x80000000, 0x7F800000].map fpRcp =
      [(0x3E000000, 0), (0x3EAAAAAB, flagNX), (0xFF800000, flagDZ), (0, 0)] ∧
    [0x40800000, 0xBF800000, 0x7F800000].map fpRsqrt = [(0x3F000000, 0), (0x7FC00000, flagNV), (0, 0)] ∧
    [0x40400000, 0xC0000000, 0x3F000000, 0x7F800000].map fpSinpi =
      [(0, 0), (0x80000000, 0), (0x3F800000, 0), (0x7FC00000, flagNV)] ∧
    [0xFF800000, 0x80000000].map fpTanh = [(0xBF800000, 0), (0x80000000, 0)] := by decide +kernel

/-- R259 and R260, by hand: −2.5 to INT32 in two modes, 1.0 to BF16, and 300 to INT8 with and without saturation. -/
theorem test_convert :
    let s := withV [(1, [0xC0200000, 0x3F800000]), (2, [300])] []
    lanesOf 1 (.vcvt 4 1 (.fixed .rne) .fp32 false 0 .int32) s = ([0xFFFFFFFE], flagNX.toNat) ∧
    lanesOf 1 (.vcvt 4 1 (.fixed .rdn) .fp32 false 0 .int32) s = ([0xFFFFFFFD], flagNX.toNat) ∧
    lanesOf 1 (.vcvt 4 1 (.fixed .rne) .fp32 false 0 .bf16) s = ([0x3F80C020], 0) ∧
    lanesOf 1 (.vcvt 4 2 (.fixed .rne) .int32 false 0 .int8) s = ([44], 0) ∧
    lanesOf 1 (.vcvt 4 2 (.fixed .rne) .int32 true 0 .int8) s = ([127], 0) := by decide +kernel

/-! Worked examples of the spec -/

/-- The example of R133. -/
theorem test_split : splitFp32 0x3F802008 = (0x3F80, 0x3A80, 0x3580) := by decide +kernel

/-- The example of R135. -/
theorem test_tree : treeSum (fun a b => (fpAdd .rne 0 a b).1) 0
    [0x4B800000, 0x3F800000, 0x3F800000, 0x3F800000, 0x3F800000, 0xCB800000] = 0x40400000 := by decide +kernel

/-- The first example of R129: magnitudes 57,344, 2 and 0, with Exp −7. -/
theorem test_planes :
    let b := (planeForm .e4m3 127 (0x7E :: 0x06 :: 0x01 :: List.replicate 29 0) 0).1
    b.planes = [0, 2, 0, 0, 0, 0, 0, 0, 0, 0, 0, 0, 0, 1, 1, 1] ∧ b.entry.exp = -7 ∧ b.entry.top = 15 := by decide +kernel

/-- The example of R298: E is 27 with t0 = 0. -/
theorem test_product_time : productTime 1 128 [[4, 1], [4, 1], [4, 1], [4, 1], [4, 1], [1, 1]] = 27 := by decide

/-- The example of R60 to R67 in spec/03_memory_translation.md. -/
theorem test_translation :
    let e : LttPage := ⟨1, 2, 7, false, false, false, 0, 0, 0x123400000, none⟩
    let c := { probeContext with regions := [(0x4B, ⟨true, 0, 0, true, false, 0, 0x400000⟩)], pages := [(0x4B * 512 + 5, e)] }
    let d := { (withG []).dev with ctxs := [(0, c)],
                                   parts := [(0, { probePart with stage2 := [(0x123400000 / 2 ^ 21, 0xA0C00000 / 2 ^ 21)] })] }
    xlate d probeLaunch 0 .core .read 0x0012C0A01234 = .place (.hbm 0xA0C01234) := by decide

/-- The example of spec/07_deadlines_power.md: the slack under levels 3 and 4 at first, and at level 2 at 20 µs. -/
theorem test_slack :
    let x := { probeLaunch with deadline := some 50000, work := 44032 }
    let y := { probeLaunch with deadline := some 50000, work := 24032 }
    hasSlack 0 x 3 = false ∧ hasSlack 0 x 4 = true ∧ slackNs 20000 y (stopeMhz 2) = some (-4332) := by decide

def waitingLaunch (level gangLog enqueued dl0 : Nat) : Launch :=
  { launchOfRecord 0 0 0 0 { probeRecord with gangLog := gangLog, priority := level } enqueued with dl0 := dl0 }

def beforeAdmission : State :=
  let s := withG []
  let x := { waitingLaunch 3 3 0 0 with state := .running, number := some 0, gang := [8, 9, 10, 11, 12, 13, 14, 15] }
  { s with dev := { s.dev with
      now := 400000, parts := [(0, { probePart with stopes := List.range 16 })],
      launches := [(0, x), (1, waitingLaunch 6 3 100000 900000), (2, waitingLaunch 6 2 200000 500000),
        (3, waitingLaunch 6 2 300000 0), (4, waitingLaunch 9 4 400000 0)] } }

/-- The example of admission in spec/02_execution.md at 400 µs: B is admitted on stopes 0 to 3; D fails once. -/
theorem test_admission :
    let d := (after (.dispatchAdmission 0) beforeAdmission).dev
    (launchAt d 2).map (fun x => (x.state, x.gang)) = some (.running, [0, 1, 2, 3]) ∧
    (launchAt d 4).map (fun x => (x.state, x.failures)) = some (.queued, 1) ∧
    (headOf d 0 6).map (·.1) = some 1 := by decide +kernel

/-- The CRC-32 of IEEE 802.3, at its published check value. -/
theorem test_crc : crc32 [0x31, 0x32, 0x33, 0x34, 0x35, 0x36, 0x37, 0x38, 0x39] = 0xCBF43926 := by decide +kernel

end Sys2Proof.Tests
end

section
/-! SUPPORT. Replies, and the checks that every request meets: one equation for each answer of `serve` (R16, R25, R26),
and the statement on them. -/

namespace Sys2Proof.Machine

/-! ## Replies (R25, R26) -/

/-- A device that differs from another in the replies that have left, or wait, alone. -/
def onlyReplies (d e : Dev) : Prop :=
  e = { d with foreman := { d.foreman with replies := e.foreman.replies, held := e.foreman.held } }

theorem onlyReplies_replyKeyed (d : Dev) (key : Option (List Byte)) (r : Request) (status : Nat) (body : List Byte) :
    onlyReplies d (replyKeyed d key r status body) := by
  unfold onlyReplies replyKeyed
  split <;> rfl

theorem answeredInOrder_replyKeyed (d : Dev) (key : Option (List Byte)) (r : Request) (status : Nat)
    (body : List Byte) :
    answeredInOrder d (replyKeyed d key r status body) r status body := by
  unfold replyKeyed answeredInOrder
  by_cases hw : r.ordered = true ∧ replyWaits d r.partition r.function r.seq = true <;> simp [hw, repliesTo]

/-- The replies that have left, and those that wait. -/
def replyLists (d : Dev) : List Reply × List Reply := (d.foreman.replies, d.foreman.held)

/-- A reply from a device whose replies so far are those of another. -/
theorem answered_replyKeyed {d e : Dev} (h : replyLists e = replyLists d) (key : Option (List Byte)) (r : Request)
    (status : Nat) (body : List Byte) : answered d (replyKeyed e key r status body) r status body := by
  obtain ⟨hr, hh⟩ := Prod.mk.inj h
  unfold replyKeyed answered
  by_cases ho : r.ordered = true
  · by_cases hw : replyWaits e r.partition r.function r.seq = true <;> simp [ho, hw, hr, hh, repliesTo]
  · simp [ho, hr, hh, repliesTo]

@[simp] theorem replyKeyed_mem (d : Dev) (key : Option (List Byte)) (r : Request) (status : Nat) (body : List Byte) :
    (replyKeyed d key r status body).mem = d.mem := by unfold replyKeyed; split <;> rfl
@[simp] theorem replyKeyed_module (d : Dev) (key : Option (List Byte)) (r : Request) (status : Nat) (body : List Byte) :
    (replyKeyed d key r status body).module = d.module := by unfold replyKeyed; split <;> rfl
@[simp] theorem replyKeyed_parts (d : Dev) (key : Option (List Byte)) (r : Request) (status : Nat) (body : List Byte) :
    (replyKeyed d key r status body).parts = d.parts := by unfold replyKeyed; split <;> rfl
@[simp] theorem replyKeyed_ctxs (d : Dev) (key : Option (List Byte)) (r : Request) (status : Nat) (body : List Byte) :
    (replyKeyed d key r status body).ctxs = d.ctxs := by unfold replyKeyed; split <;> rfl
@[simp] theorem replyKeyed_lost (d : Dev) (key : Option (List Byte)) (r : Request) (status : Nat) (body : List Byte) :
    (replyKeyed d key r status body).lost = d.lost := by unfold replyKeyed; split <;> rfl
@[simp] theorem replyKeyed_endpoints (d : Dev) (key : Option (List Byte)) (r : Request) (status : Nat)
    (body : List Byte) : (replyKeyed d key r status body).foreman.endpoints = d.foreman.endpoints := by unfold replyKeyed; split <;> rfl

@[simp] theorem replyTo_eq (d : Dev) (r : Request) (status : Nat) (body : List Byte) :
    replyTo d r status body = replyKeyed d (sessionKey d r) r status body := rfl

@[simp] theorem answer_eq (d : Dev) (r : Request) (status : Nat) :
    answer d r status = replyKeyed d (sessionKey d r) r status [] := rfl

/-! ## The checks (R16, R25) -/

section
variable {d : Dev} {r : Request} (k : Dev)

theorem serve_unbooted (h : d.foreman.booted = false) : serve d r k = d := by simp [serve, h]

theorem serve_noPair (h : d.foreman.booted = true) (hp : 2 ≤ d.foreman.pairsLost) :
    serve d r k = answer d r statusUnavailable := by simp [serve, h, hp]

theorem serve_recovery (h : d.foreman.booted = true) (hp : d.foreman.pairsLost < 2) (hr : d.foreman.recovery = true)
    (ht : recoveryType r = false) : serve d r k = answer d r statusUnavailable := by
  simp [serve, h, Nat.not_le.2 hp, hr, ht]

theorem serve_dropped (h : d.foreman.booted = true) (hp : d.foreman.pairsLost < 2) (hr : d.foreman.recovery = false)
    (he : authExempt r = false) (ha : authHolds d r = false) : serve d r k = dropRequest d := by
  simp [serve, h, Nat.not_le.2 hp, hr, he, ha]

theorem serve_malformed (h : d.foreman.booted = true) (hp : d.foreman.pairsLost < 2) (hr : d.foreman.recovery = false)
    (ha : authExempt r = true ∨ authHolds d r = true) (hb : headerBad r = true) :
    serve d r k = answer d r statusMalformed := by
  have ha : (authExempt r || authHolds d r) = true := by simpa using ha
  simp [serve, h, Nat.not_le.2 hp, hr, ha, hb]

theorem serve_served (h : served d r) : serve d r k = k := by
  obtain ⟨hb, hp, hr, ha, hh⟩ := h
  have ha : (authExempt r || authHolds d r) = true := by simpa using ha
  simp [serve, hb, Nat.not_le.2 hp, hr, ha, hh]

end

theorem next_served {i : Instr} {s : State} {r : Request} {k : Dev} (h : served s.dev r)
    (he : exec i s = .next (setDev s (serve s.dev r k))) : exec i s = .next (setDev s k) := by
  rw [he, serve_served k h]

/-- Every request goes through `serve`, whatever its type does. -/
theorem exec_request {i : Request → Instr} (h : i ∈ requestRows) (r : Request) (s : State) :
    ∃ k, exec (i r) s = .next (setDev s (serve s.dev r k)) := by
  simp only [requestRows, List.mem_cons, List.not_mem_nil, or_false] at h
  rcases h with rfl | rfl | rfl | rfl | rfl | rfl | rfl | rfl | rfl | rfl | rfl | rfl | rfl | rfl | rfl | rfl | rfl |
    rfl | rfl | rfl | rfl <;> exact ⟨_, rfl⟩

/-- Settles O57: every request is `serve` of what its type does, and `serve` answers by its checks in order. -/
theorem requestChecks : Obligations.RequestChecks := by
  intro i hi r s
  obtain ⟨k, hk⟩ := exec_request hi r s
  have hanswer : ∀ status, serve s.dev r k = answer s.dev r status → ∃ t, exec (i r) s = .next t ∧
      answeredInOrder s.dev t.dev r status [] ∧ t = { s with dev := { s.dev with foreman := { s.dev.foreman with
        replies := t.dev.foreman.replies, held := t.dev.foreman.held } } } := by
    intro status h
    refine ⟨_, hk, ?_⟩
    rw [h]
    exact ⟨answeredInOrder_replyKeyed .., congrArg (setDev s) (onlyReplies_replyKeyed ..)⟩
  refine ⟨fun h => ?_, fun h hp => hanswer _ (serve_noPair k h hp),
    fun h hp hr ht => hanswer _ (serve_recovery k h hp hr ht), fun h hp hr he ha => ?_, fun h hp hr ha hb => hanswer _ (serve_malformed k h hp hr ha hb)⟩
  · rw [hk, serve_unbooted k h]; rfl
  · rw [hk, serve_dropped k h hp hr he ha]; rfl

end Sys2Proof.Machine
end

section
/-! SUPPORT. The refutation of the statement on requests in a context. A launch that has been pre-empted and is admitted
again runs with its copies still saved while the scoreboards have no room for them (R330, `restoreQueues`). A
LAUNCH_CANCEL without Force goes through those copies (R331, `abandonSaved`): it keeps the ones that no page pauses,
listed by gang stope and no more by channel. So the cancel changes the launch beyond its `cancel` mark, although no copy
of it is paused. -/

namespace Sys2Proof.Machine

/-! ## The device: a launch whose one saved copy, of channel 1, waits for room -/

def waitingCopy : CopyCmd :=
  { issue := ⟨0, 0, 0, 1, 0, 0, 0, 0, 0, []⟩, ctx := 0, stope := 0, chan := 1, kind := .cpy, desc := [], token := none,
    counter := 0, place := none, queued := true, next := 0, paused := none, flags := 0, carry := [], entry := none }

def readmittedLaunch : Launch := { probeLaunch with saved := [(1, [7])] }

/-- A Foreman that serves the first function of partition 0, in a session under an empty key from address 5. -/
def sessionForeman : Foreman := { foremanReset with booted := true, endpoints := [(0, ⟨[], some [], 5⟩)] }

def readmitted : State :=
  { State.reset with dev := { devReset with
      parts := [(0, probePart)], ctxs := [(0, probeContext)], launches := [(0, readmittedLaunch)],
      copies := [(7, waitingCopy)], foreman := sessionForeman } }

/-- LAUNCH_CANCEL of handle 0 without Force, but for its Auth. -/
def unsignedCancel : Request :=
  { auth := 0, context := 1, length := 16, seq := 7, status := 0, function := 0, partition := 0, type := 0x0032,
    reserved := 0, version := 1, source := 5, ordered := false, body := List.replicate 16 0 }

def cancelOfLaunch : Request :=
  { unsignedCancel with auth := Config.keyedDigest [] (requestHeader unsignedCancel 0 ++ unsignedCancel.body) }

theorem served_cancelOfLaunch : served readmitted.dev cancelOfLaunch := by
  refine ⟨rfl, by decide, rfl, .inr ?_, rfl⟩
  exact Bool.and_eq_true_iff.2 ⟨rfl, beq_self_eq_true cancelOfLaunch.auth⟩

theorem handled_cancelOfLaunch : handled' readmitted.dev cancelOfLaunch 0 readmittedLaunch :=
  ⟨rfl, rfl, probeContext, rfl, rfl, rfl⟩

/-- The launch after the cancel: the copy of channel 1 stands under the key of its gang stope. -/
theorem saved_after_cancel :
    (launchAt (cancelRequest readmitted.dev cancelOfLaunch) 0).map (·.saved) = some [(0, [7])] := by rfl

/-- Refutes O59: LAUNCH_CANCEL without Force of a running launch with no paused copy lists its saved copies anew, where
the statement lets it set the `cancel` mark alone. -/
theorem not_contextRequests : ¬ Obligations.ContextRequests := by
  intro h
  obtain ⟨_, _, _, _, _, onLaunch, _⟩ := h cancelOfLaunch readmitted served_cancelOfLaunch
  obtain ⟨_, _, cancelRunning, _⟩ := onLaunch 0 readmittedLaunch handled_cancelOfLaunch
  obtain ⟨t, y, ht, _, hy, _, _, _, hmark, _⟩ := cancelRunning rfl rfl rfl rfl
  have hdev : t.dev = cancelRequest readmitted.dev cancelOfLaunch := by
    have he : exec (.launchCancel cancelOfLaunch) readmitted =
      .next (setDev readmitted (cancelRequest readmitted.dev cancelOfLaunch)) :=
      congrArg (fun d => Host.Outcome.next (setDev readmitted d)) (serve_served _ served_cancelOfLaunch)
    rw [he] at ht
    cases ht
    rfl
  have hsaved := saved_after_cancel
  rw [← hdev, hy, hmark (by decide)] at hsaved
  exact absurd hsaved (by decide)

end Sys2Proof.Machine
end

section
/-! SUPPORT. What the work on tasks, pages and granules leaves alone: the Foreman, the module record, the lost dies and
the partitions, whole or but for their granules. -/

namespace Sys2Proof.Machine

/-- A fold keeps what each of its steps keeps. -/
theorem foldl_keeps {α β γ : Type} (p : β → γ) {f : β → α → β} (h : ∀ b a, p (f b a) = p b) (l : List α) (b : β) :
    p (l.foldl f b) = p b := by
  induction l generalizing b with
  | nil => rfl
  | cons a r ih => exact (ih (f b a)).trans (h b a)

/-! ## The tables that tasks and pages do not reach -/

/-- The Foreman, the module record, the lost dies and the partitions. -/
def tables (d : Dev) : Foreman × Module × Byte × SMap Partition := (d.foreman, d.module, d.lost, d.parts)

theorem tables_eq_iff {d e : Dev} : tables e = tables d ↔
    e.foreman = d.foreman ∧ e.module = d.module ∧ e.lost = d.lost ∧ e.parts = d.parts := by simp [tables]

@[simp] theorem tables_lateWrite (d : Dev) (ctx : Nat) (cs : List Host.Cell) :
    tables (lateWrite d ctx cs) = tables d := by
  unfold lateWrite
  dsimp only
  split <;> rfl

@[simp] theorem tables_modTask (d : Dev) (l i : Nat) (f : Task → Task) : tables (modTask d l i f) = tables d := rfl

@[simp] theorem tables_setState (d : Dev) (l i : Nat) (st : TaskState) : tables (setState d l i st) = tables d := by
  unfold setState
  split
  · dsimp only
    split <;> simp
  · rfl

@[simp] theorem tables_setReady (d : Dev) (l i : Nat) : tables (setReady d l i) = tables d := by
  unfold setReady
  dsimp only
  split
  · split <;> simp
  · simp

@[simp] theorem tables_readyTask (d : Dev) (l i : Nat) : tables (readyTask d l i) = tables d := by
  unfold readyTask
  dsimp only
  split <;> simp

@[simp] theorem tables_settle (d : Dev) : tables (settle d) = tables d :=
  foldl_keeps (α := Nat × Nat) tables (fun d p => tables_readyTask d p.1 p.2) (metWaits d) d

@[simp] theorem tables_notify (d : Dev) (l i cause : Nat) (info : Dword) :
    tables (notify d l i cause info) = tables d := by
  unfold notify
  split <;> rfl

@[simp] theorem tables_stopLaunch (d : Dev) (l : Nat) (st : Stop) : tables (stopLaunch d l st) = tables d := rfl

@[simp] theorem tables_dropCopy (d : Dev) (n : Nat) (q : CopyCmd) : tables (dropCopy d n q) = tables d := rfl

@[simp] theorem tables_entryDone (d : Dev) (q : CopyCmd) : tables (entryDone d q) = tables d := by
  unfold entryDone
  split <;> rfl

@[simp] theorem tables_stopCopy (d : Dev) (n : Nat) (q : CopyCmd) (cause : Nat) (info : Dword) :
    tables (stopCopy d n q cause info) = tables d := by
  unfold stopCopy
  split <;> simp

@[simp] theorem tables_pageFailed (d : Dev) (ctx page : Nat) : tables (pageFailed d ctx page) = tables d := by
  unfold pageFailed failWaiters
  rw [foldl_keeps tables (fun d q => tables_stopCopy d ..),
    foldl_keeps tables (fun d w => (tables_readyTask ..).trans (tables_modTask d ..))]
  rfl

@[simp] theorem tables_shootContext (d : Dev) (ctx : Nat) (gs ps : List Nat) (fallback : Bool) :
    tables (shootContext d ctx gs ps fallback) = tables d := by
  unfold shootContext
  split
  · rfl
  · exact foldl_keeps tables (fun d n => tables_pageFailed d ..) _ _

@[simp] theorem tables_failStope (d : Dev) (n : Nat) : tables (failStope d n) = tables d := by
  unfold failStope
  refine foldl_keeps tables (fun d e => ?_) _ _
  split <;> rfl

/-! ## What an assignment grants, as granules come and go (R32, R83, R84) -/

/-- What an assignment gives a partition. -/
def granted (p : Partition) : List Nat × List Nat × Bool × BitVec 3 := (p.stopes, p.channels, p.dmode, p.deflt)

/-- The tables, with what each partition is granted for the partitions. -/
def grants (d : Dev) : Foreman × Module × Byte × (Nat → Option (List Nat × List Nat × Bool × BitVec 3)) :=
  (d.foreman, d.module, d.lost, fun n => (partAt d n).map granted)

theorem grants_eq_of_tables {d e : Dev} (h : tables e = tables d) : grants e = grants d := by
  obtain ⟨hf, hm, hl, hp⟩ := tables_eq_iff.1 h
  simp [grants, partAt, hf, hm, hl, hp]

theorem grants_modPart (d : Dev) (part : Nat) (f : Partition → Partition) (h : ∀ p, granted (f p) = granted p) :
    grants { d with parts := mmod d.parts part f } = grants d := by
  have hp : ∀ n, (mfind (mmod d.parts part f) n).map granted = (mfind d.parts n).map granted := by
    intro n
    rw [mfind_mmod]
    split
    · cases mfind d.parts n <;> simp [h]
    · rfl
  simp [grants, partAt, hp]

@[simp] theorem grants_collect (d : Dev) (part : Nat) : grants (collect d part) = grants d :=
  grants_modPart d part _ fun _ => rfl

@[simp] theorem grants_noteShoot (d : Dev) (part first len : Nat) : grants (noteShoot d part first len) = grants d :=
  grants_modPart d part _ fun _ => rfl

@[simp] theorem grants_shootDown (d : Dev) (part : Nat) (gs ps : List Nat) (fallback : Bool) :
    grants (shootDown d part gs ps fallback) = grants d := by
  refine Eq.trans (grants_modPart _ part _ fun _ => rfl) ?_
  rw [foldl_keeps grants (fun d c => grants_eq_of_tables (tables_shootContext d ..)),
    foldl_keeps grants (fun d g => grants_noteShoot d ..)]

@[simp] theorem grants_evictPage (d : Dev) (part : Nat) (p : Partition) (ctx page : Nat) :
    grants (evictPage d part p ctx page) = grants d := by
  unfold evictPage
  split
  · rfl
  · refine Eq.trans (grants_modPart _ part _ fun _ => rfl) ?_
    split <;> simp

@[simp] theorem grants_makeFree (d : Dev) (part : Nat) : grants (makeFree d part).1 = grants d := by
  unfold makeFree
  dsimp only
  split
  · simp
  · split
    · simp
    · split
      · simp
      · split <;> simp

theorem grants_takePart {d : Dev} {part : Nat} {p : Partition} (h : partAt d part = some p) (q : Partition)
    (hq : granted q = granted p) : grants { d with parts := minsert d.parts part q } = grants d := by
  have hp : ∀ n, (mfind (minsert d.parts part q) n).map granted = (mfind d.parts n).map granted := by
    intro n
    rw [mfind_minsert]
    split
    · subst n
      rw [show mfind d.parts part = some p from h, Option.map_some, Option.map_some, hq]
    · rfl
  simp [grants, partAt, hp]

theorem grants_takeFree {d e : Dev} {part g : Nat} (h : takeFree d part = .ok (g, e)) : grants e = grants d := by
  unfold takeFree at h
  have hm := grants_makeFree d part
  split at h
  · cases h
  · next f hf =>
    rw [hf] at hm
    split at h
    · cases h
    · next p q hq =>
      obtain ⟨p', hp', hg⟩ := Option.bind_eq_some_iff.1 hq
      obtain ⟨_, _, heq⟩ := Option.map_eq_some_iff.1 hg
      cases heq
      cases h
      exact Eq.trans (grants_takePart (d := (newName f).2) hp' _ rfl) hm

theorem grants_takeFree_error {d e : Dev} {part : Nat} (h : takeFree d part = .error e) : grants e = grants d := by
  unfold takeFree at h
  have hm := grants_makeFree d part
  split at h
  · next hf => cases h; rwa [hf] at hm
  · next hf =>
    rw [hf] at hm
    split at h
    · cases h; exact hm
    · cases h

@[simp] theorem grants_fillReserve (part n : Nat) (d : Dev) : grants (fillReserve part n d) = grants d := by
  induction n generalizing d with
  | zero => rfl
  | succ n ih =>
    simp only [fillReserve]
    split
    · next h => exact (ih _).trans (Eq.trans (grants_modPart _ part _ fun _ => rfl) (grants_takeFree h))
    · next h => exact grants_takeFree_error h

theorem grants_shootChannels (d : Dev) (part : Nat) (chans : List Nat) (fallback : Bool) :
    grants (shootChannels d part chans fallback) = grants d := by
  unfold shootChannels
  split
  · rfl
  · exact Eq.trans (grants_modPart _ part _ fun _ => rfl) (grants_shootDown ..)

end Sys2Proof.Machine
end

section
/-! SUPPORT. The requests of the package (R14, R17, R18, R20, R28 to R34): what each does once it is served, and the
statement on them. -/

namespace Sys2Proof.Machine

/-! ## Bodies, senders and contexts that pass -/

section
variable {d : Dev} {r : Request}

theorem withBody_good {bad : Bool} (h : bad = false) (k : Dev) : withBody d r bad k = k := by simp [withBody, h]

theorem withOperator_operator (h : isOperator r = true) (k : Dev) : withOperator d r k = k := by simp [withOperator, h]

theorem withContext_owned {n : Nat} {c : Context} (h : owned d r n c) (k : Nat → Context → Dev) :
    withContext d r k = k n c := by
  obtain ⟨hctx, hfind, hown⟩ := h
  rw [withContext, if_neg hctx, hfind]
  exact if_pos hown

end

@[simp] theorem length_natBytes (n x : Nat) : (natBytes n x).length = n := by
  induction n generalizing x with
  | zero => rfl
  | succ n ih => simp [natBytes, ih]

@[simp] theorem length_fit (n : Nat) (bs : List Byte) : (fit n bs).length = n := by simp [fit]

@[simp] theorem setEndpoint_parts (d : Dev) (n : Nat) (e : Option Endpoint) : (setEndpoint d n e).parts = d.parts := rfl
@[simp] theorem setEndpoint_mem (d : Dev) (n : Nat) (e : Option Endpoint) : (setEndpoint d n e).mem = d.mem := rfl
@[simp] theorem replyLists_setEndpoint (d : Dev) (n : Nat) (e : Option Endpoint) :
    replyLists (setEndpoint d n e) = replyLists d := rfl

theorem endpointAt_setEndpoint (d : Dev) (n m : Nat) (e : Option Endpoint) :
    endpointAt (setEndpoint d n e) m = if m = n then e else endpointAt d m := by
  cases e with
  | none => exact mfind_merase ..
  | some e => exact mfind_minsert ..

@[simp] theorem endpointAt_replyKeyed (d : Dev) (key : Option (List Byte)) (r : Request) (status : Nat)
    (body : List Byte) (n : Nat) : endpointAt (replyKeyed d key r status body) n = endpointAt d n := by
  simp [endpointAt]

/-! ## IDENTIFY, ATTEST, FIRMWARE_LOAD, SESSION_OPEN (R28 to R31) -/

section
variable {r : Request} {s : State}

theorem identify_answers (h : served s.dev r) (hb : r.body = []) :
    ∃ t, exec (.identify r) s = .next t ∧ answered s.dev t.dev r 0 (identifyBody s.dev) ∧ t.dev.mem = s.dev.mem ∧
      t.dev.module = s.dev.module := by
  refine ⟨_, next_served h rfl, ?_⟩
  rw [withBody_good (by simp [hb])]
  exact ⟨answered_replyKeyed rfl .., by simp, by simp⟩

theorem length_quoteBytes (d : Dev) (hb : r.body.length = 40) : (quoteBytes d r).length = 224 := by
  simp [quoteBytes, hb]

theorem attest_answers (h : served s.dev r) (hb : attestBad r = false) :
    ∃ t b, exec (.attest r) s = .next t ∧ answered s.dev t.dev r 0 b ∧ b.take 224 = quoteBytes s.dev r ∧
      b.length = 4851 ∧ t.dev.mem = s.dev.mem := by
  have hlen : r.body.length = 40 := by
    simp only [attestBad, Bool.or_eq_false_iff] at hb
    simpa using hb.1.1
  have hq := length_quoteBytes s.dev hlen
  have hk := next_served (i := .attest r) h rfl
  rw [withBody_good hb] at hk
  exact ⟨_, _, hk, answered_replyKeyed rfl .., List.take_left' hq, by simp [hq], by simp⟩

theorem firmwareLoad_answers (h : served s.dev r) (ho : isOperator r = true) (hb : firmwareBad r = false) :
    ∃ t, exec (.firmwareLoad r) s = .next t ∧ answered s.dev t.dev r (if imageHolds r.body then 0 else 2) [] ∧
      t.dev.module = if imageHolds r.body then { s.dev.module with image := r.body } else s.dev.module := by
  refine ⟨_, next_served h rfl, ?_⟩
  rw [withOperator_operator ho, withBody_good hb]
  unfold loadFirmware
  cases imageHolds r.body <;> exact ⟨answered_replyKeyed rfl .., by simp⟩

/-- A session binds a key and the sender's address to the endpoint, and answers under that key. -/
theorem openSession_binds (d : Dev) (r : Request) (n : Nat) (e : Endpoint) : ∃ key body, openSession d r n e =
    replyKeyed (setEndpoint (newName d).2 n (some { e with key := some key, address := r.source })) (some key) r
      statusOk body := ⟨_, _, rfl⟩

theorem sessionOpen_answers {n : Nat} {e : Endpoint} (h : served s.dev r) (hb : r.body.length = 8819)
    (hn : endpointOf r = some n) (he : endpointAt s.dev n = some e) :
    ∃ t e' b, exec (.sessionOpen r) s = .next t ∧ answered s.dev t.dev r (if sessionHolds r e then 0 else 2) b ∧
      endpointAt t.dev n = some e' ∧ e'.digest = e.digest ∧
      (if sessionHolds r e then e'.address = r.source ∧ e'.key ≠ none else e' = e) ∧
      ∀ m, m ≠ n → endpointAt t.dev m = endpointAt s.dev m := by
  have hk := next_served (i := .sessionOpen r) h rfl
  rw [withBody_good (by simp [hb]), hn, Option.bind_some, he] at hk
  by_cases hs : sessionHolds r e = true
  · obtain ⟨key, body, hopen⟩ := openSession_binds s.dev r n e
    simp only [hs, if_true, hopen, Option.map_some] at hk ⊢
    refine ⟨_, { e with key := some key, address := r.source }, body, hk, answered_replyKeyed rfl .., ?_, rfl,
      ⟨rfl, nofun⟩, fun m hm => ?_⟩
    · simp [endpointAt_setEndpoint]
    · rw [setDev_dev, endpointAt_replyKeyed, endpointAt_setEndpoint, if_neg hm]
      rfl
  · simp only [hs, Option.map_some] at hk ⊢
    exact ⟨_, e, [], hk, answered_replyKeyed rfl .., by simpa using he, rfl, rfl, fun m _ => by simp⟩

end

/-! ## PARTITION_ASSIGN (R18, R20, R32) -/

theorem grants_repairSites (ss : List Nat) (d : Dev) : grants (repairSites ss d).2 = grants d := by
  induction ss generalizing d with
  | nil => rfl
  | cons s r ih =>
    unfold repairSites
    dsimp only
    split
    · exact ih d
    · split
      · split
        · exact ih _
        · exact ih d
      · exact ih d

theorem replyLists_eq_of_grants {d e : Dev} (h : grants e = grants d) : replyLists e = replyLists d :=
  congrArg (fun g => (g.1.replies, g.1.held)) h

theorem foreman_scrubStopes (ss : List Nat) (d : Dev) : (ss.foldl scrubStope d).foreman = d.foreman :=
  foldl_keeps Dev.foreman (f := scrubStope) (fun _ _ => rfl) ss d

theorem parts_scrubStopes (ss : List Nat) (d : Dev) : (ss.foldl scrubStope d).parts = d.parts :=
  foldl_keeps Dev.parts (f := scrubStope) (fun _ _ => rfl) ss d

theorem replyLists_configure (d : Dev) (part : Nat) (r : Request) (stopes : List Nat) :
    replyLists (configure d part r stopes) = replyLists d := by
  unfold configure
  dsimp only
  rw [replyLists_eq_of_grants (grants_fillReserve ..), foldl_keeps replyLists (fun d f => replyLists_setEndpoint d ..)]
  simp only [replyLists, foreman_scrubStopes]
  exact replyLists_eq_of_grants (grants_shootChannels (dropWindows d part) ..)

/-- A partition that is configured has the stopes, and what the request grants. -/
theorem granted_configure (d : Dev) (part : Nat) (r : Request) (stopes : List Nat) :
    (partAt (configure d part r stopes) part).map granted =
      some (stopes, grantedChannels r, byteAt r.body 2 == 1, BitVec.ofNat 3 (byteAt r.body 3)) := by
  have parts_of_grants : ∀ {d e : Dev}, grants e = grants d →
      (partAt e part).map granted = (partAt d part).map granted := fun h => congrArg (fun g => g.2.2.2 part) h
  unfold configure
  dsimp only
  rw [parts_of_grants (grants_fillReserve ..)]
  unfold partAt
  rw [foldl_keeps Dev.parts (fun d f => setEndpoint_parts d ..)]
  simp only [parts_scrubStopes, mfind_minsert_self]
  rfl

section
variable {r : Request} {s : State}

theorem partitionAssign_answers {part : Nat} {ss : List Nat} {d : Dev} (h : served s.dev r) (ho : isOperator r = true)
    (hb : assignBad r = false) (hpart : part = byteAt r.body 0) (hbusy : partBusy s.dev part = false)
    (hleft : partLeft s.dev part = false) (hclash : assignClash s.dev part r = false)
    (hsites : repairSites (chooseStopes s.dev part (byteAt r.body 1)) s.dev = (ss, d)) (hss : ss ≠ []) :
    ∃ t p, exec (.partitionAssign r) s = .next t ∧ answered s.dev t.dev r 0 (natBytes 8 ss.length) ∧
      partAt t.dev part = some p ∧ p.stopes = ss ∧ p.channels = grantedChannels r ∧ p.dmode = (byteAt r.body 2 == 1) ∧
      p.deflt.toNat = byteAt r.body 3 := by
  have hassign : assign s.dev r = replyTo (configure d part r ss) r statusOk (natBytes 8 ss.length) := by
    simp [assign, ← hpart, hbusy, hleft, hclash, hsites, hss]
  have hd : grants d = grants s.dev := by
    simpa [hsites] using grants_repairSites (chooseStopes s.dev part (byteAt r.body 1)) s.dev
  obtain ⟨p, hp, hg⟩ := Option.map_eq_some_iff.1 (granted_configure d part r ss)
  obtain ⟨hst, hch, hdm, hdf⟩ : p.stopes = ss ∧ p.channels = grantedChannels r ∧ p.dmode = (byteAt r.body 2 == 1) ∧
      p.deflt = BitVec.ofNat 3 (byteAt r.body 3) := by simpa [granted] using hg
  have hlow : byteAt r.body 3 < 8 := by
    simp only [assignBad, Bool.or_eq_false_iff, decide_eq_false_iff_not] at hb
    omega
  have hk := next_served (i := .partitionAssign r) h rfl
  rw [withOperator_operator ho, withBody_good hb, hassign, replyTo_eq] at hk
  refine ⟨_, p, hk, answered_replyKeyed ((replyLists_configure ..).trans (replyLists_eq_of_grants hd)) .., ?_, hst, hch,
    hdm, ?_⟩
  · simpa [partAt] using hp
  · rw [hdf, BitVec.toNat_ofNat, Nat.mod_eq_of_lt hlow]

end

/-! ## PARTITION_RELEASE (R32, R82) -/

/-- A stope that is scrubbed reads zero, and no scrub makes another byte nonzero. -/
theorem readByte_scrubStope (d : Dev) (s a : Nat) :
    readByte (scrubStope d s).mem a = if vaultLoc s 0 ≤ a ∧ a < vaultLoc s 0 + 0xD80000 then 0 else readByte d.mem a :=
  readByte_scrub ..

theorem readByte_scrubStopes {st : Nat} {ss : List Nat} (h : st ∈ ss) {o : Nat} (ho : o < 0xD80000) (d : Dev) :
    readByte (ss.foldl scrubStope d).mem (vaultLoc st o) = 0 := by
  have stays : ∀ (ss : List Nat) (d : Dev), readByte d.mem (vaultLoc st o) = 0 →
      readByte (ss.foldl scrubStope d).mem (vaultLoc st o) = 0 := by
    intro ss
    induction ss with
    | nil => exact fun d hd => hd
    | cons s r ih =>
      intro d hd
      refine ih _ ?_
      rw [readByte_scrubStope, hd, ite_self]
  induction ss generalizing d with
  | nil => cases h
  | cons s r ih =>
    rcases List.mem_cons.1 h with rfl | hr
    · refine stays r _ ?_
      rw [readByte_scrubStope, if_pos (by unfold vaultLoc; omega)]
    · exact ih hr _

/-- The sessions of a partition's functions end. -/
@[irreducible] def closeEndpoints (d : Dev) (part : Nat) : Dev :=
  (List.range 8).foldl (fun d f => setEndpoint d (8 * part + f) none) d

@[simp] theorem replyLists_closeEndpoints (d : Dev) (part : Nat) :
    replyLists (closeEndpoints d part) = replyLists d := by
  unfold closeEndpoints
  exact foldl_keeps replyLists (fun d _ => replyLists_setEndpoint d ..) ..

@[simp] theorem mem_closeEndpoints (d : Dev) (part : Nat) : (closeEndpoints d part).mem = d.mem := by
  unfold closeEndpoints
  exact foldl_keeps Dev.mem (fun d _ => setEndpoint_mem d ..) ..

theorem endpointAt_closeEndpoints (d : Dev) (part : Nat) {f : Nat} (hf : f < 8) :
    endpointAt (closeEndpoints d part) (8 * part + f) = none := by
  have closed : ∀ (ns : List Nat) (d : Dev), f ∈ ns ∨ endpointAt d (8 * part + f) = none →
      endpointAt (ns.foldl (fun d f => setEndpoint d (8 * part + f) none) d) (8 * part + f) = none := by
    intro ns
    induction ns with
    | nil => exact fun d hd => hd.resolve_left List.not_mem_nil
    | cons g r ih =>
      intro d hd
      refine ih _ ?_
      rw [endpointAt_setEndpoint]
      by_cases hg : f = g
      · exact .inr (if_pos (by rw [hg]))
      · exact hd.imp (fun h => (List.mem_cons.1 h).resolve_left hg) fun h => by rw [h, ite_self]
  unfold closeEndpoints
  exact closed _ d (.inl (List.mem_range.2 hf))

section
variable {d : Dev} {part : Nat} {p : Partition}

theorem endPartition_eq (hp : partAt d part = some p) (hc : contextsOf d part = []) :
    endPartition d part =
      let e := dropWindows (closeEndpoints (p.stopes.foldl scrubStope d) part) part
      { e with parts := merase e.parts part, agents := e.agents.filter fun e => e.1 / 8 != part } := by
  simp only [endPartition, hc, List.foldl_nil, hp, closeEndpoints]

theorem partAt_endPartition (hp : partAt d part = some p) (hc : contextsOf d part = []) :
    partAt (endPartition d part) part = none := by
  rw [endPartition_eq hp hc]
  exact mfind_merase_self ..

theorem replyLists_endPartition (hp : partAt d part = some p) (hc : contextsOf d part = []) :
    replyLists (endPartition d part) = replyLists d := by
  rw [endPartition_eq hp hc]
  have h := replyLists_closeEndpoints (p.stopes.foldl scrubStope d) part
  simp only [replyLists, foreman_scrubStopes] at h
  exact h

theorem mem_endPartition (hp : partAt d part = some p) (hc : contextsOf d part = []) :
    (endPartition d part).mem = (p.stopes.foldl scrubStope d).mem := by
  rw [endPartition_eq hp hc]
  exact mem_closeEndpoints (p.stopes.foldl scrubStope d) part

theorem endpointAt_endPartition (hp : partAt d part = some p) (hc : contextsOf d part = []) {f : Nat} (hf : f < 8) :
    endpointAt (endPartition d part) (8 * part + f) = none := by
  rw [endPartition_eq hp hc]
  exact endpointAt_closeEndpoints (p.stopes.foldl scrubStope d) part hf

end

section
variable {r : Request} {s : State}

theorem replyLists_await (d : Dev) (q : Request) : replyLists (await d q) = replyLists d := rfl
theorem replyLists_noLonger (d : Dev) (w : Waiting) : replyLists (noLonger d w) = replyLists d := rfl

/-- A release that waits alone, of a partition without contexts, is carried out at once. -/
theorem serveWaiting_release {d : Dev} {part : Nat} (ht : r.type = 0x0011) (hpart : part = byteAt r.body 0)
    (hc : contextsOf d part = []) (hw : d.foreman.waiting = []) :
    serveWaiting (await d r) = answer (noLonger (endPartition (await d r) part) ⟨r, d.issues⟩) r statusOk := by
  have hc' : contextsOf (await d r) part = [] := hc
  have hw' : (await d r).foreman.waiting = [⟨r, d.issues⟩] := by simp [await, hw]
  simp [serveWaiting, hw', usesMemory, isTableLoad, carryOn, releasePart, ht, ← hpart, hc']

theorem partitionRelease_answers {part : Nat} {p : Partition} (h : served s.dev r) (ho : isOperator r = true)
    (hb : r.body.length = 8) (hz : nonzeroIn r.body 1 7 = false) (hpart : part = byteAt r.body 0) (ht : r.type = 0x0011)
    (hp : partAt s.dev part = some p) (hc : contextsOf s.dev part = []) (hw : s.dev.foreman.waiting = []) :
    ∃ t, exec (.partitionRelease r) s = .next t ∧ answered s.dev t.dev r 0 [] ∧ partAt t.dev part = none ∧
      (∀ f, f < 8 → endpointAt t.dev (8 * part + f) = none) ∧
      ∀ st ∈ p.stopes, ∀ o, o < 0xD80000 → readByte t.dev.mem (vaultLoc st o) = 0 := by
  have hbad : releaseBad s.dev r = false := by simp [releaseBad, hb, hz, ← hpart, hp]
  have hp' : partAt (await s.dev r) part = some p := hp
  have hc' : contextsOf (await s.dev r) part = [] := hc
  have hk := next_served (i := .partitionRelease r) h rfl
  rw [withOperator_operator ho, withBody_good hbad, serveWaiting_release ht hpart hc hw, answer_eq] at hk
  have hrep : replyLists (noLonger (endPartition (await s.dev r) part) ⟨r, s.dev.issues⟩) = replyLists s.dev := by
    rw [replyLists_noLonger, replyLists_endPartition hp' hc', replyLists_await]
  refine ⟨_, hk, answered_replyKeyed hrep .., ?_, fun f hf => ?_, fun st hst o hlt => ?_⟩
  · simpa [partAt, noLonger] using partAt_endPartition hp' hc'
  · simpa [endpointAt, noLonger] using endpointAt_endPartition hp' hc' hf
  · rw [setDev_dev, replyKeyed_mem, noLonger, mem_endPartition hp' hc']
    exact readByte_scrubStopes hst hlt _

/-! ## TELEMETRY (R34) -/

theorem telemetryStatus_answers {who : Nat} (h : served s.dev r) (hb : telemetryBad r = false)
    (hop : fieldAt r.body 0 4 = 0) (hother : othersContext s.dev r = false) (hwho : endpointOf r = some who) :
    ∃ t b, exec (.telemetryStatus r) s = .next t ∧ answered s.dev t.dev r 0 b ∧ b.take 8 = natBytes 8 s.dev.now ∧
      (b.drop 8).take 3 = natBytes 1 s.dev.power.grant.toNat ++ natBytes 1 s.dev.power.level.toNat ++
        natBytes 1 s.dev.power.fb.toNat ∧ t.dev.mem = s.dev.mem := by
  have htel : telemetry s.dev r = telemetryStatus s.dev r who := by
    simp [telemetry, withBody_good hb, hop, hwho, hother]
  have hk := next_served (i := .telemetryStatus r) h rfl
  rw [htel, telemetryStatus] at hk
  refine ⟨_, _, hk, answered_replyKeyed rfl .., ?_, ?_, by simp⟩
  · simp only [List.append_assoc]
    exact List.take_left' (length_natBytes ..)
  · simp only [List.append_assoc]
    rw [List.drop_left' (length_natBytes ..)]
    rfl

theorem withSampled_owned {n : Nat} {c : Context} (ho : isOperator r = false) (hown : owned s.dev r n c)
    (k : Nat → Context → Dev) : withSampled s.dev r k = k n c := by
  simp [withSampled, ho, withContext_owned hown]

theorem ctxAt_modCtx {d : Dev} {n : Nat} {c : Context} (hc : ctxAt d n = some c) (f : Context → Context) :
    ctxAt (modCtx d n f) n = some (f c) := by
  unfold ctxAt at hc
  simp [ctxAt, modCtx, mfind_mmod, hc]

@[simp] theorem ctxAt_replyKeyed (d : Dev) (key : Option (List Byte)) (q : Request) (status : Nat) (body : List Byte)
    (n : Nat) : ctxAt (replyKeyed d key q status body) n = ctxAt d n := by simp [ctxAt]

/-- A request that starts or stops the sampling of a context is answered, and the context samples at the exponent. -/
theorem setSampling_answers {n k : Nat} {c : Context} (hc : ctxAt s.dev n = some c) :
    answered s.dev (setSampling s.dev r n k) r 0 [] ∧
      ∃ c' q, ctxAt (setSampling s.dev r n k) n = some c' ∧ c'.sampling = some q ∧ q.k = k := by
  refine ⟨answered_replyKeyed rfl .., ?_⟩
  unfold setSampling
  rw [answer_eq, ctxAt_replyKeyed, ctxAt_modCtx hc]
  cases hs : c.sampling <;> exact ⟨_, _, rfl, rfl, rfl⟩

theorem telemetrySampling_answers {n : Nat} {c : Context} (h : served s.dev r) (hb : telemetryBad r = false)
    (ho : isOperator r = false) (hown : owned s.dev r n c) (hc : ctxAt s.dev n = some c) :
    (fieldAt r.body 0 4 = 1 → ∃ t c' q, exec (.telemetryStartSampling r) s = .next t ∧ answered s.dev t.dev r 0 [] ∧
      ctxAt t.dev n = some c' ∧ c'.sampling = some q ∧ q.k = byteAt r.body 8) ∧
    (fieldAt r.body 0 4 = 2 → ∃ t c' q, exec (.telemetryStopSampling r) s = .next t ∧ answered s.dev t.dev r 0 [] ∧
      ctxAt t.dev n = some c' ∧ c'.sampling = some q ∧ q.k = 0) ∧
    (∀ q, fieldAt r.body 0 4 = 3 → c.sampling = some q → ∃ t c', exec (.telemetryDrainSamples r) s = .next t ∧
      answered s.dev t.dev r 0 (natBytes 8 (q.ring.take 32767).length ++ natBytes 8 q.dropped ++
        (q.ring.take 32767).flatMap (fit 32)) ∧
      ctxAt t.dev n = some c' ∧ c'.sampling = some { q with ring := q.ring.drop 32767, dropped := 0 }) := by
  refine ⟨fun hop => ?_, fun hop => ?_, fun q hop hq => ?_⟩
  · have htel : telemetry s.dev r = setSampling s.dev r n (byteAt r.body 8) := by
      simp only [telemetry, withBody_good hb, hop, withSampled_owned ho hown]
    obtain ⟨ha, c', q, hc', hq, hk⟩ := setSampling_answers (r := r) (k := byteAt r.body 8) hc
    exact ⟨_, c', q, next_served h rfl, by rwa [htel], by rwa [htel], hq, hk⟩
  · have htel : telemetry s.dev r = setSampling s.dev r n 0 := by
      simp only [telemetry, withBody_good hb, hop, withSampled_owned ho hown]
    obtain ⟨ha, c', q, hc', hq, hk⟩ := setSampling_answers (r := r) (k := 0) hc
    exact ⟨_, c', q, next_served h rfl, by rwa [htel], by rwa [htel], hq, hk⟩
  · have htel : telemetry s.dev r = drainSamples s.dev r n c := by
      simp only [telemetry, withBody_good hb, hop, withSampled_owned ho hown]
    have hk := next_served (i := .telemetryDrainSamples r) h rfl
    rw [htel, drainSamples, hq] at hk
    exact ⟨_, _, hk, answered_replyKeyed rfl .., by rw [setDev_dev, replyTo_eq, ctxAt_replyKeyed, ctxAt_modCtx hc], rfl⟩

end

theorem unsupportedPacket_counts (m : UetMode) (s : State) (h : s.dev.foreman.booted = true) :
    exec (.unsupportedPacket m) s = .next (setDev s { s.dev with foreman := { s.dev.foreman with
      unsupported := s.dev.foreman.unsupported + 1 } }) :=
  congrArg (fun d => Host.Outcome.next (setDev s d)) (if_pos h)

/-- Settles O58, request by request. -/
theorem packageRequests : Obligations.PackageRequests := by
  refine ⟨fun r s h => ⟨identify_answers h, attest_answers h, firmwareLoad_answers h, fun n e => sessionOpen_answers h,
    fun part ss d => partitionAssign_answers h, fun part p => partitionRelease_answers h,
    fun who => telemetryStatus_answers h, fun n c => telemetrySampling_answers h⟩, unsupportedPacket_counts⟩

end Sys2Proof.Machine
end

section
/-! SUPPORT. Boot, takeover, and the loss of stopes, channels and dies (R15, R16, R21 to R24, R85, R86), and the
statement on them. -/

namespace Sys2Proof.Machine

/-! ## The log (R34) -/

/-- A device but for the entries of its telemetry log. -/
def unlogged (d : Dev) : Dev := { d with foreman := { d.foreman with logs := [] } }

theorem unlogged_addLog (d : Dev) (kind part : Nat) (bs : List Byte) :
    unlogged (addLog d kind part bs) = unlogged d := rfl

theorem unlogged_logAffected (d : Dev) (part : Nat) (p : Partition) (chan : Nat) :
    unlogged (logAffected d part p chan) = unlogged d := by
  unfold logAffected
  refine foldl_keeps unlogged (fun d k => ?_) _ _
  split
  · exact foldl_keeps unlogged (fun d q => unlogged_addLog d ..) _ _
  · rfl

/-! ## Boot (R16) -/

/-- The dies that fail their test stay in reset; their log entries are all that is new beside the sites and ports. -/
theorem unlogged_releaseDies (d : Dev) (failed : Byte) : unlogged (releaseDies d failed) =
    unlogged { d with
      sites := bootSites d.module, ports := bootPorts d.module, lost := failed &&& ~~~(dieBit 3),
      foreman := { d.foreman with pairsLost := ((failed &&& ~~~(dieBit 3)).getLsbD 7).toNat } } :=
  foldl_keeps unlogged (fun d _ => unlogged_addLog d ..) _ _

/-- A boot answers by its two checks: of the module record and the seed, and of the image. -/
theorem bootDevice_eq (d : Dev) (failed : Byte) : bootDevice d failed =
    if Config.seedDerived (d.boots + 1) && Config.signatureHolds Config.lumturKey d.module.digest d.module.sign then
      (if imageHolds d.module.image then startForeman else recover) (releaseDies (coldDevice d) failed)
    else recover (coldDevice d) := by
  unfold bootDevice
  dsimp only
  rw [show (coldDevice d).boots = d.boots + 1 from rfl]
  cases Config.seedDerived (d.boots + 1) <;>
    cases Config.signatureHolds Config.lumturKey d.module.digest d.module.sign <;>
      cases imageHolds d.module.image <;> rfl

/-- A device that has booted as far as its module record allows: nothing runs, and no endpoint is registered. -/
structure Bare (d e : Dev) (lost : Byte) : Prop where
  mem : e.mem = []
  now : e.now = 0
  launches : e.launches = []
  parts : e.parts = []
  ctxs : e.ctxs = []
  module : e.module = d.module
  lost : e.lost = lost
  endpoints : e.foreman.endpoints = []
  recovery : e.foreman.recovery = false

theorem bare_coldDevice (d : Dev) : Bare d (coldDevice d) 0 := ⟨rfl, rfl, rfl, rfl, rfl, rfl, rfl, rfl, rfl⟩

theorem bare_releaseDies (d : Dev) (failed : Byte) :
    Bare d (releaseDies (coldDevice d) failed) (failed &&& ~~~8#8) := by
  have hu := unlogged_releaseDies (coldDevice d) failed
  exact ⟨congrArg Dev.mem hu, congrArg Dev.now hu, congrArg Dev.launches hu, congrArg Dev.parts hu,
    congrArg Dev.ctxs hu, (congrArg Dev.module hu :), congrArg Dev.lost hu, congrArg (fun d => d.foreman.endpoints) hu,
    congrArg (fun d => d.foreman.recovery) hu⟩

theorem boot_starts (failed : BitVec 8) (s : State) :
    let record := Config.seedDerived (s.dev.boots + 1) &&
      Config.signatureHolds Config.lumturKey s.dev.module.digest s.dev.module.sign
    ∃ t, exec (.boot failed) s = .next t ∧ t.dev.foreman.booted = true ∧
      t.dev.mem = [] ∧ t.dev.now = 0 ∧ t.dev.launches = [] ∧ t.dev.parts = [] ∧ t.dev.ctxs = [] ∧
      t.dev.module = s.dev.module ∧ t.dev.foreman.recovery = !(record && imageHolds s.dev.module.image) ∧
      (if record then t.dev.lost = failed &&& ~~~8#8 else t.dev.lost = 0) ∧
      (if record && imageHolds s.dev.module.image then
        ∃ e, endpointAt t.dev operatorEnd = some e ∧ e.digest = s.dev.module.operator
       else endpointAt t.dev operatorEnd = none) := by
  dsimp only
  refine ⟨_, rfl, ?_⟩
  rw [bootDevice_eq]
  generalize (Config.seedDerived (s.dev.boots + 1) &&
    Config.signatureHolds Config.lumturKey s.dev.module.digest s.dev.module.sign) = record
  have hc := bare_coldDevice s.dev
  have hb := bare_releaseDies s.dev failed
  cases record
  · refine ⟨rfl, hc.mem, hc.now, hc.launches, hc.parts, hc.ctxs, hc.module, rfl, hc.lost, ?_⟩
    simp [endpointAt, recover, hc.endpoints]
  · cases imageHolds s.dev.module.image
    · refine ⟨rfl, hb.mem, hb.now, hb.launches, hb.parts, hb.ctxs, hb.module, rfl, hb.lost, ?_⟩
      simp [endpointAt, recover, hb.endpoints]
    · refine ⟨rfl, hb.mem, hb.now, hb.launches, hb.parts, hb.ctxs, hb.module, hb.recovery, hb.lost, ?_⟩
      simp [endpointAt, startForeman, hb.module]

/-! ## Takeover (R15) -/

theorem onlyReplies.trans {d e f : Dev} (hde : onlyReplies d e) (hef : onlyReplies e f) : onlyReplies d f := by
  unfold onlyReplies at *
  rw [hef, hde]

/-- Answers to requests in order: one reply to each, which has left or waits, and nothing else changes. -/
theorem answers_all (status : Nat) (rs : List Request) (d : Dev) :
    onlyReplies d (rs.foldl (fun d r => answer d r status) d) ∧
      ∃ ys : List Reply, ys.length = rs.length ∧ (∀ r ∈ rs, ∃ y ∈ ys, repliesTo y r status []) ∧
        ((rs.foldl (fun d r => answer d r status) d).foreman.replies ++
          (rs.foldl (fun d r => answer d r status) d).foreman.held).Perm
            (d.foreman.replies ++ d.foreman.held ++ ys) := by
  induction rs generalizing d with
  | nil => exact ⟨rfl, [], rfl, nofun, by simp⟩
  | cons r rs ih =>
    obtain ⟨honly, ys, hlen, hys, hperm⟩ := ih (answer d r status)
    obtain ⟨y, hy, hlists⟩ := answered_replyKeyed (rfl : replyLists d = replyLists d) (sessionKey d r) r status []
    refine ⟨?_, y :: ys, congrArg (· + 1) hlen, fun q hq => ?_, hperm.trans ?_⟩
    · exact (onlyReplies_replyKeyed d (sessionKey d r) r status []).trans honly
    · rcases List.mem_cons.1 hq with rfl | hq
      · exact ⟨y, List.mem_cons_self, hy⟩
      · obtain ⟨z, hz, hzq⟩ := hys q hq
        exact ⟨z, List.mem_cons_of_mem y hz, hzq⟩
    · rw [answer_eq]
      rcases hlists with ⟨hr, hh⟩ | ⟨_, hr, hh⟩ <;> rw [hr, hh]
      · simp only [List.append_assoc, List.singleton_append]
        exact List.Perm.append_left _ List.perm_middle.symm
      · rw [List.append_assoc, List.append_assoc, List.append_assoc, List.singleton_append]

/-- The requests that wait: for a state, for the end of a launch, and for a table to be installed. -/
def waitingRequests (d : Dev) : List Request :=
  d.foreman.waiting.map (·.req) ++ (d.launches.flatMap fun e => e.2.waiters) ++
    d.ctxs.filterMap fun e => e.2.pending.map (·.req)

/-- A device in which no request waits any more. -/
def noneWaits (d : Dev) : Dev :=
  { d with foreman := { d.foreman with waiting := [] },
           launches := d.launches.map fun e => (e.1, { e.2 with waiters := [] }),
           ctxs := d.ctxs.map fun e => (e.1, { e.2 with pending := none }) }

theorem waiters_noneWaits (d : Dev) : ∀ e ∈ (noneWaits d).launches, e.2.waiters = [] :=
  List.forall_mem_map.2 fun _ _ => rfl

theorem pending_noneWaits (d : Dev) : ∀ e ∈ (noneWaits d).ctxs, e.2.pending = none :=
  List.forall_mem_map.2 fun _ _ => rfl

theorem answerWaiting_eq (d : Dev) (status : Nat) :
    answerWaiting d status = noneWaits ((waitingRequests d).foldl (fun d r => answer d r status) d) := rfl

/-- The device of a takeover before it answers: the loss of the pair is counted, and logged. -/
def pairStopped (d : Dev) : Dev :=
  { d with foreman := { d.foreman with
      logs := d.foreman.logs ++ [⟨d.now, 9, noPart, detail [activePair d]⟩], pairsLost := d.foreman.pairsLost + 1 } }

theorem takeover_eq {d : Dev} (hb : d.foreman.booted = true) (hp : d.foreman.pairsLost < 2) : takeover d =
    answerWaiting (pairStopped d) (if d.foreman.pairsLost = 0 then 1 else 3) := by
  have hstatus : (if d.foreman.pairsLost + 1 < 2 then statusRetry else statusUnavailable) =
      if d.foreman.pairsLost = 0 then 1 else 3 := by
    by_cases h : d.foreman.pairsLost = 0
    · rw [if_pos h, if_pos (by omega)]; rfl
    · rw [if_neg h, if_neg (by omega)]; rfl
  unfold takeover
  dsimp only
  rw [if_neg (by simp [hb, hp]), hstatus]
  rfl

theorem takeover_answers (s : State) (hb : s.dev.foreman.booted = true) (hp : s.dev.foreman.pairsLost < 2) :
    let f := s.dev.foreman
    let rs := f.waiting.map (·.req) ++ (s.dev.launches.flatMap fun e => e.2.waiters) ++
      s.dev.ctxs.filterMap fun e => e.2.pending.map (·.req)
    ∃ t e, exec .checkedPairTakeover s = .next t ∧ t.dev.foreman.pairsLost = f.pairsLost + 1 ∧
      t.dev.foreman.logs = f.logs ++ [e] ∧ e.kind = 9 ∧ t.dev.mem = s.dev.mem ∧
      t.dev.foreman.endpoints = f.endpoints ∧
      (∀ r ∈ rs, ∃ y ∈ t.dev.foreman.replies ++ t.dev.foreman.held,
        repliesTo y r (if f.pairsLost = 0 then 1 else 3) []) ∧
      t.dev.foreman.replies.length + t.dev.foreman.held.length = f.replies.length + f.held.length + rs.length ∧
      t.dev.foreman.waiting = [] ∧ (∀ e ∈ t.dev.launches, e.2.waiters = []) ∧
      ∀ e ∈ t.dev.ctxs, e.2.pending = none := by
  intro f rs
  refine ⟨setDev s (takeover s.dev), ⟨s.dev.now, 9, noPart, detail [activePair s.dev]⟩, rfl, ?_⟩
  obtain ⟨honly, ys, hlen, hys, hperm⟩ := answers_all (if f.pairsLost = 0 then 1 else 3) rs (pairStopped s.dev)
  rw [setDev_dev, takeover_eq hb hp, answerWaiting_eq,
    show waitingRequests (pairStopped s.dev) = rs from rfl]
  generalize rs.foldl (fun d r => answer d r (if f.pairsLost = 0 then 1 else 3)) (pairStopped s.dev) = e at honly hperm
  refine ⟨(congrArg (·.foreman.pairsLost) honly :), (congrArg (·.foreman.logs) honly :), rfl,
    (congrArg Dev.mem honly :), (congrArg (·.foreman.endpoints) honly :), fun r hr => ?_, ?_, rfl, waiters_noneWaits e, pending_noneWaits e⟩
  · obtain ⟨y, hy, hyr⟩ := hys r hr
    exact ⟨y, hperm.mem_iff.2 (List.mem_append_right _ hy), hyr⟩
  · have hall := hperm.length_eq
    rw [List.length_append, List.length_append, List.length_append, hlen] at hall
    exact hall

/-! ## Stopes that fail (R21) -/

theorem failed_failStope (d : Dev) (n : Nat) : (stopeAt (failStope d n) n).failed = true := by
  have h : (failStope d n).stopes = (modStope d n fun x => { x with failed := true }).stopes :=
    foldl_keeps Dev.stopes (fun d e => by split <;> rfl) _ _
  rw [stopeAt, h]
  simp [modStope, putStope]

theorem mem_failStope (d : Dev) (n : Nat) : (failStope d n).mem = d.mem :=
  foldl_keeps Dev.mem (fun d e => by split <;> rfl) _ (modStope d n fun x => { x with failed := true })

theorem stopeFree_failed {d : Dev} {n : Nat} (h : (stopeAt d n).failed = true) : stopeFree d n = false := by
  simp [stopeFree, stopeWorks, h]

theorem launchAt_stopLaunch {d : Dev} {l : Nat} {x : Launch} (hl : launchAt d l = some x) (hs : x.stop = none)
    (st : Stop) : launchAt (stopLaunch d l st) l = some { x with stop := some st } := by
  unfold launchAt stopLaunch modLaunch at *
  simp [mfind_mmod, hl, hs]

theorem launchAt_failStope {d : Dev} {l n : Nat} {x : Launch} (hl : d.launches = [(l, x)]) (hx : holdsStope x n = true)
    (hs : x.stop = none) : launchAt (failStope d n) l =
      some { x with stop := some ⟨none, 0, 0, none, none, statusStopeFailed⟩ } := by
  have hx : (x.gang.contains n && (x.state == .running || x.state == .preempting)) = true :=
    (Bool.and_comm _ _).trans hx
  unfold failStope
  dsimp only
  rw [show (modStope d n fun x => { x with failed := true }).launches = [(l, x)] from hl, List.foldl_cons,
    List.foldl_nil, if_pos hx]
  exact launchAt_stopLaunch (d := modStope d n fun x => { x with failed := true })
    (by simp [launchAt, modStope, putStope, hl, mfind]) hs _

theorem stopeFailure_fences (stope : BitVec 6) (s : State) : ∃ t, exec (.stopeFailure stope) s = .next t ∧
    (stopeAt t.dev stope.toNat).failed = true ∧ stopeFree t.dev stope.toNat = false ∧ t.dev.mem = s.dev.mem ∧
    ∀ l x, s.dev.launches = [(l, x)] → holdsStope x stope.toNat = true → x.stop = none → x.parent = none →
      ∃ y st, launchAt t.dev l = some y ∧ y.stop = some st ∧ st.status = statusStopeFailed ∧ st.task = none :=
  ⟨_, rfl, failed_failStope .., stopeFree_failed (failed_failStope ..), mem_failStope ..,
    fun _ _ hl hx hs _ => ⟨_, _, launchAt_failStope hl hx hs, rfl, rfl, rfl⟩⟩

/-! ## Channels that retire (R22) -/

/-- What a partition keeps of the channels: its stopes, its channels, its free granules and its mappings. -/
def mapped (p : Partition) : List Nat × List Nat × List Nat × List (Nat × Nat) :=
  (p.stopes, p.channels, p.free, p.stage2)

theorem mapped_noteShoot (d : Dev) (part first len : Nat) :
    (partAt (noteShoot d part first len) part).map mapped = (partAt d part).map mapped := by
  unfold noteShoot partAt
  rw [mfind_mmod, if_pos rfl, Option.map_map]
  rfl

theorem partAt_modPart {d : Dev} {part : Nat} {p : Partition} (hp : partAt d part = some p)
    (f : Partition → Partition) :
    partAt { d with parts := mmod d.parts part f } part = some (f p) := by
  unfold partAt at *
  rw [mfind_mmod, if_pos rfl, hp, Option.map_some]

theorem partAt_shootDown {d : Dev} {part : Nat} {p : Partition} (hp : partAt d part = some p) (gs ps : List Nat)
    (fallback : Bool) : ∃ q, partAt (shootDown d part gs ps fallback) part = some q ∧
      mapped q = (p.stopes, p.channels, p.free, p.stage2.filter fun e => !gs.contains e.1) := by
  unfold shootDown
  dsimp only
  have hnote : ∀ l : List Nat,
      (partAt (l.foldl (fun d g => noteShoot d part g 1) d) part).map mapped = some (mapped p) :=
    fun l => (foldl_keeps (fun d => (partAt d part).map mapped) (fun d g => mapped_noteShoot d part g 1) l d).trans
      (congrArg (Option.map mapped) hp)
  have hctx : ∀ (l : List Nat) (d : Dev), partAt (l.foldl (fun d c => shootContext d c gs ps fallback) d) part =
      partAt d part :=
    foldl_keeps (partAt · part) fun d c => congrArg (mfind · part) (tables_eq_iff.1 (tables_shootContext d ..)).2.2.2
  obtain ⟨q, hq, hm⟩ := Option.map_eq_some_iff.1 (hnote (gs ++ touchedUnits d part ps))
  refine ⟨_, partAt_modPart ((hctx _ _).trans hq) _, ?_⟩
  obtain ⟨hs, hc, hf, h2⟩ : q.stopes = p.stopes ∧ q.channels = p.channels ∧ q.free = p.free ∧ q.stage2 = p.stage2 := by
    simpa [mapped] using hm
  simp [mapped, hs, hc, hf, h2]

theorem partAt_loseChannels {d : Dev} {part : Nat} {p : Partition} (hp : partAt d part = some p) (chans : List Nat) :
    ∃ q, partAt (loseChannels d part chans) part = some q ∧ mapped q =
      (p.stopes, p.channels.filter (!chans.contains ·), p.free.filter fun g => !chans.contains (channelOf g),
        p.stage2.filter fun e => !(granulesOn p chans).contains e.1) := by
  obtain ⟨q, hq, hm⟩ := partAt_shootDown hp (granulesOn p chans) (touchedOn d part chans) true
  unfold loseChannels shootChannels dropGranules
  simp only [hp]
  refine ⟨_, partAt_modPart (partAt_modPart hq _) _, ?_⟩
  obtain ⟨hs, hc, hf, h2⟩ := by simpa [mapped] using hm
  simp [mapped, hs, hc, hf, h2]

/-- A mapping that outlives the loss of a channel leads elsewhere. -/
theorem channelOf_ne_of_kept {p : Partition} {c : Nat} {e : Nat × Nat}
    (h : e ∈ p.stage2.filter fun e => !(granulesOn p [c]).contains e.1) : channelOf e.2 ≠ c := by
  intro hc
  obtain ⟨he, hg⟩ := List.mem_filter.1 h
  have hmem : e.1 ∈ granulesOn p [c] :=
    List.mem_map.2 ⟨e, List.mem_filter.2 ⟨he, by simp [hc]⟩, rfl⟩
  simp [hmem] at hg

theorem module_loseChannels (d : Dev) (part : Nat) (chans : List Nat) : (loseChannels d part chans).module = d.module :=
  congrArg (fun g => g.2.1) (grants_shootChannels d part chans true)

theorem lost_loseChannels (d : Dev) (part : Nat) (chans : List Nat) : (loseChannels d part chans).lost = d.lost :=
  congrArg (fun g => g.2.2.1) (grants_shootChannels d part chans true)

theorem unlogged_logAffecteds (l : SMap Partition) (d : Dev) (chan : Nat) :
    unlogged (l.foldl (fun d e => logAffected d e.1 e.2 chan) d) = unlogged d :=
  foldl_keeps unlogged (fun d e => unlogged_logAffected d e.1 e.2 chan) l d

/-- A retirement lists the channel and logs it; then the partitions lose their granules there. -/
theorem retireChannel_spec {d : Dev} {c : Nat} (h : d.module.retired.contains c = false) : ∃ e : Dev,
    retireChannel d c = e.parts.foldl (fun d e => loseChannels d e.1 [c]) e ∧
      unlogged e = unlogged { d with module := { d.module with retired := d.module.retired ++ [c] } } := by
  unfold retireChannel
  dsimp only
  rw [if_neg (ne_true_of_eq_false h)]
  exact ⟨_, rfl, (unlogged_logAffecteds ..).trans (unlogged_addLog ..)⟩

theorem retirement_leaves (stack : BitVec 3) (chan : BitVec 5) (s : State) :
    let c := 32 * stack.toNat + chan.toNat
    (s.dev.module.retired.contains c = false → ∃ t, exec (.hbmChannelRetirement stack chan) s = .next t ∧
      t.dev.module.retired = s.dev.module.retired ++ [c] ∧
      ∀ n p, s.dev.parts = [(n, p)] → ∃ p', partAt t.dev n = some p' ∧ c ∉ p'.channels ∧
        (∀ e ∈ p'.stage2, channelOf e.2 ≠ c) ∧ (∀ g ∈ p'.free, channelOf g ≠ c) ∧ p'.stopes = p.stopes) := by
  intro c hc
  refine ⟨setDev s (settle (retireChannel s.dev c)), rfl, ?_⟩
  obtain ⟨e, he, hu⟩ := retireChannel_spec hc
  obtain ⟨-, hmod, -, hparts⟩ := tables_eq_iff.1 (tables_settle (retireChannel s.dev c))
  rw [he] at hmod hparts
  refine ⟨?_, fun n p hp => ?_⟩
  · rw [setDev_dev, he, hmod,
      foldl_keeps Dev.module (fun d (e : Nat × Partition) => module_loseChannels d e.1 [c])]
    exact congrArg (·.module.retired) hu
  · have hep : e.parts = [(n, p)] := (congrArg Dev.parts hu).trans hp
    obtain ⟨q, hq, hm⟩ := partAt_loseChannels (d := e) (part := n) (p := p) (by simp [partAt, hep, mfind]) [c]
    refine ⟨q, ?_, ?_⟩
    · rw [setDev_dev, he, partAt,
        hparts, hep]
      exact hq
    · obtain ⟨hs, hch, hf, h2⟩ := by simpa only [mapped, Prod.mk.injEq] using hm
      rw [hs, hch, hf, h2]
      exact ⟨by simp, fun e he => channelOf_ne_of_kept he, by simp, rfl⟩

/-! ## Dies that are lost (R24, R85, R86) -/

theorem lost_retireChannel (d : Dev) (c : Nat) : (retireChannel d c).lost = d.lost := by
  cases hc : d.module.retired.contains c
  · obtain ⟨e, he, hu⟩ := retireChannel_spec hc
    rw [he, foldl_keeps Dev.lost (fun d (e : Nat × Partition) => lost_loseChannels d e.1 [c])]
    exact (congrArg Dev.lost hu :)
  · rw [retireChannel, if_pos hc]

theorem lost_answerWaiting (d : Dev) (status : Nat) : (answerWaiting d status).lost = d.lost :=
  foldl_keeps Dev.lost (fun d r => replyKeyed_lost d (sessionKey d r) r status []) (waitingRequests d) d

theorem lost_takeover (d : Dev) : (takeover d).lost = d.lost := by
  unfold takeover
  split
  · rfl
  · exact lost_answerWaiting ..

/-- The pair of a network die goes with it: the running one hands over, and the other is counted. -/
theorem lost_pairGoes (d : Dev) (die : Nat) : (if activePair d = die / 4 then takeover d
    else { d with foreman := { d.foreman with pairsLost := max d.foreman.pairsLost 1 } }).lost = d.lost := by
  split
  · exact lost_takeover d
  · rfl

theorem lost_loseNetwork (d : Dev) (die : Nat) : (loseNetwork d die).lost = d.lost := by
  have hchans : ∀ l : List Nat, (l.foldl retireChannel d).lost = d.lost :=
    fun l => foldl_keeps Dev.lost lost_retireChannel l d
  unfold loseNetwork
  dsimp only
  generalize (List.range 128).map _ = chans
  rw [lost_pairGoes]
  split <;> exact hchans chans

@[simp] theorem tables_tellContext (d : Dev) (ctx die : Nat) : tables (tellContext d ctx die) = tables d := by
  refine foldl_keeps tables (fun d e => foldl_keeps tables (fun d t => ?_) _ _) _ _
  split
  · rfl
  · exact tables_notify ..

@[simp] theorem tables_loseControl (d : Dev) (half : Nat) : tables (loseControl d half) = tables d := by
  unfold loseControl
  rw [foldl_keeps tables tables_failStope]
  refine foldl_keeps tables (fun d e => ?_) _ _
  split <;> rfl

theorem lost_of_tables {d e : Dev} (h : tables e = tables d) : e.lost = d.lost := (tables_eq_iff.1 h).2.2.1

theorem lost_loseDie {d : Dev} {die : Nat} (h : d.lost.getLsbD die = false) :
    (loseDie d die).lost = d.lost ||| dieBit die := by
  have hnet : (if die % 4 = 3 then loseNetwork d die else d).lost = d.lost := by
    split
    · exact lost_loseNetwork ..
    · rfl
  have htell : ∀ (l : List (Nat × Context)) (d : Dev), (l.foldl (fun d e => tellContext d e.1 die) d).lost = d.lost :=
    foldl_keeps Dev.lost fun d e => lost_of_tables (tables_tellContext d e.1 die)
  unfold loseDie
  rw [if_neg (ne_true_of_eq_false h)]
  dsimp only
  split
  · rw [lost_of_tables (tables_loseControl ..), htell]
    exact congrArg (· ||| dieBit die) hnet
  · rw [htell]
    exact congrArg (· ||| dieBit die) hnet

/-- A task that runs on a core hears of a cause by that core's notice. -/
theorem notify_running {d : Dev} {l i k : Nat} {c : Core}
    (h : (d.cores.find? fun e => e.2.run == some ⟨l, i⟩ && !e.2.leaving) = some (k, c)) (cause : Nat) (info : Dword) :
    notify d l i cause info = putCore d k { c with notice := c.notice ++ [⟨cause, info⟩] } := by
  rw [notify, h]

/-- A device whose one launch runs one task tells it of a lost die. -/
theorem tellContext_single {d : Dev} {l i die : Nat} {x : Launch} {tk : Task} (hl : d.launches = [(l, x)])
    (hx : x.state = .running) (ht : x.tasks = [(i, tk)]) (hr : tk.state = .running) :
    tellContext d x.ctx die = notify d l i causeDieLost (BitVec.ofNat 64 die) := by
  simp [tellContext, hl, hx, ht, hr]

theorem loseDie_other {d : Dev} {die : Nat} {k : Nat} {c : Context} (h : d.lost.getLsbD die = false)
    (h3 : die % 4 ≠ 3) (h0 : die % 4 ≠ 0) (hc : d.ctxs = [(k, c)]) (hm : c.dmask.getLsbD die = true) :
    loseDie d die = tellContext { d with lost := d.lost ||| dieBit die } k die := by
  simp [loseDie, h, h3, h0, hc, hm]

theorem coreAt_settle_of_none {d : Dev} (h : metWaits d = []) (k : Nat) : coreAt (settle d) k = coreAt d k := by
  simp [settle, wakeCounters, h, firePosted, coreAt]

theorem coreAt_dieLoss {d : Dev} {die l i k : Nat} {x : Launch} {tk : Task} {c : Context} {core : Core}
    (h : d.lost.getLsbD die = false) (h3 : die % 4 ≠ 3) (h0 : die % 4 ≠ 0) (hl : d.launches = [(l, x)])
    (hx : x.state = .running) (hw : metWaits d = []) (ht : x.tasks = [(i, tk)]) (hr : tk.state = .running)
    (hc : d.ctxs = [(x.ctx, c)]) (hm : c.dmask.getLsbD die = true)
    (hcore : (d.cores.find? fun e => e.2.run == some ⟨l, i⟩ && !e.2.leaving) = some (k, core)) :
    coreAt (settle (loseDie d die)) k =
      { core with notice := core.notice ++ [⟨causeDieLost, BitVec.ofNat 64 die⟩] } := by
  have hsteps : loseDie d die = putCore { d with lost := d.lost ||| dieBit die } k
      { core with notice := core.notice ++ [⟨causeDieLost, BitVec.ofNat 64 die⟩] } := by
    rw [loseDie_other h h3 h0 hc hm, tellContext_single (d := { d with lost := d.lost ||| dieBit die }) hl hx ht hr,
      notify_running (d := { d with lost := d.lost ||| dieBit die }) hcore]
  rw [hsteps, coreAt_settle_of_none (by exact hw)]
  simp [coreAt, putCore]

theorem dieLoss_tells (die : BitVec 3) (s : State) (h : s.dev.lost.getLsbD die.toNat = false) :
    ∃ t, exec (.dieLoss die) s = .next t ∧ t.dev.lost = s.dev.lost ||| dieBit die.toNat ∧
      (∀ l x i k, die.toNat % 4 ≠ 3 → die.toNat % 4 ≠ 0 → s.dev.launches = [(l, x)] → x.state = .running →
        metWaits s.dev = [] → x.tasks.map (·.1) = [i] → (∀ tk, mfind x.tasks i = some tk → tk.state = .running) →
        (s.dev.ctxs.map (·.1) = [x.ctx]) → (∀ c, ctxAt s.dev x.ctx = some c → c.dmask.getLsbD die.toNat = true) →
        (s.dev.cores.find? fun e => e.2.run == some ⟨l, i⟩ && !e.2.leaving).map (·.1) = some k →
        ∃ n, n ∈ (coreAt t.dev k).notice ∧ n.cause = causeDieLost ∧ n.info = BitVec.ofNat 64 die.toNat) := by
  refine ⟨_, rfl, (lost_of_tables (tables_settle _)).trans (lost_loseDie h), ?_⟩
  intro l x i k h3 h0 hl hx hw hts hrun hcs hmask hk
  obtain ⟨⟨_, tk⟩, ht, rfl⟩ := List.map_eq_singleton_iff.1 hts
  obtain ⟨⟨j, c⟩, hc, hj⟩ := List.map_eq_singleton_iff.1 hcs
  obtain rfl : j = x.ctx := hj
  obtain ⟨⟨_, core⟩, hcore, rfl⟩ := Option.map_eq_some_iff.1 hk
  have hcoreAt := coreAt_dieLoss h h3 h0 hl hx hw ht (hrun tk (by simp [ht, mfind])) hc
    (hmask c (by simp [ctxAt, hc, mfind])) hcore
  exact ⟨⟨causeDieLost, BitVec.ofNat 64 die.toNat⟩, (congrArg Core.notice hcoreAt) ▸ by simp, rfl, rfl⟩

/-- Settles O60: each event leads to the state that the specification names, for all states. -/
theorem failureEvents : Obligations.FailureEvents :=
  ⟨boot_starts, takeover_answers, stopeFailure_fences, retirement_leaves, dieLoss_tells⟩

end Sys2Proof.Machine
end

section
/-! SUPPORT. Suspension (R49, R229, R277): what SUSPEND, ENDSTEP and EXIT leave of their core, and the statement on
them. -/

namespace Sys2Proof.Machine

/-! ## The bytes of a record (R47) -/

theorem getElem?_natBytes {n j : Nat} (x : Nat) (h : j < n) :
    (natBytes n x)[j]? = some (BitVec.ofNat 8 (x / 2 ^ (8 * j))) := by
  induction n generalizing x j with
  | zero => omega
  | succ n ih =>
    cases j with
    | zero => simp [natBytes]
    | succ j =>
      have hpow : 2 ^ (8 * (j + 1)) = 256 * 2 ^ (8 * j) := by rw [Nat.mul_succ, Nat.pow_add, Nat.mul_comm]
      rw [natBytes, List.getElem?_cons_succ, ih _ (Nat.lt_of_succ_lt_succ h), Nat.div_div_eq_div_mul, hpow]

theorem length_placeBytes {d : Dev} {x : Launch} {stope : Nat} {u : User} {r : Right} {va : Dword} {n : Nat}
    {ls : List Nat} (h : placeBytes d x stope u r va n = .ok ls) : ls.length = n := by
  induction n generalizing va ls with
  | zero => cases h; rfl
  | succ n ih =>
    simp only [placeBytes] at h
    (repeat' split at h) <;> cases h
    next hrest => simp [ih hrest]

/-- The first bytes of a continuation's cells are those of its record: the address to resume at (R47). -/
theorem contCells_pc {locs : List Nat} (hl : locs.length = 64) {rest : List Host.Cell} {pc gpc : Va} {lc : Word}
    {ec : BitVec 16} {rrb : BitVec 8} {frame : Dword} {state cause place core : Nat} {wa wv snap : Dword} {j : Nat}
    (hj : j < 6) :
    ((cellsAt locs (contBytes pc gpc lc ec rrb frame state cause place core wa wv snap) ++ rest).map (·.2))[j]? =
      some (BitVec.ofNat 8 (pc.toNat / 2 ^ (8 * j))) := by
  have hb : (contBytes pc gpc lc ec rrb frame state cause place core wa wv snap).length = 64 := by simp [contBytes]
  have hz : (cellsAt locs (contBytes pc gpc lc ec rrb frame state cause place core wa wv snap)).map (·.2) =
      contBytes pc gpc lc ec rrb frame state cause place core wa wv snap := List.map_snd_zip (by omega)
  rw [List.map_append, hz, List.getElem?_append_left (by omega)]
  simp only [contBytes, List.append_assoc]
  rw [List.getElem?_append_left (by simp; omega), getElem?_natBytes _ (by omega)]

/-! ## The end of a run (R49, R277) -/

/-- A task that can suspend touches the dies of its record and its save area, none of which is lost (R86). -/
theorem suspendTouch_holds {q : Suspending} {d : Dev} {k : Nat} (h : q.holds d k) :
    ∃ bits, suspendTouch d k = (touchDies d q.entry.ctx bits, none) := by
  obtain ⟨hrun, hl, hrec, hsave, -, hdies⟩ := h
  refine ⟨diesAt (stopeOf k) (q.record ++ q.save), ?_⟩
  have hof : launchOf d k = some q.entry := by simp [launchOf, hrun, hl]
  simp only [suspendTouch, hrun, hof, hrec]
  split at hsave
  · next hf => simp [hf, touchLost, ← hsave, hdies]
  · next hf => simp [hf, hsave, touchLost, hdies]

theorem coreAt_dropLease (d : Dev) (k : Nat) : coreAt (dropLease d k) k = { coreAt d k with
    lease := false, leaseRem := 0, leaseReq := false, leaseNext := 64, leaseOk := false, leaseBack := false } :=
  coreAt_putCore_self d k _

theorem coreAt_giveBanks (d : Dev) (stope l i w k : Nat) : coreAt (giveBanks d stope l i w) k = coreAt d k := by
  unfold giveBanks; split <;> rfl

theorem mem_giveBanks (d : Dev) (stope l i w : Nat) : (giveBanks d stope l i w).mem = d.mem := by
  unfold giveBanks; split <;> rfl

/-- The core of a task that leaves it: its last window entry is the continuation (R48, R49, R277). -/
def leavingCore (item : WindowItem) (c : Core) : Core :=
  { discarded c with acks := [], opGate := [], leaving := true, stall := none, window := c.window ++ [item] }

/-- What a suspension leaves where the core has left, its lease and its banks are given up, and memory stands. -/
theorem suspendedTo_of_leaving {d e : Dev} {k : Nat} {r : Running} {st : TaskState} {pc : Va} {cells : List Host.Cell}
    (w seq : Nat) (hcore : coreAt e k = coreAt d k) (hmem : e.mem = d.mem) (hrun : (coreAt d k).run = some r)
    (hpc : ∀ j, j < 6 → (cells.map (·.2))[j]? = some (BitVec.ofNat 8 (pc.toNat / 2 ^ (8 * j)))) (stope l i n : Nat) :
    suspendedTo d (giveBanks (dropLease (modCore e k
      (leavingCore ⟨w, seq, .continuation r.launch r.task st cells⟩)) k) stope l i n) k r st pc := by
  unfold suspendedTo
  rw [coreAt_giveBanks, coreAt_dropLease, mem_giveBanks]
  simp only [modCore, coreAt_putCore_self, leavingCore, discarded, hcore]
  refine ⟨trivial, trivial, fun f hf => ?_, trivial, hrun, hmem, w, seq, cells, rfl, hpc⟩
  simpa using (List.mem_filter.1 hf).2

/-- A suspension that can be written is written (R47, R49, R199). -/
theorem suspendTask_holds {q : Suspending} {d : Dev} {k : Nat} (h : q.holds d k) (st : TaskState) (cause : Nat) (pc : Va)
    (wf : WaitFor) (wa wv : Dword) :
    ∃ e, suspendTask d k st cause pc wf wa wv = .ok e ∧ suspendedTo d e k q.run st pc := by
  obtain ⟨bits, htouch⟩ := suspendTouch_holds h
  obtain ⟨hrun, hl, hrec, hsave, hrace, -⟩ := h
  have hplaces : (if q.entry.record.frameSize < 64 then .ok [] else
      placeBytes d q.entry (stopeOf k) .core .write (physReadG (coreAt d k) 60) 32) = Except.ok q.save := by
    split at hsave
    · next hf => rw [if_pos hf, hsave]
    · next hf => rw [if_neg hf, hsave]
  simp only [suspendTask, hrun, hl, hrec, hplaces, hrace, htouch]
  refine ⟨_, rfl, ?_⟩
  refine suspendedTo_of_leaving _ _ ?_ ?_ hrun (fun j hj => ?_) _ _ _ _
  · rfl
  · rfl
  · exact contCells_pc (length_placeBytes hrec) hj

/-- A word that suspends the task as the end of its clause leaves it (R229, R277). -/
theorem suspendAfter_holds {q : Suspending} {s : State} (h : q.holds (putCore s.dev s.cur (afterClause s)) s.cur)
    (st : TaskState) (cause : Nat) : ∃ u, suspendAfter s st cause .nothing 0 0 = .next u ∧
      suspendedTo (putCore s.dev s.cur (afterClause s)) u.dev s.cur q.run st (afterClause s).pc := by
  obtain ⟨e, he, hsus⟩ := suspendTask_holds h st cause (afterClause s).pc .nothing 0 0
  exact ⟨{ s with dev := e }, by simp only [suspendAfter, he], hsus⟩

/-- Settles O25: each word ends in `suspendAfter`, but EXIT with a code, which stops the launch. -/
theorem suspensionWords : Obligations.SuspensionWords := by
  refine ⟨fun s q => ?_, ?_⟩
  · intro d pc hq
    refine ⟨suspendAfter_holds hq .ready 0, suspendAfter_holds hq .stepEnd 1, fun a t hfull hzero => ?_⟩
    obtain ⟨u, hu, hsus⟩ := suspendAfter_holds hq .exited 2
    have hexec : exec (.exit a t) s = suspendAfter s .exited 2 .nothing 0 0 :=
      (withSources_full hfull _).trans (if_pos hzero)
    exact ⟨u, hexec.trans hu, hsus⟩
  · intro a t s r x hfull hcode hrun hl hstop
    have hexec : exec (.exit a t) s = .next (setDev s (stopLaunch s.dev r.launch
        ⟨some r.task, 0, (readG (src s) a).setWidth 16, some { afterClause s with flights := [] },
          some (latchOf { afterClause s with flights := [] } (afterClause s).pc), 8⟩)) := by
      refine (withSources_full hfull _).trans ((if_neg hcode).trans ?_)
      simp only [hrun]
    exact ⟨_, _, hexec, launchAt_stopLaunch hl hstop _, rfl, rfl, rfl, rfl, rfl, rfl⟩

end Sys2Proof.Machine
end

section
/-! SUPPORT. Admission (R42 to R47, R103): what a reservation takes, which head is tried, what its launch becomes, and
the statement on them. -/

namespace Sys2Proof.Machine

/-! ## Reservation (R43, R44) -/

theorem mem_candidates {p : Partition} {x : Launch} {r : List Nat} (h : r ∈ candidates p x) :
    ∃ j, j < p.stopes.length / gangSize x.record ∧
      r = (p.stopes.drop (gangSize x.record * j)).take (gangSize x.record) := by
  obtain ⟨i, hi, rfl⟩ := List.mem_map.1 h
  exact ⟨_, Nat.mod_lt _ (Nat.zero_lt_of_lt (List.mem_range.1 hi)), rfl⟩

theorem reserve_takes {d : Dev} {p : Partition} {x : Launch} {gang : List Nat} (h : reserve d p x = some gang) :
    (∀ s ∈ gang, stopeFree d s = true) ∧ ∃ j, j < p.stopes.length / gangSize x.record ∧
      gang = (p.stopes.drop (gangSize x.record * j)).take (gangSize x.record) := by
  have hfree : gang.all (stopeFree d) = true := List.find?_some (p := fun r : List Nat => r.all (stopeFree d)) h
  exact ⟨List.all_eq_true.1 hfree, mem_candidates (List.mem_of_find?_eq_some h)⟩

/-! ## The head that is tried (R42) -/

theorem firstBy_eq_none {α : Type} {before : α → α → Bool} {l : List α} : firstBy before l = none ↔ l = [] := by
  cases l with
  | nil => simp [firstBy]
  | cons a r => simp only [firstBy]; split <;> simp

theorem mem_of_firstBy {α : Type} {before : α → α → Bool} {l : List α} {a : α} (h : firstBy before l = some a) :
    a ∈ l := by
  induction l generalizing a with
  | nil => cases h
  | cons b r ih =>
    simp only [firstBy] at h
    split at h
    · next c hc =>
      cases h
      split
      · exact List.mem_cons_of_mem _ (ih hc)
      · exact List.mem_cons_self
    · cases h; exact List.mem_cons_self

/-- Whether an entry of the table of launches stands in a queue of a partition. -/
def queuedAt (part level : Nat) (e : Nat × Launch) : Bool :=
  e.2.part.toNat == part && e.2.level == level && inQueue e.2

theorem headOf_eq_none {d : Dev} {part level : Nat} :
    headOf d part level = none ↔ ∀ e ∈ d.launches, queuedAt part level e = false := by
  have hq : d.launches.filter (queuedAt part level) = [] ↔ ∀ e ∈ d.launches, queuedAt part level e = false := by
    simp [List.filter_eq_nil_iff]
  rw [headOf, firstBy_eq_none, ← hq]
  change (if _ then d.launches.filter (queuedAt part level) else _) = [] ↔ _
  split
  · rfl
  · next hdrain =>
    have hsome := mt (fun h => Bool.or_eq_true_iff.2 (.inl (List.isEmpty_iff.2 h))) hdrain
    refine ⟨fun h => absurd h hsome, fun h => absurd ?_ hsome⟩
    exact congrArg (List.filter fun e => 16 ≤ e.2.failures) h

theorem queuedAt_of_headOf {d : Dev} {part level : Nat} {e : Nat × Launch} (h : headOf d part level = some e) :
    queuedAt part level e = true := by
  have hmem := mem_of_firstBy h
  split at hmem
  · exact (List.mem_filter.1 hmem).2
  · exact (List.mem_filter.1 (List.mem_filter.1 hmem).1).2

theorem considerLevels_skip {d : Dev} {part : Nat} {p : Partition} {m n : Nat} (hmn : m ≤ n)
    (h : ∀ i, m ≤ i → i < n → headOf d part i = none) : considerLevels part p n d = considerLevels part p m d := by
  induction hmn with
  | refl => rfl
  | @step n hmn ih =>
    have htry : tryHead d part n p = (d, true) := by simp only [tryHead, h n hmn n.lt_succ_self]
    simp only [considerLevels, htry]
    exact ih fun i hi hin => h i hi (Nat.lt_succ_of_lt hin)

theorem admission_at {d : Dev} {part lev : Nat} {p : Partition} (hp : partAt d part = some p) (hlev : lev < 16)
    (h : ∀ m, lev < m → m < 16 → headOf d part m = none) : admission d part = considerLevels part p (lev + 1) d := by
  simp only [admission, hp]
  exact considerLevels_skip hlev h

/-! ## A launch that is admitted (R47, R52) -/

theorem launches_lateWrite (d : Dev) (ctx : Nat) (cs : List Host.Cell) : (lateWrite d ctx cs).launches = d.launches := by
  unfold lateWrite; dsimp only; split <;> rfl

theorem launches_writeConts {x : Launch} {i n : Nat} {d e : Dev} (h : writeConts x i n d = .ok e) :
    e.launches = d.launches := by
  induction n generalizing i d with
  | zero => cases h; rfl
  | succ n ih =>
    simp only [writeConts] at h
    split at h
    · cases h
    · split at h
      · cases h
      · next htouch =>
        rw [ih h, launches_lateWrite]
        exact congrArg (fun r => r.1.launches) htouch.symm

/-- A launch at the opening of step s, where it names no deadline table (R52, R143). -/
def atStep (s : Nat) (x : Launch) : Launch :=
  { x with step := s, phase := .open, interval := 0, deadline := none, work := 0, spent := 0, declared := false,
           declBy := none, risked := false, entries := [], tasks := x.tasks.map fun t => (t.1, taskOpens (s == 0) t.2) }

/-- A launch whose tasks are about to start. -/
def withFreshTasks (x : Launch) : Launch :=
  { x with tasks := (List.range x.record.tasks).map fun i => (i, freshTask) }

/-- A fold whose steps leave everything as it is does so too. -/
theorem foldl_fixes {α β : Type} {f : β → α → β} {l : List α} {b : β} (h : ∀ b, ∀ a ∈ l, f b a = b) : l.foldl f b = b := by
  induction l with
  | nil => rfl
  | cons a r ih =>
    rw [List.foldl_cons, h b a List.mem_cons_self]
    exact ih fun b c hc => h b c (List.mem_cons_of_mem a hc)

theorem launches_clearStages (gang : List Nat) (d : Dev) :
    (gang.foldl (fun d g => modStope d g fun q => { q with stage := 0 }) d).launches = d.launches :=
  foldl_keeps (f := fun d g => modStope d g fun q => { q with stage := 0 }) Dev.launches (fun _ _ => rfl) gang d

theorem mem_clearStages (gang : List Nat) (d : Dev) :
    (gang.foldl (fun d g => modStope d g fun q => { q with stage := 0 }) d).mem = d.mem :=
  foldl_keeps (f := fun d g => modStope d g fun q => { q with stage := 0 }) Dev.mem (fun _ _ => rfl) gang d

theorem openStep_atStep {d : Dev} {l : Nat} {x : Launch} (hl : launchAt d l = some x) (hparent : x.parent = none)
    (hdl : x.record.deadlines = 0) (htasks : ∀ t ∈ x.tasks, t.2.state ≠ .stepEnd) (s : Nat) :
    (openStep d l s).mem = d.mem ∧ launchAt (openStep d l s) l = some (atStep s x) := by
  have hdies : entryDies d x s = 0 := by simp [entryDies, hdl]
  have hentry : stepEntry d x s = .ok (none, 0, 0) := by simp [stepEntry, hparent, hdl]
  have hready : ∀ e : Dev,
      x.tasks.foldl (fun d t => if t.2.state = .stepEnd then setState d l t.1 .ready else d) e = e :=
    fun e => foldl_fixes fun d t ht => if_neg (htasks t ht)
  have htouch : touchLost d x.ctx 0 = (touchDies d x.ctx 0, none) := by simp [touchLost]
  simp only [openStep, hl, hdies, hentry, htouch, hready]
  refine ⟨mem_clearStages _ _, ?_⟩
  rw [launchAt] at hl ⊢
  simp only [modLaunch, launches_clearStages, mfind_mmod, touchDies_launches, hl, if_true, Option.map_some, atStep]

/-- A launch starts where its records can be written and no load of its table waits (R47, R52, R72). -/
theorem startLaunch_starts {d e : Dev} {l : Nat} {x : Launch} (hparent : x.parent = none) (hdl : x.record.deadlines = 0)
    (hload : loadWaits e x.ctx = false)
    (hconts : writeConts (withFreshTasks x) 0 x.record.tasks (putLaunch d l (withFreshTasks x)) = .ok e) :
    (startLaunch d l x).mem = e.mem ∧ launchAt (startLaunch d l x) l = some (atStep 0 (withFreshTasks x)) := by
  have hl : launchAt e l = some (withFreshTasks x) := by
    rw [launchAt, launches_writeConts hconts]; exact mfind_minsert_self ..
  have hstart : startLaunch d l x = openStep e l 0 := by
    rw [withFreshTasks] at hconts
    simp only [startLaunch, hconts, hload, entryHeld, hdl]
    simp
  rw [hstart]
  exact openStep_atStep hl hparent hdl (by simp [withFreshTasks, freshTask]) 0

theorem tryHead_admits {d : Dev} {part lev l n : Nat} {p : Partition} {x : Launch} {gang : List Nat}
    (hhead : headOf d part lev = some (l, x)) (hpass : x.passUntil = 0) (hgang : reserve d p x = some gang)
    (hnum : numberFor d x = some n) (hqueued : x.state = .queued) :
    tryHead d part lev p = (startLaunch { d with names := d.names + 1 } l
      { x with state := .running, number := some n, admitted := d.names, gang := gang }, false) := by
  simp only [tryHead, hhead, hpass, hgang, hnum, admitLaunch, hqueued]
  rfl

/-! ## A launch that finds no range (R45) -/

theorem tryHead_fails {d : Dev} {part lev l : Nat} {p : Partition} {x : Launch}
    (hhead : headOf d part lev = some (l, x)) (hpass : x.passUntil = 0) (hnone : reserve d p x = none)
    (hfail : x.failures < 15) : tryHead d part lev p = (countFailure d l x, true) := by
  have h16 : x.failures < 16 := Nat.lt_succ_of_lt hfail
  simp only [tryHead, hhead, hpass, hnone, h16, Nat.not_le.2 hfail]
  cases numberFor d x <;> rfl

/-- A failure of a head leaves the queues of the levels below as they are. -/
theorem headOf_countFailure {d : Dev} {part lev l m : Nat} {x : Launch} (hl : launchAt d l = some x)
    (hhead : headOf d part lev = some (l, x)) (hm : m < lev) (hnone : headOf d part m = none) :
    headOf (countFailure d l x) part m = none := by
  rw [headOf_eq_none] at hnone ⊢
  intro e he
  have hlevel : x.level = lev := by
    have hq := queuedAt_of_headOf hhead
    simp only [queuedAt, Bool.and_eq_true, beq_iff_eq] at hq
    exact hq.1.2
  rw [launchAt] at hl
  simp only [countFailure, modLaunch, mmod, hl] at he
  rcases mem_minsert he with rfl | he
  · have hne : (x.level == m) = false := by simp [hlevel]; omega
    simp [queuedAt, hne]
  · exact hnone e he

theorem admission_fails {d : Dev} {part lev l : Nat} {p : Partition} {x : Launch} (hl : launchAt d l = some x)
    (hhead : headOf d part lev = some (l, x)) (hpass : x.passUntil = 0) (hnone : reserve d p x = none)
    (hfail : x.failures < 15) (hbelow : ∀ m, m < lev → headOf d part m = none) :
    considerLevels part p (lev + 1) d = countFailure d l x := by
  simp only [considerLevels, tryHead_fails hhead hpass hnone hfail, if_true]
  exact considerLevels_skip (Nat.zero_le _) fun m _ hm => headOf_countFailure hl hhead hm (hbelow m hm)

/-- A head that has failed once more, before its sixteenth failure: it is passed over for its back-off (R45). -/
def passedOver (d : Dev) (x : Launch) : Launch :=
  { x with failures := x.failures + 1,
           passUntil := d.now + cyclesNs d (backoffCycles x.record.seed (x.failures + 1)) }

theorem launchAt_countFailure {d : Dev} {l : Nat} {x : Launch} (hl : launchAt d l = some x) (hfail : x.failures < 15) :
    launchAt (countFailure d l x) l = some (passedOver d x) := by
  rw [launchAt] at hl ⊢
  have h16 : ¬ 16 ≤ x.failures + 1 := by omega
  simp only [countFailure, modLaunch, mfind_mmod, hl, if_true, Option.map_some, h16, if_false, passedOver]

/-! ## The statement -/

/-- Settles O53: an admission skips the empty levels, and the head that it tries starts or counts a failure. The name
`admission` is the model's. -/
theorem admission_takes_head : Obligations.Admission := by
  refine ⟨fun d p x gang => reserve_takes, fun part s p lev l x hp hlev hhead hpass habove => ⟨?_, ?_⟩, ?_⟩
  · intro gang n e hgang hnum hqueued hparent hdl hload y y' hconts
    have hadm : admission s.dev part.toNat = startLaunch { s.dev with names := s.dev.names + 1 } l y := by
      rw [admission_at hp hlev habove, considerLevels, tryHead_admits hhead hpass hgang hnum hqueued]
      rfl
    obtain ⟨hmem, hl⟩ := startLaunch_starts (x := y) hparent hdl hload hconts
    refine ⟨setDev s (admission s.dev part.toNat), atStep 0 (withFreshTasks y), rfl, ?_⟩
    rw [setDev_dev, hadm]
    refine ⟨hl, rfl, rfl, rfl, rfl, rfl, rfl, ?_, ?_, hmem⟩
    · simp [atStep, withFreshTasks, y, Function.comp_def]
    · simp [atStep, withFreshTasks, taskOpens, freshTask]
  · intro hl hnone hfail hbelow
    have hadm : admission s.dev part.toNat = countFailure s.dev l x := by
      rw [admission_at hp hlev habove, admission_fails hl hhead hpass hnone hfail hbelow]
    refine ⟨setDev s (admission s.dev part.toNat), passedOver s.dev x, rfl, ?_⟩
    rw [setDev_dev, hadm]
    exact ⟨launchAt_countFailure hl hfail, rfl, rfl, rfl, rfl⟩
  · intro l s x hl
    refine ⟨_, rfl, ?_⟩
    rw [launchAt] at hl ⊢
    simp only [setDev_dev, expireBackoff, modLaunch, mfind_mmod, hl, if_true, Option.map_some]

end Sys2Proof.Machine
end

section
/-! SUPPORT. The refutation of the statement on pre-emption and resumption. The statement speaks of every state, those
among them whose table of cores lists a core twice. A forced pre-emption frees the core as it is listed first; then
the dispatcher writes the task's record, whose die is lost, and tells the task of it (R86): it finds the task on the
core as it is listed again, and puts that in the freed core's place. -/

namespace Sys2Proof.Machine

/-! ## The device: core 0 is listed twice, and the network die that holds the task's record is lost -/

def listedTwice : State :=
  { State.reset with dev := { devReset with
      parts := [(0, probePart)], ctxs := [(0, probeContext)], launches := [(0, probeLaunch)],
      cores := [(0, { coreReset with run := some ⟨0, 0⟩ }), (0, { coreReset with run := some ⟨0, 0⟩ })],
      lost := dieBit 3 } }

theorem canSnapshot_listedTwice : canSnapshot listedTwice.dev 0 ⟨0, 0⟩ probeLaunch probeTask :=
  ⟨rfl, rfl, rfl, rfl, rfl, rfl, rfl, rfl, rfl, rfl, rfl, rfl, rfl⟩

/-- The core still runs the task after the pre-emption. -/
theorem run_after_preemption : (coreAt (preemptTask listedTwice.dev 0 0) 0).run = some ⟨0, 0⟩ := by decide +kernel

/-- Refutes O54: a forced pre-emption need not free a core that is listed twice. -/
theorem not_preemptionAndResumption : ¬ Obligations.PreemptionAndResumption := by
  intro h
  obtain ⟨⟨preempts, _⟩, _⟩ := h
  obtain ⟨snapshots, _⟩ := preempts ⟨0, 0⟩ 0 listedTwice ⟨0, 0⟩ probeLaunch probeTask
  obtain ⟨t, ht, ⟨hfree, _⟩, _⟩ := snapshots canSnapshot_listedTwice rfl rfl
  have hexec : exec (.taskPreemption ⟨0, 0⟩ 0) listedTwice =
      .next (setDev listedTwice (preemptTask listedTwice.dev 0 0)) := rfl
  have hcore : coreNum ⟨0, 0⟩ = 0 := rfl
  rw [← Host.Outcome.next.inj (hexec.symm.trans ht), setDev_dev, hcore, run_after_preemption] at hfree
  exact absurd hfree (by decide)

end Sys2Proof.Machine
end

section
/-! SUPPORT. The refutation of the statement on steps and completion. A launch that has been pre-empted and is admitted
again keeps its copy-queue images until the scoreboards have room for their copies (R330, `restoreQueues`). Where it
stops in between, LAUNCH_FAULT abandons the copies that the images have paused and keeps the others (R331,
`abandonSaved`), among them one that the image alone names, because SNAPSHOT_WRITE has put it there (R212). The launch
then has a copy left and does not complete, although it had none under way. -/

namespace Sys2Proof.Machine

/-! ## The device: a stopped launch whose one image, at 0x4000, counts one copy -/

/-- Where in a snapshot region the image of the first gang stope of launch 0 stands. -/
def imageOffset : Nat := Config.queueImageAddr 0 0 / 64 * 64

/-- The region lies so that the image stands at 0x4000. -/
def imagedContext : Context := { probeContext with snapBase := 2 ^ 64 + 0x4000 - imageOffset % 2 ^ 64 }

def imagedLaunch : Launch :=
  { probeLaunch with imaged := [0], stop := some ⟨none, 0, 0, none, none, statusCancelled⟩ }

/-- The image's header: version 1, one command; its entry reads zero. -/
def imagedStop : State :=
  { State.reset with dev := { devReset with
      parts := [(0, probePart)], ctxs := [(0, imagedContext)], launches := [(0, imagedLaunch)],
      mem := [(hbmLoc 0x4000, 1), (hbmLoc 0x4001, 1)] } }

theorem queueAddr_imagedStop : queueAddr imagedStop.dev 0 0 imagedLaunch = 0x4000 := by
  have haddr : queueAddr imagedStop.dev 0 0 imagedLaunch =
      BitVec.ofNat 64 (2 ^ 64 + 0x4000 - imageOffset % 2 ^ 64) + BitVec.ofNat 64 imageOffset := rfl
  have hend : (0x4000 : Dword).toNat = 0x4000 := rfl
  apply BitVec.eq_of_toNat_eq
  rw [haddr, hend, BitVec.toNat_add, BitVec.toNat_ofNat, BitVec.toNat_ofNat]
  omega

theorem savedCount_imagedStop : savedCount imagedStop.dev 0 0 imagedLaunch = 1 := by
  simp only [savedCount, queueAddr_imagedStop]
  rfl

/-- The copy that the image names: no page pauses it. -/
theorem savedCopy_imagedStop : ∃ q, savedCopy imagedStop.dev 0 0 0 imagedLaunch = (none, q) ∧ q.paused = none ∧
    q.issue.launch = 0 := by
  simp only [savedCopy, queueAddr_imagedStop]
  exact ⟨_, rfl, rfl, rfl⟩

/-- The device once the copy of the image is kept. -/
def copyKept (q : CopyCmd) : Dev :=
  { imagedStop.dev with
    copies := [(0, q)], names := 1, launches := [(0, { imagedLaunch with saved := [(0, [0])], imaged := [] })] }

theorem abandonSaved_imagedStop : ∃ q, q.paused = none ∧ q.issue.launch = 0 ∧
    abandonSaved imagedStop.dev 0 = copyKept q := by
  obtain ⟨q, hq, hpaused, hlaunch⟩ := savedCopy_imagedStop
  refine ⟨q, hpaused, hlaunch, ?_⟩
  have hl : launchAt imagedStop.dev 0 = some imagedLaunch := rfl
  have hheld : queueImageHeld imagedStop.dev 0 imagedLaunch = false := rfl
  have hgang : List.range imagedLaunch.gang.length = [0] := rfl
  have hone : List.range 1 = [0] := rfl
  have hdrop : dropUncounted imagedStop.dev 0 imagedLaunch = imagedStop.dev := by
    simp only [dropUncounted, hgang, List.foldl_cons, List.foldl_nil, savedCount_imagedStop]
    rfl
  have hsome : (imagedLaunch.saved.isEmpty && imagedLaunch.imaged.isEmpty) = false := rfl
  simp only [abandonSaved, hl, hsome, hheld, Bool.false_eq_true, if_false, hgang, hdrop, savedCount_imagedStop, hone,
    List.foldl_cons, List.foldl_nil, List.map_cons, List.map_nil, hq, hpaused]
  rfl

/-- The stop goes no further: the launch has a copy left. -/
theorem settleStop_imagedStop : ∃ q, settleStop imagedStop.dev 0 = copyKept q := by
  obtain ⟨q, hpaused, hlaunch, habandon⟩ := abandonSaved_imagedStop
  have hpause : abandonPaused imagedStop.dev 0 = copyKept q := by
    simp only [abandonPaused, habandon]
    simp [copyKept, hpaused]
  have hbusy : launchBusy (copyKept q) 0 = true := by simp [launchBusy, copiesLeft, copyKept, hlaunch]
  have hsettle : settleStop imagedStop.dev 0 = if launchBusy (abandonPaused imagedStop.dev 0) 0 then
      abandonPaused imagedStop.dev 0 else _ := rfl
  exact ⟨q, hsettle.trans (by rw [hpause, if_pos hbusy])⟩

/-- Refutes O55: a stopped launch whose image still names a copy does not complete at LAUNCH_FAULT. -/
theorem not_launchSteps : ¬ Obligations.LaunchSteps := by
  intro h
  obtain ⟨_, _, _, stopCompletes⟩ := h 0 imagedStop imagedLaunch rfl
  have hnone : ∀ q ∈ imagedStop.dev.copies, q.2.issue.launch ≠ 0 := List.forall_mem_nil _
  obtain ⟨t, z, _, ht, hl, hstate, _⟩ :=
    stopCompletes _ rfl rfl (by decide) rfl hnone rfl rfl rfl rfl rfl
  obtain ⟨q, hq⟩ := settleStop_imagedStop
  have hexec : exec (.launchFault 0) imagedStop = .next (setDev imagedStop (copyKept q)) :=
    congrArg (fun d => Host.Outcome.next (setDev imagedStop d)) hq
  rw [← Host.Outcome.next.inj (hexec.symm.trans ht), setDev_dev] at hl
  cases hl
  exact absurd hstate (by decide)

end Sys2Proof.Machine
end

section
/-! SUPPORT. The refutation of the statement on page events. A refetch page's fill waits while an entry of a scoreboard
still writes its backing page (R297, `fillHeld`), so that the page is not valid although its fill can be made: none of
the statement's premises speaks of the scoreboards. -/

namespace Sys2Proof.Machine

/-! ## The device: an engine still writes the page from which another page is filled -/

/-- A page of HBM to be fetched from the page at 0x41200000, with its granule. -/
def refetchPage : LttPage :=
  { state := 3, target := 2, perm := 7, evictable := false, fallback := true, denied := false, backing := 0x209,
    info := 0, output := 0, phys := some 1 }

/-- The page that backs it: the first of the vault. -/
def backingPage : LttPage :=
  { refetchPage with state := 1, target := 0, fallback := false, backing := 0, phys := none }

def refetchContext : Context :=
  { probeContext with
    regions := [(0, ⟨false, 2, 7, true, false, 0, 0⟩), (1, ⟨true, 0, 0, true, false, 0, 0⟩)],
    pages := [(0x208, refetchPage), (0x209, backingPage)] }

/-- A copy that has touched the page at 0x41000000, and waits for it. -/
def pausedCopy : CopyCmd := { waitingCopy with chan := 0, paused := some 0x41000000 }

/-- A command of stope 0 that still writes the first granule of the vault. -/
def drainEntry : SbEntry := ⟨9, 0, 0, 31, true⟩

def fillWaits : State :=
  { State.reset with dev := { devReset with
      parts := [(0, probePart)], ctxs := [(0, refetchContext)], launches := [(0, probeLaunch)],
      copies := [(7, pausedCopy)], stopes := [(0, { stopeReset with board := [drainEntry] })] } }

theorem refetch_fillWaits : refetch fillWaits.dev 0 0x208 = fillWaits.dev := by rfl

/-- Refutes O56: a fill that waits for a scoreboard leaves its page in State 3. -/
theorem not_pageEvents : ¬ Obligations.PageEvents := by
  intro h
  obtain ⟨_, refetchFills, _⟩ := h
  obtain ⟨t, e, ht, he, hstate, _⟩ := refetchFills 0 0x208 fillWaits refetchPage probeLaunch 0 1 0 (.vault 0 0)
    (.vault 0 (2 ^ 21 - 1)) rfl rfl rfl rfl rfl rfl rfl rfl rfl (.inl (by decide))
  have hexec : exec (.refetchFillComplete 0 0x208) fillWaits = .next fillWaits :=
    congrArg (fun d => Host.Outcome.next (setDev fillWaits d)) refetch_fillWaits
  rw [hexec] at ht
  cases ht
  have hpage : pageOf fillWaits.dev 0 0x208 = some refetchPage := rfl
  obtain rfl : refetchPage = e := Option.some.inj (hpage.symm.trans he)
  exact absurd hstate (by decide)

end Sys2Proof.Machine
end

section
/-! SUPPORT. Exact values and their rounding (R121, R123, R256): sums and products by signed numerators, quotients and
roots as the greatest whole number of units below, what each mode does to a magnitude with bits below the unit, and the
rounding of a normal value to FP32, its highest bit 23 places above the unit. -/

namespace Sys2Proof.Machine

/-! ## Exact sums and products (R121) -/

/-- The numerator with its sign. -/
def signedNum (x : Exact) : Int := if x.neg then -(x.num : Int) else x.num

theorem scaledInt_eq (x : Exact) (p : Int) : scaledInt x p = signedNum x * 2 ^ (x.exp - p).toNat := by
  have hcast : ((x.num * 2 ^ (x.exp - p).toNat : Nat) : Int) = x.num * 2 ^ (x.exp - p).toNat := by simp
  simp only [scaledInt, signedNum, Nat.shiftLeft_eq, hcast]
  split
  · exact (Int.neg_mul _ _).symm
  · rfl

theorem signedNum_ofInt (s p : Int) : signedNum ⟨s < 0, s.natAbs, p, false⟩ = s := by
  unfold signedNum
  split
  next h => rw [Int.ofNat_natAbs_of_nonpos (Int.le_of_lt (of_decide_eq_true h)), Int.neg_neg]
  next h => exact Int.natAbs_of_nonneg (Int.not_lt.1 fun hs => h (decide_eq_true hs))

theorem signedNum_mulExact (x y : Exact) : signedNum (mulExact x y) = signedNum x * signedNum y := by
  cases hx : x.neg <;> cases hy : y.neg <;> simp only [signedNum, mulExact, hx, hy, Int.natCast_mul, Int.neg_mul,
    Int.mul_neg, Int.neg_neg, bne_self_eq_false, Bool.true_bne, Bool.false_bne, Bool.not_false, Bool.false_eq_true,
    if_true, if_false]

/-- A finer unit multiplies the count of units. -/
theorem scaledInt_finer (x : Exact) {e p : Int} (he : e ≤ p) (hp : p ≤ x.exp) :
    scaledInt x e = scaledInt x p * 2 ^ (p - e).toNat := by
  have hsplit : (x.exp - e).toNat = (x.exp - p).toNat + (p - e).toNat := by omega
  rw [scaledInt_eq, scaledInt_eq, hsplit, Int.pow_add, Int.mul_assoc]

theorem scaledInt_addExact (x y : Exact) (z : Bool) {e : Int} (hx : e ≤ x.exp) (hy : e ≤ y.exp) :
    scaledInt (addExact x y z) e = scaledInt x e + scaledInt y e := by
  have hp : e ≤ min x.exp y.exp := Int.le_min.2 ⟨hx, hy⟩
  rw [scaledInt_finer x hp (Int.min_le_left _ _), scaledInt_finer y hp (Int.min_le_right _ _), ← Int.add_mul, addExact]
  split
  next hzero => rw [hzero, Int.zero_mul, scaledInt_eq]; simp [signedNum, exactZero]
  next => rw [scaledInt_eq, signedNum_ofInt]

theorem scaledInt_mulExact (x y : Exact) {d e : Int} (hx : d ≤ x.exp) (hy : e ≤ y.exp) :
    scaledInt (mulExact x y) (d + e) = scaledInt x d * scaledInt y e := by
  have hsplit : ((mulExact x y).exp - (d + e)).toNat = (x.exp - d).toNat + (y.exp - e).toNat := by
    simp only [mulExact]
    omega
  rw [scaledInt_eq, scaledInt_eq, scaledInt_eq, signedNum_mulExact, hsplit, Int.pow_add]
  ac_rfl

/-! ## Quotients and square roots, cut to whole units (R256) -/

theorem divExact_cut (x y : Exact) (hy : y.num ≠ 0) : ∃ n : Nat, (divExact x y).exp = x.exp - y.exp - n ∧
    (divExact x y).num * y.num ≤ x.num * 2 ^ n ∧ x.num * 2 ^ n < ((divExact x y).num + 1) * y.num ∧
    ((divExact x y).tail = true ↔ (divExact x y).num * y.num ≠ x.num * 2 ^ n) ∧
    ((divExact x y).neg = true ↔ x.neg ≠ y.neg) := by
  refine ⟨120 + y.num.log2, rfl, ?_⟩
  simp only [divExact, Nat.shiftLeft_eq]
  generalize x.num * 2 ^ (120 + y.num.log2) = a
  refine ⟨Nat.div_mul_le_self .., (Nat.div_lt_iff_lt_mul (Nat.pos_of_ne_zero hy)).1 (Nat.lt_succ_self _), ?_,
    by simp⟩
  have hsum := Nat.div_add_mod' a y.num
  rw [bne_iff_ne]
  omega

/-- Each bit keeps the root within reach: acc² ≤ n < (acc + 2^k)². -/
theorem isqrtBits_bounds (n k acc : Nat) (hlo : acc ^ 2 ≤ n) (hhi : n < (acc + 2 ^ k) ^ 2) :
    isqrtBits n k acc ^ 2 ≤ n ∧ n < (isqrtBits n k acc + 1) ^ 2 := by
  induction k generalizing acc with
  | zero => exact ⟨hlo, hhi⟩
  | succ k ih =>
    rw [isqrtBits]
    split
    next hbit => exact ih _ (by rwa [Nat.pow_two]) (by rwa [Nat.add_assoc, ← Nat.two_mul, ← Nat.pow_succ'])
    next hbit => exact ih _ hlo (by rw [Nat.pow_two]; omega)

theorem isqrt_bounds (n : Nat) : isqrt n ^ 2 ≤ n ∧ n < (isqrt n + 1) ^ 2 := by
  refine isqrtBits_bounds n _ 0 (Nat.zero_le _) ?_
  calc n < 2 ^ (n.log2 + 1) := Nat.lt_log2_self
    _ ≤ 2 ^ ((n.log2 / 2 + 1) * 2) := Nat.pow_le_pow_right (by decide) (by omega)
    _ = (0 + 2 ^ (n.log2 / 2 + 1)) ^ 2 := by rw [Nat.zero_add, Nat.pow_mul]

theorem sqrtExact_cut (x : Exact) : ∃ n : Nat, x.exp - 2 * (sqrtExact x).exp = n ∧
    (sqrtExact x).num ^ 2 ≤ x.num * 2 ^ n ∧ x.num * 2 ^ n < ((sqrtExact x).num + 1) ^ 2 ∧
    ((sqrtExact x).tail = true ↔ (sqrtExact x).num ^ 2 ≠ x.num * 2 ^ n) := by
  refine ⟨(x.exp % 2).toNat + 256, ?_, ?_⟩
  · simp only [sqrtExact]
    omega
  · simp only [sqrtExact, Nat.shiftLeft_eq]
    obtain ⟨hlo, hhi⟩ := isqrt_bounds (x.num * 2 ^ ((x.exp % 2).toNat + 256))
    exact ⟨hlo, hhi, by rw [bne_iff_ne, Nat.pow_two]⟩

/-! ## Rounding by mode (R123) -/

/-- An exact magnitude n · 2^e read in units of 2^(e + k). -/
theorem floorAt_units (neg : Bool) (n k : Nat) (e : Int) : floorAt ⟨neg, n, e, false⟩ (e + k) = n / 2 ^ k := by
  rw [floorAt]
  split
  next h =>
    obtain rfl : k = 0 := by dsimp only at h; omega
    simp
  next =>
    have hcut : (e + k - e).toNat = k := by omega
    dsimp only
    rw [hcut, Nat.shiftRight_eq_div_pow]

theorem inexactAt_units (neg : Bool) (n k : Nat) (e : Int) :
    inexactAt ⟨neg, n, e, false⟩ (e + k) = true ↔ n % 2 ^ k ≠ 0 := by
  have hcut : (e + k - e).toNat = k := by omega
  cases k with
  | zero => simp [inexactAt, Nat.mod_one]
  | succ k =>
    have hlt : e + ((k + 1 : Nat) : Int) > e := by omega
    simp only [inexactAt, hlt, hcut, decide_true, Bool.true_and, Bool.false_or, bne_iff_ne]

theorem roundMag_of_exact {m : Mode} {seed : Dword} {x : Exact} {p : Int} (h : inexactAt x p = false) :
    roundMag m seed x p = floorAt x p := by
  simp [roundMag, roundsUp, h]

theorem roundMag_of_inexact {seed : Dword} {x : Exact} {p : Int} (h : inexactAt x p = true) :
    roundMag .rtz seed x p = floorAt x p ∧
    roundMag .rup seed x p = (if x.neg then floorAt x p else floorAt x p + 1) ∧
    roundMag .rdn seed x p = (if x.neg then floorAt x p + 1 else floorAt x p) ∧
    (roundMag .rsh seed x p = floorAt x p ∨ roundMag .rsh seed x p = floorAt x p + 1) := by
  cases hneg : x.neg <;> cases hup : hashUp seed x p <;> simp [roundMag, roundsUp, h, hneg, hup]

/-- RNE looks at the highest bit that is cut, the rest of them, and the lowest bit that stays. -/
theorem roundMag_rne {seed : Dword} {neg : Bool} {n k : Nat} {e : Int} (h : n % 2 ^ k ≠ 0) :
    let r := roundMag .rne seed ⟨neg, n, e, false⟩ (e + k)
    2 * (n % 2 ^ k) < 2 ^ k ∧ r = n / 2 ^ k ∨ 2 ^ k < 2 * (n % 2 ^ k) ∧ r = n / 2 ^ k + 1 ∨
      2 ^ k = 2 * (n % 2 ^ k) ∧ r % 2 = 0 ∧ (r = n / 2 ^ k ∨ r = n / 2 ^ k + 1) := by
  obtain ⟨j, rfl⟩ : ∃ j, k = j + 1 := Nat.exists_eq_succ_of_ne_zero (by rintro rfl; simp [Nat.mod_one] at h)
  have hin := (inexactAt_units neg n (j + 1) e).2 h
  have hhalf := inexactAt_units neg n j e
  have hpos : e + ((j + 1 : Nat) : Int) - 1 = e + j := by omega
  have hsplit : n % 2 ^ (j + 1) = n % 2 ^ j + 2 ^ j * (n / 2 ^ j % 2) := by rw [Nat.pow_succ, Nat.mod_mul]
  have hrest := Nat.mod_lt n (Nat.two_pow_pos j)
  simp only [roundMag, roundsUp, hin, hpos, floorAt_units, Bool.true_and, Bool.and_eq_true, Bool.or_eq_true, beq_iff_eq,
    hhalf]
  rw [hsplit, Nat.pow_succ]
  obtain hbit | hbit := Nat.mod_two_eq_zero_or_one (n / 2 ^ j)
  · left
    simp only [hbit, Nat.zero_ne_one, false_and, if_false, Nat.mul_zero, Nat.add_zero, and_true]
    omega
  · by_cases hl : n % 2 ^ j = 0
    · right; right
      simp only [hbit, hl, ne_eq, not_true_eq_false, false_or, true_and, Nat.mul_one, Nat.zero_add]
      split <;> omega
    · right; left
      simp only [hbit, hl, ne_eq, not_false_eq_true, true_or, if_true, Nat.mul_one, and_true]
      omega

/-! ## Rounding to FP32 (R122, R123) -/

/-- Cut k bits below its highest bit, a magnitude has k + 1 bits. -/
theorem floorAt_top {x : Exact} (hx : x.num ≠ 0) (k : Nat) :
    2 ^ k ≤ floorAt x (topExact x - k) ∧ floorAt x (topExact x - k) < 2 ^ (k + 1) := by
  have hlo := Nat.log2_self_le hx
  have hhi : x.num < 2 ^ (x.num.log2 + 1) := Nat.lt_log2_self
  rw [floorAt, topExact]
  split
  next h =>
    obtain ⟨j, rfl⟩ : ∃ j, k = x.num.log2 + j := Nat.exists_eq_add_of_le (by omega)
    have hj : (x.exp - (x.num.log2 + x.exp - (x.num.log2 + j : Nat))).toNat = j := by omega
    rw [hj, Nat.shiftLeft_eq, Nat.add_right_comm, Nat.pow_add, Nat.pow_add _ _ j]
    exact ⟨Nat.mul_le_mul_right _ hlo, Nat.mul_lt_mul_of_pos_right hhi (Nat.two_pow_pos j)⟩
  next h =>
    obtain ⟨j, hj⟩ : ∃ j, x.num.log2 = k + j := Nat.exists_eq_add_of_le (by omega)
    have hcut : (x.num.log2 + x.exp - k - x.exp).toNat = j := by omega
    rw [hcut, Nat.shiftRight_eq_div_pow, Nat.le_div_iff_mul_le (Nat.two_pow_pos j),
      Nat.div_lt_iff_lt_mul (Nat.two_pow_pos j), ← Nat.pow_add, ← Nat.pow_add, Nat.add_right_comm, ← hj]
    exact ⟨hlo, hhi⟩

theorem floorAt_le_roundMag (m : Mode) (seed : Dword) (x : Exact) (p : Int) : floorAt x p ≤ roundMag m seed x p :=
  Nat.le_add_right _ _

/-- A normal magnitude is rounded 23 bits below its highest bit, and its code carries the exponent above them. -/
theorem roundFp32_of_normal {m : Mode} {seed : Dword} {x : Exact} (hx : x.num ≠ 0) (hlo : -126 ≤ topExact x) :
    roundFp32 m seed x =
      let code := (topExact x + 126).toNat * 2 ^ 23 + roundMag m seed x (topExact x - (23 : Nat))
      if 0x7F7FFFFF < code then
        (BitVec.ofNat 32 (signCode fmtFp32 x.neg (overflowCode fmtFp32 m false x.neg)), flagOF ||| flagNX)
      else
        (BitVec.ofNat 32 (signCode fmtFp32 x.neg code),
          if inexactAt x (topExact x - (23 : Nat)) then flagNX else 0) := by
  have hmax : maxCode fmtFp32 = 0x7F7FFFFF := rfl
  have hmin : (1 : Int) - (127 : Nat) = -126 := rfl
  have htiny : ¬ topExact x < -126 := by omega
  have hexp : (topExact x - (23 : Nat) + (23 : Nat) + (127 : Nat) - 1).toNat = (topExact x + 126).toNat := by omega
  have hbig : max (topExact x) (-126) = topExact x := Int.max_eq_left hlo
  have hmb : fmtFp32.mb = 23 := rfl
  have hbias : fmtFp32.bias = 127 := rfl
  simp only [roundFp32, roundFloat, hx, false_and, if_false, hmax, hmin, hbig, hmb, hbias, hexp, htiny, decide_false,
    Bool.false_and, Bool.and_false, Bool.false_eq_true]
  split
  · rfl
  · simp

theorem roundFp32_overflow {m : Mode} {seed : Dword} {x : Exact} (hx : x.num ≠ 0) (htop : 128 ≤ topExact x) :
    roundFp32 m seed x =
      (BitVec.ofNat 32 (signCode fmtFp32 x.neg (overflowCode fmtFp32 m false x.neg)), flagOF ||| flagNX) := by
  have hfloor := (floorAt_top hx 23).1
  have hround := floorAt_le_roundMag m seed x (topExact x - (23 : Nat))
  rw [roundFp32_of_normal hx (by omega)]
  exact if_pos (by omega)

/-- A normal value of at most 24 bits is not rounded. -/
theorem roundFp32_of_exact {m : Mode} {seed : Dword} {x : Exact} (hx : x.num ≠ 0) (hlo : -126 ≤ topExact x)
    (hhi : topExact x ≤ 127) (hexact : inexactAt x (topExact x - (23 : Nat)) = false) :
    roundFp32 m seed x =
      (BitVec.ofNat 32 (signCode fmtFp32 x.neg
        ((topExact x + 126).toNat * 2 ^ 23 + floorAt x (topExact x - (23 : Nat)))), 0) := by
  have hfloor := (floorAt_top hx 23).2
  rw [roundFp32_of_normal hx hlo, roundMag_of_exact hexact, hexact]
  exact if_neg (by omega)

end Sys2Proof.Machine
end

section
/-! SUPPORT. What an FP32 word reads as, told by its fields, and the results for NaNs, infinities and zeros (R122, R256,
R258, R264). -/

namespace Sys2Proof.Machine

/-! ## Reading FP32 words (R122) -/

theorem getLsbD_eq_div (w : Word) (i : Nat) : w.getLsbD i = decide (w.toNat / 2 ^ i % 2 = 1) :=
  Nat.testBit_eq_decide_div_mod_eq

theorem readFp32_eq (w : Word) : readFp32 w =
    if w.toNat / 2 ^ 23 % 256 = 255 then
      if w.toNat % 2 ^ 23 = 0 then .inf (w.getLsbD 31) else .nan (decide (w.toNat % 2 ^ 23 < 2 ^ 22))
    else .fin (finVal fmtFp32 (w.getLsbD 31) (w.toNat / 2 ^ 23 % 256) (w.toNat % 2 ^ 23)) := by
  simp only [getLsbD_eq_div, ← Nat.shiftRight_eq_div_pow]
  rfl

theorem nanWord_iff (w : Word) : nanWord w = true ↔ w.toNat / 2 ^ 23 % 256 = 255 ∧ w.toNat % 2 ^ 23 ≠ 0 := by
  rw [nanWord, decide_eq_true_iff]
  omega

theorem readFp32_of_nan {w : Word} (h : nanWord w = true) : readFp32 w = .nan (snanWord w) := by
  obtain ⟨hexp, hfrac⟩ := (nanWord_iff w).1 h
  have hquiet : (!w.getLsbD 22) = decide (w.toNat % 2 ^ 23 < 2 ^ 22) := by
    rw [getLsbD_eq_div, ← decide_not]
    exact decide_eq_decide.2 (by omega)
  rw [readFp32_eq, if_pos hexp, if_neg hfrac, snanWord, h, Bool.true_and, hquiet]

theorem isNan_readFp32 (w : Word) : isNan (readFp32 w) = nanWord w := by
  cases h : nanWord w with
  | true => rw [readFp32_of_nan h]; rfl
  | false =>
    rw [readFp32_eq]
    split
    next hexp =>
      rw [if_pos (Decidable.byContradiction fun hfrac => by simp [(nanWord_iff w).2 ⟨hexp, hfrac⟩] at h)]
      rfl
    next => rfl

theorem isSnan_readFp32 (w : Word) : isSnan (readFp32 w) = snanWord w := by
  cases h : nanWord w with
  | true => rw [readFp32_of_nan h]; rfl
  | false =>
    have hnan := isNan_readFp32 w
    rw [h] at hnan
    rw [snanWord, h, Bool.false_and]
    cases hw : readFp32 w with
    | nan s => rw [hw] at hnan; cases hnan
    | inf n => rfl
    | fin x => rfl

@[simp] theorem readFp32_infFp32 (n : Bool) : readFp32 (infFp32 n) = .inf n := by cases n <;> rfl

theorem readFp32_finite {w : Word} (h : w.toNat % 2 ^ 31 < 0x7F800000) :
    ∃ x, readFp32 w = .fin x ∧ x.neg = w.getLsbD 31 ∧ (x.num = 0 ↔ w.toNat % 2 ^ 31 = 0) := by
  rw [readFp32_eq, if_neg (by omega)]
  refine ⟨_, rfl, ?_⟩
  rw [finVal]
  split
  next => exact ⟨rfl, by dsimp only; omega⟩
  next =>
    have hlead : 0 < 2 ^ fmtFp32.mb := Nat.two_pow_pos _
    exact ⟨rfl, by dsimp only; omega⟩

theorem fp32Key_eq_zero_iff (w : Word) : fp32Key w = 0 ↔ w.toNat % 2 ^ 31 = 0 := by
  have hmag : fp32Key w = 0 ↔ (if w.toNat / 2 ^ 23 % 256 = 0 then w.toNat % 2 ^ 23
      else (2 ^ 23 + w.toNat % 2 ^ 23) * 2 ^ (w.toNat / 2 ^ 23 % 256 - 1)) = 0 := by
    unfold fp32Key
    dsimp only
    split <;> omega
  rw [hmag]
  split
  next => omega
  next hexp => simp only [Nat.mul_eq_zero, Nat.pow_eq_zero]; omega

theorem readFp32_zero {w : Word} (h : fp32Key w = 0) :
    ∃ x, readFp32 w = .fin x ∧ x.neg = w.getLsbD 31 ∧ x.num = 0 := by
  have hzero := (fp32Key_eq_zero_iff w).1 h
  obtain ⟨x, hx, hneg, hnum⟩ := readFp32_finite (w := w) (by omega)
  exact ⟨x, hx, hneg, hnum.2 hzero⟩

theorem readFp32_negative {w : Word} (hnan : nanWord w = false) (h : fp32Key w < 0) :
    readFp32 w = .inf true ∨ ∃ x, readFp32 w = .fin x ∧ x.neg = true ∧ x.num ≠ 0 := by
  have hsign : w.getLsbD 31 = true := by
    refine eq_true_of_ne_false fun hpos => ?_
    simp only [fp32Key, hpos, Bool.false_eq_true, if_false] at h
    omega
  have hnum : ¬ w.toNat % 2 ^ 31 = 0 := fun hz => by have := (fp32Key_eq_zero_iff w).2 hz; omega
  have hfin : ¬ (w.toNat / 2 ^ 23 % 256 = 255 ∧ w.toNat % 2 ^ 23 ≠ 0) := by
    rw [← nanWord_iff, hnan]
    exact Bool.false_ne_true
  by_cases htop : w.toNat % 2 ^ 31 < 0x7F800000
  · obtain ⟨x, hx, hneg, hzero⟩ := readFp32_finite htop
    exact .inr ⟨x, hx, hneg.trans hsign, mt hzero.1 hnum⟩
  · rw [readFp32_eq, if_pos (by omega), if_pos (by omega), hsign]
    exact .inl rfl

/-! ## NaNs, infinities and zeros (R122, R256, R258, R264) -/

section
variable (m : Mode) (k : Dword)

theorem eq_nan_of_isNan {v : FVal} (h : isNan v = true) : v = .nan (isSnan v) := by
  cases v with
  | nan s => rfl
  | inf n => cases h
  | fin x => cases h

@[simp] theorem isNan_fpNegVal (v : FVal) : isNan (fpNegVal v) = isNan v := by cases v <;> rfl

@[simp] theorem isSnan_fpNegVal (v : FVal) : isSnan (fpNegVal v) = isSnan v := by cases v <;> rfl

theorem fpAddVal_of_nan {u v : FVal} (h : isNan u = true ∨ isNan v = true) :
    fpAddVal m k u v = nanOf (isSnan u || isSnan v) := by
  obtain hu | hv := h
  · rw [eq_nan_of_isNan hu]
    cases v <;> simp [fpAddVal, isSnan]
  · rw [eq_nan_of_isNan hv]
    cases u <;> simp [fpAddVal, isSnan]

variable {a b : Word} (h : nanWord a = true ∨ nanWord b = true)
include h

theorem fpAdd_of_nan : fpAdd m k a b = nanOf (snanWord a || snanWord b) := by
  rw [fpAdd, fpAddVal_of_nan m k (by simpa only [isNan_readFp32] using h), isSnan_readFp32, isSnan_readFp32]

theorem fpSub_of_nan : fpSub m k a b = nanOf (snanWord a || snanWord b) := by
  rw [fpSub, fpAddVal_of_nan m k (by simpa only [isNan_fpNegVal, isNan_readFp32] using h), isSnan_fpNegVal,
    isSnan_readFp32, isSnan_readFp32]

theorem fpMul_of_nan : fpMul m k a b = nanOf (snanWord a || snanWord b) := by
  obtain ha | hb := h
  · rw [fpMul, readFp32_of_nan ha, ← isSnan_readFp32 b]
    cases readFp32 b <;> simp [isSnan]
  · rw [fpMul, readFp32_of_nan hb, ← isSnan_readFp32 a]
    cases readFp32 a <;> simp [isSnan]

theorem fpDiv_of_nan : fpDiv m k a b = nanOf (snanWord a || snanWord b) := by
  obtain ha | hb := h
  · rw [fpDiv, readFp32_of_nan ha, ← isSnan_readFp32 b]
    cases readFp32 b <;> simp [isSnan]
  · rw [fpDiv, readFp32_of_nan hb, ← isSnan_readFp32 a]
    cases readFp32 a <;> simp [isSnan]

theorem fpFma_of_nan (np nd : Bool) {d : Word} (hd : snanWord d = false) :
    fpFma m k np nd a b d = nanOf (snanWord a || snanWord b) := by
  have haddend : isSnan (if nd then fpNegVal (readFp32 d) else readFp32 d) = false := by
    cases nd <;> simp [isSnan_readFp32, hd]
  simp only [fpFma, haddend, Bool.or_false]
  obtain ha | hb := h
  · rw [readFp32_of_nan ha, ← isSnan_readFp32 b]
    simp [isSnan]
  · rw [readFp32_of_nan hb, ← isSnan_readFp32 a]
    cases readFp32 a <;> simp [isSnan]

end

theorem singleOperand_of_nan (m : Mode) (k : Dword) {a : Word} (h : nanWord a = true) :
    ∀ r ∈ [fpSqrt m k a, fpAbs a, fpExp2 a, fpLog2 a, fpRcp a, fpRsqrt a, fpSinpi a, fpTanh a],
      r = nanOf (snanWord a) := by
  simp only [List.forall_mem_cons, fpSqrt, fpAbs, fpExp2, fpLog2, fpRcp, fpRsqrt, fpSinpi, fpTanh, readFp32_of_nan h,
    true_and]
  exact List.forall_mem_nil _

section
variable (m : Mode) (k : Dword) (n p : Bool)

/-- Infinities of opposite signs have no sum. -/
theorem fpAdd_infFp32 (h : n ≠ p) : fpAdd m k (infFp32 n) (infFp32 p) = invalidRes := by
  simp [fpAdd, fpAddVal, h]

theorem fpSub_infFp32 : fpSub m k (infFp32 n) (infFp32 n) = invalidRes := by
  cases n <;> simp [fpSub, fpAddVal, fpNegVal]

theorem fpDiv_infFp32 : fpDiv m k (infFp32 n) (infFp32 p) = invalidRes := by
  simp [fpDiv]

variable {a : Word} (ha : fp32Key a = 0)
include ha

theorem fpMul_infFp32_zero : fpMul m k (infFp32 n) a = invalidRes ∧ fpMul m k a (infFp32 n) = invalidRes := by
  obtain ⟨x, hx, -, hzero⟩ := readFp32_zero ha
  simp [fpMul, hx, hzero]

theorem fpFma_infFp32_zero (np nd : Bool) (d : Word) :
    fpFma m k np nd (infFp32 n) a d = invalidRes ∧ fpFma m k np nd a (infFp32 n) d = invalidRes := by
  obtain ⟨x, hx, -, hzero⟩ := readFp32_zero ha
  simp [fpFma, hx, hzero]

theorem fpDiv_zero_zero : fpDiv m k a a = invalidRes := by
  obtain ⟨x, hx, -, hzero⟩ := readFp32_zero ha
  simp [fpDiv, hx, hzero]

theorem fpDiv_zero {b : Word} (hb : b.toNat % 2 ^ 31 < 0x7F800000) (hb0 : fp32Key b ≠ 0) :
    fpDiv m k b a = (infFp32 (b.getLsbD 31 != a.getLsbD 31), flagDZ) := by
  obtain ⟨x, hx, hxneg, hxzero⟩ := readFp32_zero ha
  obtain ⟨y, hy, hyneg, hyzero⟩ := readFp32_finite hb
  have hnum : y.num ≠ 0 := fun h => hb0 ((fp32Key_eq_zero_iff b).2 (hyzero.1 h))
  simp only [fpDiv, hx, hy, hxzero, hnum, if_true, if_false, hxneg, hyneg]

end

theorem invalid_of_negative (m : Mode) (k : Dword) {a : Word} (hnan : nanWord a = false) (h : fp32Key a < 0) :
    fpSqrt m k a = invalidRes ∧ fpLog2 a = invalidRes ∧ fpRsqrt a = invalidRes := by
  obtain ha | ⟨x, ha, hneg, hnum⟩ := readFp32_negative hnan h
  · simp [fpSqrt, fpLog2, fpRsqrt, ha]
  · simp [fpSqrt, fpLog2, fpRsqrt, ha, hneg, hnum]

end Sys2Proof.Machine
end

section
/-! SUPPORT. Powers of two and small integers as FP32 words, the special functions at them (R264), and the statement on
floating-point arithmetic. -/

namespace Sys2Proof.Machine

/-! ## Powers of two (R264) -/

theorem signCode_fmtFp32 (neg : Bool) (c : Nat) : signCode fmtFp32 neg c = if neg then c + 2 ^ 31 else c := rfl

/-- The code of the normal value q · 2^(e - 149), the leading bit of q being 2^23. -/
theorem readFp32_signCode {neg : Bool} {e q : Nat} (he : e ≤ 253) (hlo : 2 ^ 23 ≤ q) (hhi : q < 2 ^ 24) :
    readFp32 (BitVec.ofNat 32 (signCode fmtFp32 neg (e * 2 ^ 23 + q))) = .fin ⟨neg, q, (e : Int) - 149, false⟩ := by
  have hmag : e * 2 ^ 23 + q < 2 ^ 31 := by omega
  rw [signCode_fmtFp32]
  generalize hw : BitVec.ofNat 32 (if neg then e * 2 ^ 23 + q + 2 ^ 31 else e * 2 ^ 23 + q) = w
  have hval : w.toNat = if neg then e * 2 ^ 23 + q + 2 ^ 31 else e * 2 ^ 23 + q := by
    rw [← hw, BitVec.toNat_ofNat]
    split <;> omega
  have hsign : w.getLsbD 31 = neg := by
    rw [getLsbD_eq_div, hval]
    cases neg
    · exact decide_eq_false (by simp only [Bool.false_eq_true, if_false]; omega)
    · exact decide_eq_true (by simp only [if_true]; omega)
  have hexp : w.toNat / 2 ^ 23 % 256 = e + 1 := by
    rw [hval]
    split <;> omega
  have hfrac : w.toNat % 2 ^ 23 = q - 2 ^ 23 := by
    rw [hval]
    split <;> omega
  have hnum : 2 ^ fmtFp32.mb + (q - 2 ^ 23) = q := Nat.add_sub_cancel' hlo
  have hunit : ((e + 1 : Nat) : Int) - fmtFp32.bias - fmtFp32.mb = e - 149 := by
    have hbias : fmtFp32.bias = 127 := rfl
    have hmb : fmtFp32.mb = 23 := rfl
    omega
  rw [readFp32_eq, hexp, hfrac, hsign, if_neg (by omega), finVal, if_neg (by omega), hnum, hunit]

/-- A value that is not rounded is read back, its numerator brought to 24 bits. -/
theorem readFp32_roundFp32 {m : Mode} {seed : Dword} {x : Exact} (hx : x.num ≠ 0) (hlo : -126 ≤ topExact x)
    (hhi : topExact x ≤ 127) (hexact : inexactAt x (topExact x - (23 : Nat)) = false) :
    readFp32 (roundFp32 m seed x).1 =
      .fin ⟨x.neg, floorAt x (topExact x - (23 : Nat)), topExact x - (23 : Nat), false⟩ := by
  obtain ⟨hq, hq'⟩ := floorAt_top hx 23
  have hunit : (((topExact x + 126).toNat : Nat) : Int) - 149 = topExact x - (23 : Nat) := by omega
  rw [roundFp32_of_exact hx hlo hhi hexact, readFp32_signCode (by omega) hq hq', hunit]

theorem floorAt_powerOfTwo (neg : Bool) (j k : Nat) (e : Int) :
    floorAt ⟨neg, 2 ^ j, e, false⟩ (j + e - k) = 2 ^ k := by
  rw [floorAt]
  split
  next h =>
    have hup : j + (e - (j + e - k)).toNat = k := by dsimp only at h; omega
    rw [Nat.shiftLeft_eq, ← Nat.pow_add, hup]
  next h =>
    obtain ⟨i, rfl⟩ : ∃ i, j = k + i := Nat.exists_eq_add_of_le (by dsimp only at h; omega)
    have hcut : ((k + i : Nat) + e - k - e).toNat = i := by omega
    rw [Nat.shiftRight_eq_div_pow, hcut, Nat.pow_add, Nat.mul_div_cancel _ (Nat.two_pow_pos i)]

theorem inexactAt_powerOfTwo (neg : Bool) (j k : Nat) (e : Int) :
    inexactAt ⟨neg, 2 ^ j, e, false⟩ (j + e - k) = false := by
  have hdvd : 2 ^ (j + e - k - e).toNat ∣ 2 ^ j := Nat.pow_dvd_pow 2 (by omega)
  simp [inexactAt, Nat.mod_eq_zero_of_dvd hdvd]

theorem topExact_powerOfTwo (neg t : Bool) (j : Nat) (e : Int) : topExact ⟨neg, 2 ^ j, e, t⟩ = j + e := by
  rw [topExact, Nat.log2_two_pow]

theorem powerWord_eq {n : Int} (hlo : -126 ≤ n) :
    powerWord n = BitVec.ofNat 32 (signCode fmtFp32 false ((n + 126).toNat * 2 ^ 23 + 2 ^ 23)) := by
  have hcode : (n + 127) * 2 ^ 23 = (((n + 126).toNat * 2 ^ 23 + 2 ^ 23 : Nat) : Int) := by omega
  rw [powerWord, hcode, BitVec.ofInt_natCast, signCode_fmtFp32, if_neg Bool.false_ne_true]

theorem roundFp32_powerOfTwo {m : Mode} {seed : Dword} {j : Nat} {e : Int} (hlo : -126 ≤ j + e)
    (hhi : j + e ≤ 127) : roundFp32 m seed ⟨false, 2 ^ j, e, false⟩ = (powerWord (j + e), 0) := by
  have htop := topExact_powerOfTwo false false j e
  rw [roundFp32_of_exact (Nat.ne_of_gt (Nat.two_pow_pos j)) (htop ▸ hlo) (htop ▸ hhi)
    (htop ▸ inexactAt_powerOfTwo false j 23 e), htop, floorAt_powerOfTwo, powerWord_eq hlo]

theorem readFp32_powerWord {n : Int} (hlo : -126 ≤ n) (hhi : n ≤ 127) :
    readFp32 (powerWord n) = .fin ⟨false, 2 ^ 23, n - 23, false⟩ := by
  have hunit : (((n + 126).toNat : Nat) : Int) - 149 = n - 23 := by omega
  rw [powerWord_eq hlo, readFp32_signCode (by omega) (Nat.le_refl _) (by decide), hunit]

theorem fpLog2_powerWord {n : Int} (hlo : -126 ≤ n) (hhi : n ≤ 127) :
    fpLog2 (powerWord n) = roundFp32 .rne 0 (exactInt n) := by
  have hne : (2 ^ 23 : Nat) ≠ 0 := by decide
  have htop : topExact ⟨false, 2 ^ 23, n - 23, false⟩ = n := by rw [topExact_powerOfTwo]; omega
  simp only [fpLog2, readFp32_powerWord hlo hhi, Nat.log2_two_pow, hne, Bool.false_eq_true, if_false, if_true, htop,
    specialRnd]

theorem fpRcp_powerWord {n : Int} (hlo : -126 ≤ n) (hhi : n ≤ 126) : fpRcp (powerWord n) = (powerWord (-n), 0) := by
  have hne : (2 ^ 23 : Nat) ≠ 0 := by decide
  have hquot : divExact (exactInt 1) ⟨false, 2 ^ 23, n - 23, false⟩ = ⟨false, 2 ^ 120, -n - 120, false⟩ := by
    have hexp : (0 : Int) - (n - 23) - (120 + 23 : Nat) = -n - 120 := by omega
    simp only [divExact, Nat.log2_two_pow]
    exact congrArg (Exact.mk false (2 ^ 120) · false) hexp
  have htop : ((120 : Nat) : Int) + (-n - 120) = -n := by omega
  simp only [fpRcp, readFp32_powerWord hlo (by omega), hne, if_false, hquot, specialRnd]
  rw [roundFp32_powerOfTwo (by omega) (by omega), htop]

theorem isqrt_sq (r : Nat) : isqrt (r ^ 2) = r := by
  obtain ⟨hlo, hhi⟩ := isqrt_bounds (r ^ 2)
  have hle := (Nat.pow_le_pow_iff_left (by decide)).1 hlo
  have hlt := (Nat.pow_lt_pow_iff_left (by decide)).1 hhi
  omega

theorem fpRsqrt_powerWord {n : Int} (hlo : -126 ≤ 2 * n) (hhi : 2 * n ≤ 126) :
    fpRsqrt (powerWord (2 * n)) = (powerWord (-n), 0) := by
  have hne : (2 ^ 23 : Nat) ≠ 0 := by decide
  have hroot : rsqrtExact ⟨false, 2 ^ 23, 2 * n - 23, false⟩ = ⟨false, 2 ^ 148, -n - 148, false⟩ := by
    have hodd : (2 * n - 23) % 2 = 1 := by omega
    have hexp : -((160 : Nat) : Int) - (2 * n - 23 - 1) / 2 = -n - 148 := by omega
    have hnum : (2 ^ 23) <<< (1 : Int).toNat = 2 ^ 24 := rfl
    have hrem (r : Nat) : 2 ^ (2 * (r + 12)) % 2 ^ 24 = 0 := Nat.mod_eq_zero_of_dvd (Nat.pow_dvd_pow 2 (by omega))
    have hquot (r : Nat) : 2 ^ (2 * (r + 12)) / 2 ^ 24 = (2 ^ r) ^ 2 := by
      rw [Nat.mul_add, Nat.pow_add, Nat.mul_div_cancel _ (Nat.two_pow_pos 24), Nat.pow_mul']
    simp only [rsqrtExact, hodd, hexp, hnum, hrem 148, hquot 148, isqrt_sq, ← Nat.pow_two, beq_self_eq_true,
      Bool.and_self, Bool.not_true]
  have htop : ((148 : Nat) : Int) + (-n - 148) = -n := by omega
  simp only [fpRsqrt, readFp32_powerWord hlo (by omega), hne, Bool.false_eq_true, if_false, hroot, specialRnd]
  rw [roundFp32_powerOfTwo (by omega) (by omega), htop]

/-- An integer in the exponent's range is an FP32 number with k ≤ 23 bits of fraction that are all 0. -/
theorem readFp32_roundFp32_exactInt {n : Int} (hn : n ≠ 0) (habs : n.natAbs < 2 ^ 8) : ∃ k : Nat,
    readFp32 (roundFp32 .rne 0 (exactInt n)).1 = .fin ⟨n < 0, n.natAbs * 2 ^ k, 0 - k, false⟩ := by
  have hnum : (exactInt n).num ≠ 0 := Int.natAbs_ne_zero.2 hn
  have hlog : n.natAbs.log2 < 8 := (Nat.log2_lt (Int.natAbs_ne_zero.2 hn)).2 habs
  have htop : topExact (exactInt n) = n.natAbs.log2 := by simp [topExact, exactInt]
  have hpos : topExact (exactInt n) - (23 : Nat) ≤ (exactInt n).exp := by
    rw [htop]
    simp only [exactInt]
    omega
  have hexact : inexactAt (exactInt n) (topExact (exactInt n) - (23 : Nat)) = false := by
    simp only [inexactAt, Int.not_lt.2 hpos, decide_false, Bool.false_and, Bool.or_false]
    rfl
  refine ⟨23 - n.natAbs.log2, ?_⟩
  have hexp : topExact (exactInt n) - (23 : Nat) = 0 - ((23 - n.natAbs.log2 : Nat) : Int) := by omega
  rw [readFp32_roundFp32 hnum (by omega) (by omega) hexact, floorAt, if_pos hpos, Nat.shiftLeft_eq, hexp]
  simp [exactInt]

theorem fpExp2_exactInt {n : Int} (hlo : -126 ≤ n) (hhi : n ≤ 127) :
    fpExp2 (roundFp32 .rne 0 (exactInt n)).1 = (powerWord n, 0) := by
  by_cases hn : n = 0
  · subst hn
    rfl
  obtain ⟨k, hread⟩ := readFp32_roundFp32_exactInt hn (by omega)
  have hnum : n.natAbs * 2 ^ k ≠ 0 := Nat.mul_ne_zero (Int.natAbs_ne_zero.2 hn) (Nat.ne_of_gt (Nat.two_pow_pos k))
  have htop : ¬ 8 ≤ topExact ⟨n < 0, n.natAbs * 2 ^ k, 0 - k, false⟩ := by
    have hlog : (n.natAbs * 2 ^ k).log2 < 8 + k := (Nat.log2_lt hnum).2 (by
      rw [Nat.pow_add]
      exact Nat.mul_lt_mul_of_pos_right (by omega) (Nat.two_pow_pos k))
    simp only [topExact]
    omega
  have hunit : (0 - (k : Int)) + k = 0 := by omega
  have hfloor := floorAt_units (n < 0) (n.natAbs * 2 ^ k) k (0 - k)
  have hexact : ¬ _ := mt (inexactAt_units (n < 0) (n.natAbs * 2 ^ k) k (0 - k)).1 (by simp)
  rw [hunit] at hexact
  rw [hunit, Nat.mul_div_cancel _ (Nat.two_pow_pos k)] at hfloor
  have hwhole : (if n < 0 then -(n.natAbs : Int) else n.natAbs) = n := by omega
  have hpower := roundFp32_powerOfTwo (m := .rne) (seed := 0) (j := 0) (e := n) (by omega) (by omega)
  have hzero : ((0 : Nat) : Int) + n = n := Int.zero_add n
  rw [hzero, Nat.pow_zero] at hpower
  simp only [fpExp2, hread, hnum, htop, hfloor, hexact, decide_eq_true_eq, specialRnd, Bool.not_false,
    Bool.false_eq_true, if_true, if_false, hwhole, hpower]

/-- Settles O39: the exact operations by their integer numerators, each mode by the bits that it cuts, and the special
values by what the words read as. -/
theorem floatingPointArithmetic : Obligations.FloatingPointArithmetic := by
  unfold Obligations.FloatingPointArithmetic
  refine ⟨?exactOperations, ⟨?rounding, ?overflow⟩, ?nanOfTwo, ?nanOfOne, ?infinitiesAndZeros, ?negative, ?powers⟩
  case exactOperations =>
    intro x y _ _
    exact ⟨fun z e hx hy => scaledInt_addExact x y z hx hy, fun d e hx hy => scaledInt_mulExact x y hx hy,
      divExact_cut x y, sqrtExact_cut x⟩
  case rounding =>
    intro m seed neg n k e
    refine ⟨fun h => (roundMag_of_exact ?_).trans (floorAt_units neg n k e), fun h => ?_⟩
    · rw [← Bool.not_eq_true, inexactAt_units]
      exact not_not_intro h
    · obtain ⟨hrtz, hrup, hrdn, hrsh⟩ := roundMag_of_inexact (seed := seed) ((inexactAt_units neg n k e).2 h)
      rw [floorAt_units] at hrtz hrup hrdn hrsh
      exact ⟨by rintro rfl; exact roundMag_rne h, by rintro rfl; exact hrtz, by rintro rfl; exact hrup,
        by rintro rfl; exact hrdn, by rintro rfl; exact hrsh⟩
  case overflow =>
    intro m seed x hx htop
    rw [roundFp32_overflow hx htop]
    cases m <;> cases x.neg <;> rfl
  case nanOfTwo =>
    intro m k a b d np nd h
    exact ⟨fpAdd_of_nan m k h, fpSub_of_nan m k h, fpMul_of_nan m k h, fpDiv_of_nan m k h, fpFma_of_nan m k h np nd⟩
  case nanOfOne => exact fun m k a => singleOperand_of_nan m k
  case negative => exact fun m k a => invalid_of_negative m k
  case infinitiesAndZeros =>
    intro m k n p a d ha
    obtain ⟨hmul, hmul'⟩ := fpMul_infFp32_zero m k n ha
    obtain ⟨hfma, hfma'⟩ := fpFma_infFp32_zero m k n ha p p d
    exact ⟨fpAdd_infFp32 m k n p, fun h => h ▸ fpSub_infFp32 m k n, hmul, hmul', hfma, hfma', fpDiv_infFp32 m k n p,
      fpDiv_zero_zero m k ha, fun b _ hb hb0 => fpDiv_zero m k ha hb hb0⟩
  case powers =>
    intro n hlo hhi
    exact ⟨fpExp2_exactInt hlo hhi, fpLog2_powerWord hlo hhi, fpRcp_powerWord hlo, fun h h' => fpRsqrt_powerWord h' h⟩

end Sys2Proof.Machine
end

section
/-! SUPPORT. Timing replays and the deadline interrupt (R147, R150, R151, R205): the device after a replay, the entry of
a trap that has a handler, and the statement on them. -/

namespace Sys2Proof.Machine

/-! ## Stopes and cores -/

@[simp] theorem stopeAt_modStope_self (d : Dev) (n : Nat) (f : Stope → Stope) :
    stopeAt (modStope d n f) n = f (stopeAt d n) := by simp [modStope, putStope, stopeAt]

@[simp] theorem stopeAt_modCore (d : Dev) (k n : Nat) (f : Core → Core) : stopeAt (modCore d k f) n = stopeAt d n := rfl

@[simp] theorem stopeAt_addLog (d : Dev) (kind part n : Nat) (bs : List Byte) :
    stopeAt (addLog d kind part bs) n = stopeAt d n := rfl

@[simp] theorem coreAt_modCore_self (d : Dev) (k : Nat) (f : Core → Core) :
    coreAt (modCore d k f) k = f (coreAt d k) := by
  simp [modCore]

@[simp] theorem coreAt_modStope (d : Dev) (n k : Nat) (f : Stope → Stope) :
    coreAt (modStope d n f) k = coreAt d k := rfl

@[simp] theorem coreAt_addLog (d : Dev) (kind part k : Nat) (bs : List Byte) :
    coreAt (addLog d kind part bs) k = coreAt d k := rfl

theorem issuing_congr {d e : Dev} {k : Nat} (hl : e.launches = d.launches) (hr : (coreAt e k).run = (coreAt d k).run)
    (hv : (coreAt e k).leaving = (coreAt d k).leaving) : issuing e k = issuing d k := by
  simp [issuing, launchOf, launchAt, hl, hr, hv]

/-! ## A replay (R150, R151) -/

/-- Memory, power, time and the cores, which no count of replays reaches. -/
def steady (d : Dev) : List Host.Cell × Power × Nat × SMap Core := (d.mem, d.power, d.now, d.cores)

theorem steady_eq_iff {d e : Dev} : steady e = steady d ↔
    e.mem = d.mem ∧ e.power = d.power ∧ e.now = d.now ∧ e.cores = d.cores := by simp [steady]

theorem steady_failStope (d : Dev) (n : Nat) : steady (failStope d n) = steady d :=
  foldl_keeps steady (fun d e => by split <;> rfl) _ (modStope d n fun x => { x with failed := true })

theorem stopeAt_failStope (d : Dev) (n : Nat) : stopeAt (failStope d n) n = { stopeAt d n with failed := true } :=
  (foldl_keeps (stopeAt · n) (fun d e => by split <;> rfl) _ _).trans (stopeAt_modStope_self d n _)

theorem steady_countReplay (d : Dev) (st : Nat) : steady (countReplay d st) = steady d := by
  unfold countReplay reportStope
  dsimp only
  split
  · exact steady_failStope ..
  · rfl

theorem stopeAt_countReplay (d : Dev) (st : Nat) :
    (stopeAt (countReplay d st) st).replays = (stopeAt d st).replays + 1 ∧
      (stopeAt (countReplay d st) st).period = (stopeAt d st).period + 1 := by
  unfold countReplay reportStope
  dsimp only
  split <;> simp [stopeAt_failStope]

theorem launches_countReplay {d : Dev} (h : mxMv d.power < 700) (st : Nat) :
    (countReplay d st).launches = d.launches := by
  unfold countReplay
  dsimp only
  rw [modStope_power, if_neg (Nat.not_le.2 h), modStope_launches]

/-- The replay of core k's clause is counted, and the stope stands still for it. -/
def heldForClause (d : Dev) (k : Nat) : Dev :=
  modStope (countReplay d (stopeOf k)) (stopeOf k) fun x => { x with replay := some (k % 4, d.now) }

theorem steady_heldForClause (d : Dev) (k : Nat) : steady (heldForClause d k) = steady d :=
  steady_countReplay d (stopeOf k)

theorem coreAt_heldForClause (d : Dev) (k : Nat) : coreAt (heldForClause d k) k = coreAt d k :=
  congrArg (mget coreReset · k) (steady_eq_iff.1 (steady_heldForClause d k)).2.2.2

theorem stopeAt_heldForClause (d : Dev) (k : Nat) :
    (stopeAt (heldForClause d k) (stopeOf k)).replays = (stopeAt d (stopeOf k)).replays + 1 ∧
      (stopeAt (heldForClause d k) (stopeOf k)).period = (stopeAt d (stopeOf k)).period + 1 ∧
      (stopeAt (heldForClause d k) (stopeOf k)).replay = some (k % 4, d.now) := by
  obtain ⟨hreplays, hperiod⟩ := stopeAt_countReplay d (stopeOf k)
  unfold heldForClause
  rw [stopeAt_modStope_self]
  exact ⟨hreplays, hperiod, rfl⟩

theorem replay_few {d : Dev} {k : Nat} (h : (coreAt d k).replays < 3) : replay d k =
    modCore (heldForClause d k) k fun c => { c with replays := (coreAt d k).replays + 1 } := by
  unfold replay
  dsimp only
  exact if_pos (by omega)

theorem replay_fourth {d : Dev} {k : Nat} (h : 3 ≤ (coreAt d k).replays) : replay d k =
    modStope (addLog (modCore (heldForClause d k) k fun c => { c with replays := 0 }) 0 noPart
      (detail [stopeOf k, k % 4])) (stopeOf k) fun x =>
        { x with settling := if mxMv (heldForClause d k).power < 700 then some (heldForClause d k).now else none } := by
  unfold replay
  dsimp only
  exact if_neg (by omega)

/-- A replay leaves memory and power alone, and of its core all but the count of replays in a row. -/
theorem replay_leaves (d : Dev) (k : Nat) : (replay d k).mem = d.mem ∧ (replay d k).power = d.power ∧
    coreAt (replay d k) k =
      { coreAt d k with replays := if (coreAt d k).replays < 3 then (coreAt d k).replays + 1 else 0 } := by
  obtain ⟨hmem, hpower, _, _⟩ := steady_eq_iff.1 (steady_heldForClause d k)
  rcases Nat.lt_or_ge (coreAt d k).replays 3 with h | h
  · rw [replay_few h]
    exact ⟨hmem, hpower, by simp [coreAt_heldForClause, h]⟩
  · rw [replay_fourth h]
    exact ⟨hmem, hpower, by simp [coreAt_heldForClause, Nat.not_lt.2 h]⟩

/-- A replay counts in the stope's two counters, and the stope stands still for the clause of its core. -/
theorem replay_counts (d : Dev) (k : Nat) :
    (stopeAt (replay d k) (stopeOf k)).replays = (stopeAt d (stopeOf k)).replays + 1 ∧
      (stopeAt (replay d k) (stopeOf k)).period = (stopeAt d (stopeOf k)).period + 1 ∧
      (stopeAt (replay d k) (stopeOf k)).replay = some (k % 4, d.now) := by
  have hheld := stopeAt_heldForClause d k
  rcases Nat.lt_or_ge (coreAt d k).replays 3 with h | h
  · rw [replay_few h]
    exact hheld
  · rw [replay_fourth h, stopeAt_modStope_self]
    exact hheld

/-- Below 700 mV a replay stops no launch, so that its stope stands still until the clause has issued. -/
theorem replay_stands {d : Dev} {k : Nat} (h : mxMv d.power < 700) (hi : issuing d k = true) :
    issuing (replay d k) k = true ∧ replaying (replay d k) (stopeOf k) = true := by
  have hlaunches : (replay d k).launches = d.launches := by
    rcases Nat.lt_or_ge (coreAt d k).replays 3 with hn | hn
    · rw [replay_few hn]
      exact launches_countReplay h _
    · rw [replay_fourth hn]
      exact launches_countReplay h _
  obtain ⟨_, _, hcore⟩ := replay_leaves d k
  obtain ⟨_, _, hreplay⟩ := replay_counts d k
  have hissuing : issuing (replay d k) k = true := by
    rw [issuing_congr hlaunches (by rw [hcore]) (by rw [hcore]), hi]
  have hk : 4 * stopeOf k + k % 4 = k := by unfold stopeOf; omega
  exact ⟨hissuing, by simp [replaying, hreplay, Nat.mod_lt, hk, hissuing]⟩

/-- The fourth replay in a row is logged, and has its stope wait for 20 mV where MX and VX stand below 700 mV. -/
theorem replay_fourth_reports {d : Dev} {k : Nat} (h : 3 ≤ (coreAt d k).replays) :
    (∃ e ∈ (replay d k).foreman.logs, e.kind = 0 ∧ e.time = d.now) ∧
      (stopeAt (replay d k) (stopeOf k)).settling = if mxMv d.power < 700 then some d.now else none := by
  obtain ⟨_, hpower, hnow, _⟩ := steady_eq_iff.1 (steady_heldForClause d k)
  rw [replay_fourth h, stopeAt_modStope_self, hpower, hnow]
  exact ⟨⟨⟨_, 0, noPart, detail [stopeOf k, k % 4]⟩, List.mem_append_right _ List.mem_cons_self, rfl, hnow⟩, rfl⟩

theorem exec_timingReplay {core : CoreId} {s : State} (hi : issuing s.dev (coreNum core) = true)
    (hq : ∀ q ∈ (stopeAt s.dev (stopeOf (coreNum core))).arrayQ, q.started = false)
    (hl : lateLanding (coreAt s.dev (coreNum core)) = none) :
    exec (.timingReplay core) s = .next (setDev s (replay s.dev (coreNum core))) := by
  have hsteps : (stopeAt s.dev (stopeOf (coreNum core))).arrayQ.any (·.started) = false := by
    simpa using hq
  have he : exec (.timingReplay core) s = execTimingReplay core s := rfl
  rw [he]
  simp [execTimingReplay, onCoreEvent, hsteps, hi, hl]

/-! ## The voltage that a stope waits for (R151) -/

theorem settleVolts_adds {d : Dev} {st since : Nat} (hs : (stopeAt d st).settling = some since)
    (h : mxMv d.power < 700) :
    (settleVolts d st).power = { d.power with extraMv := d.power.extraMv + 20 } ∧
      (stopeAt (settleVolts d st) st).settling = none := by
  have he : settleVolts d st = modStope { d with power := addMv d.power } st fun x => { x with settling := none } :=
    if_pos (by rw [hs]; rfl)
  rw [he]
  exact ⟨if_pos h, congrArg Stope.settling (stopeAt_modStope_self _ st _)⟩

/-! ## Entering a handler (R205) -/

/-- A trap that has a handler enters it: its core latches its position and its results in flight, and no other core
moves. -/
theorem takeTrap_enters {d : Dev} {k : Nat} (h : handled d k) (cause : Nat) (info : Dword) (resume : Va) : ∃ c l,
    takeTrap d k cause info resume = putCore (withdrawLease d k) k c ∧ c.pc = (coreAt d k).tvec ∧
      c.tcause = BitVec.ofNat 16 cause ∧ c.tinfo = info ∧ c.risk = (coreAt d k).risk ∧ c.inHandler = true ∧
      c.latch = some l ∧ latched (coreAt d k) l resume ∧ sameRegisters (coreAt d k) c := by
  obtain ⟨htvec, hgrid, hfresh⟩ := h
  have hcore : coreAt (withdrawLease d k) k = coreAt d k := by unfold withdrawLease; split <;> rfl
  have hanchor : anchorOf (withdrawLease d k) k = anchorOf d k := by unfold withdrawLease; split <;> rfl
  have hno : noHandler (withdrawLease d k) k = false := by
    have htvec : ¬ (coreAt d k).tvec = 0#48 := htvec
    have hfresh : ((coreAt d k).inHandler && (coreAt d k).fresh) = false := by simpa using hfresh
    simp [noHandler, handlerAt, hcore, hanchor, htvec, hgrid, hfresh]
  unfold takeTrap
  simp only [hno, Bool.false_eq_true, if_false]
  exact ⟨_, _, rfl, rfl, rfl, rfl, rfl, rfl, rfl, ⟨rfl, rfl, rfl, rfl, rfl, rfl, rfl, rfl, rfl, rfl, rfl, rfl⟩,
    ⟨rfl, rfl, rfl, rfl, rfl, rfl⟩⟩

theorem withdrawLease_putCore {d : Dev} {k : Nat} {c : Core} (hr : c.leaseReq = (coreAt d k).leaseReq)
    (hb : c.leaseBack = (coreAt d k).leaseBack) :
    withdrawLease (putCore d k c) k = putCore (withdrawLease d k) k c := by
  unfold withdrawLease
  rw [coreAt_putCore_self, hr, hb]
  split <;> rfl

/-! ## The deadline interrupt (R147) -/

theorem exec_deadlineRiskInterrupt {core : CoreId} {s : State} (hi : issuing s.dev (coreNum core) = true)
    (hcycle : cycleOver (coreAt s.dev (coreNum core)) = true) (hnotice : (coreAt s.dev (coreNum core)).notice = [])
    (hreplay : clauseReplays s.dev (coreNum core) = false) (hpend : (coreAt s.dev (coreNum core)).pend = none) :
    exec (.deadlineRiskInterrupt core) s =
      .next (setDev s ((riskBoundary s.dev (coreNum core)).getD s.dev)) := by
  have he : exec (.deadlineRiskInterrupt core) s = execDeadlineRiskInterrupt core s := rfl
  rw [he]
  simp [execDeadlineRiskInterrupt, onCoreEvent, hi, hcycle, hnotice, hreplay, hpend]

theorem unwrite_of_written_nil {c : Core} (h : c.written = []) : unwrite c = c := by
  have hu : unwrite c = { c with written := [] } := by rw [unwrite, h]; rfl
  rw [hu, ← h]

theorem riskBoundary_disabled {d : Dev} {k : Nat} (h : (coreAt d k).riskEn = false) : riskBoundary d k = none := by
  unfold riskBoundary
  dsimp only
  split
  · rfl
  · simp [h]

section
variable {d : Dev} {k : Nat} {v : Dword} (hrisk : (coreAt d k).risk = some v) (hen : (coreAt d k).riskEn = true)
  (hdm : dmodeOf d k = false) (hin : (coreAt d k).inHandler = false)
include hrisk hen hdm hin

theorem riskBoundary_dropped (h : (coreAt d k).tvec = 0) :
    riskBoundary d k = some (putCore d k { coreAt d k with risk := none }) := by
  simp [riskBoundary, hrisk, hen, hdm, hin, h]

theorem riskBoundary_taken (htvec : (coreAt d k).tvec ≠ 0)
    (hgrid : packetStart (anchorOf d k) (coreAt d k).tvec = true) : riskBoundary d k =
      some (takeTrap (putCore d k { unwrite (coreAt d k) with risk := none }) k causeDeadlineRisk v
        (coreAt d k).pc) := by
  have htvec : ¬ (coreAt d k).tvec = 0#48 := htvec
  simp [riskBoundary, hrisk, hen, hdm, hin, htvec, hgrid]

/-- The interrupt enters the handler with its value, from a core that has written no result ahead. -/
theorem riskBoundary_enters (hwritten : (coreAt d k).written = []) (htvec : (coreAt d k).tvec ≠ 0)
    (hgrid : packetStart (anchorOf d k) (coreAt d k).tvec = true) : ∃ c l,
      riskBoundary d k = some (putCore (withdrawLease d k) k c) ∧ c.pc = (coreAt d k).tvec ∧ c.tcause = 32 ∧
        c.tinfo = v ∧ c.risk = none ∧ c.inHandler = true ∧ c.latch = some l ∧
        latched (coreAt d k) l (coreAt d k).pc ∧ sameRegisters (coreAt d k) c := by
  have hhandled : handled (putCore d k { coreAt d k with risk := none }) k := by
    have hanchor : anchorOf (putCore d k { coreAt d k with risk := none }) k = anchorOf d k := by
      simp [anchorOf, launchOf, launchAt]
    unfold handled
    rw [hanchor, coreAt_putCore_self]
    exact ⟨htvec, hgrid, by simp [hin]⟩
  obtain ⟨c, l, htrap, hentry⟩ := takeTrap_enters hhandled causeDeadlineRisk v (coreAt d k).pc
  rw [coreAt_putCore_self] at hentry
  refine ⟨c, l, ?_, hentry⟩
  have hlease : withdrawLease (putCore d k { coreAt d k with risk := none }) k = putCore (withdrawLease d k) k _ :=
    withdrawLease_putCore rfl rfl
  rw [riskBoundary_taken hrisk hen hdm hin htvec hgrid, unwrite_of_written_nil hwritten, htrap, hlease, putCore_putCore]

end

/-- Settles O41: a timing replay is `replay`, of which two equations say all; the interrupt is `riskBoundary`, which a
handler takes as it takes a trap. -/
theorem replaysAndDeadlineRisk : Obligations.ReplaysAndDeadlineRisk := by
  unfold Obligations.ReplaysAndDeadlineRisk
  refine ⟨?replay, fun s st since => settleVolts_adds, ?risk⟩
  case replay =>
    intro core s hi k c x hq hl
    obtain ⟨hmem, hpower, hcore⟩ := replay_leaves s.dev k
    obtain ⟨hreplays, hperiod, hreplay⟩ := replay_counts s.dev k
    refine ⟨_, exec_timingReplay hi hq hl, hmem, ?_, ?_, hpower, hreplays, hperiod, hreplay,
      fun h => replay_stands h hi, fun h => ?_, fun h => ⟨?_, replay_fourth_reports h⟩⟩
    · rw [setDev_dev, hcore]; exact ⟨rfl, rfl, rfl, rfl, rfl, rfl⟩
    · rw [setDev_dev, hcore]; exact ⟨rfl, rfl, rfl, rfl, rfl, rfl, rfl, rfl, rfl⟩
    · rw [setDev_dev, hcore]; exact if_pos h
    · rw [setDev_dev, hcore]; exact if_neg (Nat.not_lt.2 h)
  case risk =>
    intro core s v k c hi hcycle hnotice hrisk hreplay hpend hwritten
    have hexec := exec_deadlineRiskInterrupt hi hcycle hnotice hreplay hpend
    refine ⟨fun hen hdm hin => ⟨fun htvec hgrid => ?_, fun htvec => ?_⟩, fun hen => ?_⟩
    · obtain ⟨e, l, hb, hpc, hcause, hinfo, hnone, hhandler, hlatch, hlatched, hsame⟩ :=
        riskBoundary_enters hrisk hen hdm hin hwritten htvec hgrid
      rw [hb] at hexec
      refine ⟨_, l, hexec, ?_⟩
      rw [setDev_dev, Option.getD_some, coreAt_putCore_self]
      exact ⟨rfl, hpc, hcause, hinfo, hnone, hhandler, hlatch, hlatched, hsame⟩
    · rw [hexec, riskBoundary_dropped hrisk hen hdm hin htvec, Option.getD_some]
    · rw [hexec, riskBoundary_disabled hen]
      rfl

end Sys2Proof.Machine
end

section
/-! SUPPORT. Deadline risk and the levels (R139, R140, R143 to R147, R154): what raising a risk, a period's samples and
the response to replays leave of a device, and an evaluation of the governor assembled from them. -/

namespace Sys2Proof.Machine

/-! ## Lists and maps -/

theorem mem_of_mfind {α : Type} {m : SMap α} {k : Nat} {v : α} (h : mfind m k = some v) : (k, v) ∈ m := by
  induction m with
  | nil => cases h
  | cons e r ih =>
    obtain ⟨j, w⟩ := e
    rw [mfind] at h
    split at h
    · subst k
      cases h
      exact List.mem_cons_self
    · exact List.mem_cons_of_mem _ (ih h)

/-- What an insertion takes from a map is the value that stood at its key. -/
theorem mem_minsert_or_eq {α : Type} {m : SMap α} {k : Nat} {v w : α} (hk : mfind m k = some w) {e : Nat × α}
    (he : e ∈ m) : e ∈ minsert m k v ∨ e.2 = w := by
  induction m with
  | nil => cases he
  | cons a r ih =>
    obtain ⟨j, u⟩ := a
    rw [mfind] at hk
    rw [minsert]
    by_cases hj : k = j
    · rw [if_pos hj] at hk ⊢
      cases hk
      rcases List.mem_cons.1 he with rfl | he
      · exact .inr rfl
      · exact .inl (List.mem_cons_of_mem _ he)
    · rw [if_neg hj] at hk ⊢
      split
      · exact .inl (List.mem_cons_of_mem _ he)
      · rcases List.mem_cons.1 he with rfl | he
        · exact .inl List.mem_cons_self
        · exact (ih hk he).imp_left (List.mem_cons_of_mem _)

/-- A change of a listed value that keeps a property of it keeps the properties that the map lists. -/
theorem exists_mem_mmod_iff {α β : Type} {p : α → β} {f : α → α} (hf : ∀ v, p (f v) = p v) (m : SMap α) (k : Nat)
    (y : β) : (∃ e ∈ mmod m k f, p e.2 = y) ↔ ∃ e ∈ m, p e.2 = y := by
  unfold mmod
  cases hk : mfind m k with
  | none => rfl
  | some w =>
    have hw := mem_of_mfind hk
    constructor
    · rintro ⟨e, he, hy⟩
      rcases mem_minsert he with rfl | he
      · exact ⟨_, hw, (hf w).symm.trans hy⟩
      · exact ⟨e, he, hy⟩
    · rintro ⟨e, he, hy⟩
      rcases mem_minsert_or_eq (v := f w) hk he with h | h
      · exact ⟨e, h, hy⟩
      · exact ⟨(k, f w), mem_of_mfind (mfind_minsert_self ..), (hf w).trans (h ▸ hy)⟩

/-! ## What the governor reads, as risks are raised (R146, R147) -/

/-- What a level depends on of a launch (R144, R145). -/
def demandKey (x : Launch) : BitVec 4 × LaunchState × Option Nat × Nat × Nat :=
  (x.part, x.state, x.deadline, x.work, x.spent)

/-- What an evaluation reads of a device besides its sensors. -/
def govInput (d : Dev) : Power × SMap Stope × SMap Partition × Nat ×
    Set (BitVec 4 × LaunchState × Option Nat × Nat × Nat) :=
  (d.power, d.stopes, d.parts, d.now, {y | ∃ e ∈ d.launches, demandKey e.2 = y})

theorem govInput_modLaunch (d : Dev) (l : Nat) {f : Launch → Launch} (hf : ∀ x, demandKey (f x) = demandKey x) :
    govInput (modLaunch d l f) = govInput d := by
  have h : {y | ∃ e ∈ mmod d.launches l f, demandKey e.2 = y} = {y | ∃ e ∈ d.launches, demandKey e.2 = y} :=
    Set.ext fun y => exists_mem_mmod_iff hf d.launches l y
  exact congrArg (fun z => (d.power, d.stopes, d.parts, d.now, z)) h

theorem govInput_modTask (d : Dev) (l i : Nat) (f : Task → Task) : govInput (modTask d l i f) = govInput d :=
  govInput_modLaunch d l fun _ => rfl

theorem govInput_riskTask (d : Dev) (l i : Nat) (slack : Dword) (dmode : Bool) :
    govInput (riskTask d l i slack dmode) = govInput d := by
  unfold riskTask
  dsimp only
  split
  · exact govInput_modTask d l i _
  · split
    · exact (govInput_modTask ..).trans (govInput_modTask ..)
    · exact govInput_modTask d l i _

theorem govInput_raiseRisk (d : Dev) (l : Nat) (x : Launch) : govInput (raiseRisk d l x) = govInput d := by
  unfold raiseRisk
  split
  · rfl
  · split
    · rfl
    · have hmark := govInput_modLaunch (f := fun x => { x with risked := true }) d l fun _ => rfl
      refine (foldl_keeps govInput (fun d t => ?_) _ _).trans hmark
      split
      · rfl
      · exact govInput_riskTask ..

/-- The device once the risk of every launch has been looked at. -/
def risksRaised (d : Dev) : Dev := d.launches.foldl (fun d e => raiseRisk d e.1 e.2) d

theorem govInput_risksRaised (d : Dev) : govInput (risksRaised d) = govInput d :=
  foldl_keeps (α := Nat × Launch) govInput (fun d e => govInput_raiseRisk d e.1 e.2) d.launches d

/-! ## A launch at risk (R146, R147) -/

/-- The interrupt of a task that is on a core: RiskPend is set, and the interrupt waits where the task enables it. -/
theorem coreAt_riskTask {d : Dev} {l i k : Nat} {c : Core}
    (h : (d.cores.find? fun e => e.2.run == some ⟨l, i⟩ && !e.2.leaving) = some (k, c)) (slack : Dword) :
    coreAt (riskTask d l i slack false) k = { coreAt d k with
      riskPend := true, risk := if (coreAt d k).riskEn then some slack else (coreAt d k).risk } := by
  have hcores : (modTask d l i fun t => { t with riskPend := true }).cores = d.cores := rfl
  unfold riskTask
  dsimp only
  rw [hcores, h]
  dsimp only
  rw [coreAt_modCore_self, Bool.not_false, Bool.and_true]
  rfl

theorem coreAt_raiseRisk {d : Dev} {l i k : Nat} {x : Launch} {tk : Task} {v : Int}
    (hslack : slackNs d.now x (stopeMhz d.power.grant.toNat) = some v) (hv : v < 0) (hstate : x.state = .running)
    (hrisked : x.risked = false) (hdm : ∀ p, partAt d x.part.toNat = some p → p.dmode = false)
    (htasks : x.tasks = [(i, tk)]) (htk : tk.state = .running)
    (hcore : (d.cores.find? fun e => e.2.run == some ⟨l, i⟩ && !e.2.leaving).map (·.1) = some k) :
    coreAt (raiseRisk d l x) k = { coreAt d k with
      riskPend := true, risk := if (coreAt d k).riskEn then some (BitVec.ofInt 64 v) else (coreAt d k).risk } := by
  obtain ⟨⟨_, c⟩, hfind, rfl⟩ := Option.map_eq_some_iff.1 hcore
  have hrise : (decide (0 ≤ v) || x.risked || !underWay x) = false := by
    simp [underWay, hstate, hrisked, Int.not_le.2 hv]
  have hlive : (tk.state == .exited || tk.state == .faulted) = false := by rw [htk]; rfl
  unfold raiseRisk
  rw [hslack]
  dsimp only
  rw [hrise, htasks]
  simp only [Bool.false_eq_true, if_false, List.foldl_cons, List.foldl_nil, hlive]
  split
  · next p hp =>
    rw [hdm p hp]
    exact coreAt_riskTask (d := addLog (modLaunch d l _) _ _ _) hfind _
  · exact coreAt_riskTask (d := addLog (modLaunch d l _) _ _ _) hfind _

end Sys2Proof.Machine
end

section
/-! SUPPORT. The levels of the compute rails and of FB (R139, R140, R143 to R145, R151, R154): the demands of
partitions, the caps of sensors, and what an evaluation of the governor leaves. -/

namespace Sys2Proof.Machine

/-! ## Demands (R144, R145) -/

theorem mem_deadlineLaunches {d : Dev} {n : Nat} {x : Launch} : x ∈ deadlineLaunches d n ↔
    (∃ e ∈ d.launches, e.2 = x) ∧ x.part.toNat = n ∧ underWay x = true ∧ x.deadline.isSome = true := by
  simp [deadlineLaunches, and_assoc]

/-- Slack depends on a launch through its deadline, its work and the cycles that it has spent. -/
theorem hasSlack_congr {x y : Launch} (h : demandKey x = demandKey y) (now l : Nat) :
    hasSlack now x l = hasSlack now y l := by
  simp only [demandKey, Prod.mk.injEq] at h
  obtain ⟨_, _, hdeadline, hwork, hspent⟩ := h
  simp [hasSlack, slackScaled, workLeft, hdeadline, hwork, hspent]

/-- Two devices that the governor reads alike have the same launches with deadlines, but for fields it does not read. -/
theorem exists_deadlineLaunch {d e : Dev} {n : Nat} (h : govInput e = govInput d) {x : Launch}
    (hx : x ∈ deadlineLaunches d n) : ∃ y ∈ deadlineLaunches e n, demandKey y = demandKey x := by
  obtain ⟨⟨a, ha, rfl⟩, hpart, hway, hdeadline⟩ := mem_deadlineLaunches.1 hx
  have hset : {y | ∃ a ∈ e.launches, demandKey a.2 = y} = {y | ∃ a ∈ d.launches, demandKey a.2 = y} :=
    congrArg (fun g => g.2.2.2.2) h
  obtain ⟨b, hb, hkey⟩ := (Set.ext_iff.1 hset (demandKey a.2)).2 ⟨a, ha, rfl⟩
  have hfields := hkey
  simp only [demandKey, Prod.mk.injEq] at hfields
  obtain ⟨hp, hs, hd, _, _⟩ := hfields
  refine ⟨b.2, mem_deadlineLaunches.2 ⟨⟨b, hb, rfl⟩, ?_, ?_, ?_⟩, hkey⟩
  · rw [hp, hpart]
  · rw [underWay, hs]; exact hway
  · rw [hd, hdeadline]

theorem demandOf_nil {d : Dev} {n : Nat} (h : deadlineLaunches d n = []) (p : Partition) :
    demandOf d n p = min p.deflt.toNat d.power.grant.toNat := by simp [demandOf, h]

/-- The first number up to n that passes a test, or n. -/
theorem find?_range_getD (P : Nat → Bool) (n : Nat) : ∃ m ≤ n, ((List.range (n + 1)).find? P).getD n = m ∧
    (m < n → P m = true) ∧ ∀ l < m, P l = false := by
  cases hf : (List.range (n + 1)).find? P with
  | none =>
    have hall := List.find?_range_eq_none.1 hf
    exact ⟨n, Nat.le_refl n, rfl, fun h => absurd h (Nat.lt_irrefl n), fun l hl => by
      simpa using hall l (Nat.lt_succ_of_lt hl)⟩
  | some m =>
    obtain ⟨hm, hrange, hleast⟩ := List.find?_range_eq_some.1 hf
    exact ⟨m, Nat.le_of_lt_succ (List.mem_range.1 hrange), rfl, fun _ => hm, fun l hl => by simpa using hleast l hl⟩

/-- With deadlines the demand is the least level that gives every launch its slack, and at most the grant. -/
theorem demandOf_least {d : Dev} {n : Nat} (h : deadlineLaunches d n ≠ []) (p : Partition) :
    demandOf d n p ≤ d.power.grant.toNat ∧
    (demandOf d n p < d.power.grant.toNat → ∀ x ∈ deadlineLaunches d n, hasSlack d.now x (demandOf d n p) = true) ∧
    ∀ l < demandOf d n p, ∃ x ∈ deadlineLaunches d n, hasSlack d.now x l = false := by
  obtain ⟨m, hle, hm, hall, hleast⟩ :=
    find?_range_getD (fun l => (deadlineLaunches d n).all fun x => hasSlack d.now x l) d.power.grant.toNat
  have hdemand : demandOf d n p = m := by
    unfold demandOf
    split
    · next hn => exact absurd hn h
    · exact hm
  rw [hdemand]
  exact ⟨hle, fun hlt => List.all_eq_true.1 (hall hlt), fun l hl => by simpa using hleast l hl⟩

theorem demandOf_le {d : Dev} (n : Nat) (p : Partition) : demandOf d n p ≤ d.power.grant.toNat := by
  by_cases h : deadlineLaunches d n = []
  · rw [demandOf_nil h]
    exact Nat.min_le_right ..
  · exact (demandOf_least h p).1

/-! ## Sensors and replays (R151, R154) -/

/-- A device without its sensors, the levels that heat has taken, and its log. -/
def unsensed (d : Dev) : Dev :=
  { d with power := { d.power with sensors := [], hotC := 0, hotF := 0 }, foreman := { d.foreman with logs := [] } }

theorem unsensed_addLog (d : Dev) (kind part : Nat) (bs : List Byte) :
    unsensed (addLog d kind part bs) = unsensed d := rfl

theorem unsensed_sampleAll (d : Dev) (xs : List SensorSample) : unsensed (sampleAll d xs) = unsensed d := by
  unfold sampleAll
  dsimp only
  split
  · rfl
  · exact foldl_keeps (α := Nat × Sensor) unsensed (fun d e => unsensed_addLog d ..) _ _

theorem sampleAll_none {d : Dev} (h : d.power.sensors = []) :
    sampleAll d [] = { d with power := { d.power with hotC := 0, hotF := 0 } } := by simp [sampleAll, h]

theorem sensorCap_le (g : Nat) (old ss : SMap Sensor) : sensorCap g old ss ≤ g := by
  unfold sensorCap
  dsimp only
  split <;> split <;> omega

theorem addMv_keeps (p : Power) : (addMv p).sensors = p.sensors ∧ (addMv p).grant = p.grant ∧
    (addMv p).level = p.level ∧ (addMv p).moving = p.moving := by
  unfold addMv
  split <;> exact ⟨rfl, rfl, rfl, rfl⟩

theorem replayResponse_keeps (p : Power) (worst level cap : Nat) :
    (replayResponse p worst level cap).sensors = p.sensors ∧ (replayResponse p worst level cap).grant = p.grant := by
  obtain ⟨hs, hg, _⟩ := addMv_keeps p
  unfold replayResponse
  split
  · split
    · exact ⟨rfl, rfl⟩
    · exact ⟨hs, hg⟩
  · split
    · split <;> exact ⟨rfl, rfl⟩
    · exact ⟨rfl, rfl⟩

/-- Without more than 64 replays in the period no level is added. -/
theorem boost_replayResponse {p : Power} {worst : Nat} (hw : worst ≤ 64) (hb : p.boost = 0) (level cap : Nat) :
    (replayResponse p worst level cap).boost = 0 := by
  unfold replayResponse
  rw [if_neg (Nat.not_lt.2 hw)]
  split
  · split
    · rfl
    · exact hb
  · exact hb

/-! ## An evaluation (R143) -/

/-- The device as an evaluation finds it: its risks raised, and its sensors read. -/
def sensed (d : Dev) (inp : GovernorInput) : Dev := sampleAll (risksRaised d) inp.sensors

theorem unsensed_sensed (d : Dev) (inp : GovernorInput) : unsensed (sensed d inp) = unsensed (risksRaised d) :=
  unsensed_sampleAll _ _

theorem grant_sensed (d : Dev) (inp : GovernorInput) : (sensed d inp).power.grant = d.power.grant :=
  (congrArg (fun e => e.power.grant) (unsensed_sensed d inp)).trans
    (congrArg (fun g => g.1.grant) (govInput_risksRaised d))

theorem now_sensed (d : Dev) (inp : GovernorInput) : (sensed d inp).now = d.now :=
  (congrArg Dev.now (unsensed_sensed d inp)).trans (congrArg (fun g => g.2.2.2.1) (govInput_risksRaised d))

theorem launches_sensed (d : Dev) (inp : GovernorInput) : (sensed d inp).launches = (risksRaised d).launches :=
  congrArg (fun e => e.launches) (unsensed_sensed d inp)

theorem cores_sensed (d : Dev) (inp : GovernorInput) : (sensed d inp).cores = (risksRaised d).cores :=
  congrArg (fun e => e.cores) (unsensed_sensed d inp)

/-- The levels that an evaluation sets: neither is above its rail's cap, which the grant bounds, and both are 0 while a
sensor is too hot. -/
theorem power_evaluate (d : Dev) (inp : GovernorInput) : ∃ p l fb, (evaluate d inp).power =
      { setLevels d.now p l fb with nextEval := (d.now / 10000 + 1) * 10000 } ∧
    l ≤ d.power.grant.toNat ∧ fb ≤ d.power.grant.toNat ∧ p.grant = d.power.grant ∧
    p.sensors = (sensed d inp).power.sensors ∧
    ((sensed d inp).power.sensors.any (isHot 115) = true → l = 0 ∧ fb = 0) := by
  have hcap : ∀ old ss hot m,
      min (sensorCap (sensed d inp).power.grant.toNat old ss - hot) m ≤ d.power.grant.toNat := by
    intro old ss hot m
    rw [grant_sensed]
    exact (Nat.min_le_left ..).trans ((Nat.sub_le ..).trans (sensorCap_le ..))
  rw [← now_sensed d inp]
  refine ⟨_, _, _, rfl, ?_, ?_, ?_, ?_, fun hhot => ⟨if_pos hhot, if_pos hhot⟩⟩
  · split
    · exact Nat.zero_le _
    · exact hcap ..
  · split
    · exact Nat.zero_le _
    · exact hcap ..
  · exact (replayResponse_keeps ..).2.trans (grant_sensed d inp)
  · exact (replayResponse_keeps ..).1

/-- A core after an evaluation is as the raised risks leave it. -/
theorem coreAt_evaluate (d : Dev) (inp : GovernorInput) (k : Nat) :
    coreAt (evaluate d inp) k = coreAt (risksRaised d) k :=
  congrArg (mget coreReset · k) (cores_sensed d inp)

theorem risksRaised_single {d : Dev} {l : Nat} {x : Launch} (h : d.launches = [(l, x)]) :
    risksRaised d = raiseRisk d l x := by rw [risksRaised, h]; rfl

/-- The cap of the compute rails in an evaluation. -/
def computeCap (d : Dev) (inp : GovernorInput) : Nat :=
  sensorCap (sensed d inp).power.grant.toNat (risksRaised d).power.sensors
    (computeSensors (sensed d inp).power.sensors) - (sensed d inp).power.hotC

/-- The compute level below a cap, for a device whose sensors have been read. -/
def computeLevel (e : Dev) (cap : Nat) : Nat :=
  let want := (e.parts.map fun q => demandOf e q.1 q.2).foldl max 0
  let worst := worstReplays e
  if e.power.sensors.any (isHot 115) then 0
  else min cap (min want cap + (replayResponse { e.power with highest := worst } worst (min want cap) cap).boost)

theorem level_evaluate (d : Dev) (inp : GovernorInput) :
    (evaluate d inp).power.level = BitVec.ofNat 3 (computeLevel (sensed d inp) (computeCap d inp)) := rfl

/-- For one partition, without sensors and with few replays, the level is the partition's demand. -/
theorem computeLevel_quiet {e : Dev} {n : Nat} {p : Partition} (hs : e.power.sensors = []) (hb : e.power.boost = 0)
    (hw : worstReplays e ≤ 64) (hp : e.parts = [(n, p)]) : computeLevel e e.power.grant.toNat = demandOf e n p := by
  have hwant : (e.parts.map fun q => demandOf e q.1 q.2).foldl max 0 = demandOf e n p := by
    rw [hp]
    exact Nat.zero_max _
  have hmin : min (demandOf e n p) e.power.grant.toNat = demandOf e n p := Nat.min_eq_left (demandOf_le n p)
  simp only [computeLevel, hwant, hmin, boost_replayResponse hw, hb, hs, List.any_nil, Nat.add_zero, Bool.false_eq_true,
    if_false, Nat.min_eq_right (demandOf_le n p)]

theorem level_evaluate_quiet {d : Dev} {inp : GovernorInput} {n : Nat} {p : Partition} (hin : inp.sensors = [])
    (hs : d.power.sensors = []) (hb : d.power.boost = 0) (hw : worstReplays d ≤ 64) (hp : d.parts = [(n, p)]) :
    (evaluate d inp).power.level.toNat = demandOf (sensed d inp) n p := by
  have hgov := govInput_risksRaised d
  have hpower : (risksRaised d).power = d.power := congrArg (fun g => g.1) hgov
  have hstopes : (risksRaised d).stopes = d.stopes := congrArg (fun g => g.2.1) hgov
  have hparts : (risksRaised d).parts = d.parts := congrArg (fun g => g.2.2.1) hgov
  have hsensed : sensed d inp =
      { risksRaised d with power := { (risksRaised d).power with hotC := 0, hotF := 0 } } := by
    rw [sensed, hin, sampleAll_none (by rw [hpower, hs])]
  have hcap : computeCap d inp = (sensed d inp).power.grant.toNat := by
    rw [computeCap, hsensed]
    dsimp only
    rw [hpower, hs]
    rfl
  have hlevel : computeLevel (sensed d inp) (sensed d inp).power.grant.toNat = demandOf (sensed d inp) n p := by
    apply computeLevel_quiet
    · rw [hsensed]; dsimp only; rw [hpower, hs]
    · rw [hsensed]; dsimp only; rw [hpower, hb]
    · rw [hsensed, worstReplays]; dsimp only; rw [hstopes]; exact hw
    · rw [hsensed]; dsimp only; rw [hparts, hp]
  rw [level_evaluate, hcap, hlevel, BitVec.toNat_ofNat]
  exact Nat.mod_eq_of_lt ((demandOf_le n p).trans_lt (BitVec.isLt _))

/-- The level is the least that gives every launch with a deadline its slack, or the default, below the grant (R145). -/
theorem level_evaluate_least {d : Dev} {inp : GovernorInput} {n : Nat} {p : Partition} (hin : inp.sensors = [])
    (hs : d.power.sensors = []) (hb : d.power.boost = 0) (hw : worstReplays d ≤ 64) (hp : d.parts = [(n, p)]) :
    let lev := (evaluate d inp).power.level.toNat
    (deadlineLaunches d n = [] → lev = min p.deflt.toNat d.power.grant.toNat) ∧
      (deadlineLaunches d n ≠ [] →
        (lev < d.power.grant.toNat → ∀ x ∈ deadlineLaunches d n, hasSlack d.now x lev = true) ∧
        ∀ l, l < lev → ∃ x ∈ deadlineLaunches d n, hasSlack d.now x l = false) := by
  intro lev
  have hgov : govInput (risksRaised d) = govInput d := govInput_risksRaised d
  have hlaunches : deadlineLaunches (sensed d inp) n = deadlineLaunches (risksRaised d) n := by
    rw [deadlineLaunches, launches_sensed, deadlineLaunches]
  have hlev : lev = demandOf (sensed d inp) n p := level_evaluate_quiet hin hs hb hw hp
  have hnow := now_sensed d inp
  have hgrant := grant_sensed d inp
  refine ⟨fun hnil => ?_, fun hne => ?_⟩
  · have hnil : deadlineLaunches (sensed d inp) n = [] := by
      rw [hlaunches]
      refine List.eq_nil_iff_forall_not_mem.2 fun x hx => ?_
      obtain ⟨y, hy, _⟩ := exists_deadlineLaunch hgov.symm hx
      exact List.ne_nil_of_mem hy hnil
    rw [hlev, demandOf_nil hnil, hgrant]
  · have hne : deadlineLaunches (sensed d inp) n ≠ [] := by
      obtain ⟨x, hx⟩ := List.exists_mem_of_ne_nil _ hne
      obtain ⟨y, hy, _⟩ := exists_deadlineLaunch hgov hx
      rw [hlaunches]
      exact List.ne_nil_of_mem hy
    obtain ⟨_, hall, hleast⟩ := demandOf_least hne p
    rw [← hlev, hlaunches, hnow] at hall hleast
    refine ⟨fun hlt x hx => ?_, fun l hl => ?_⟩
    · obtain ⟨y, hy, hkey⟩ := exists_deadlineLaunch hgov hx
      rw [← hasSlack_congr hkey]
      exact hall (hgrant ▸ hlt) y hy
    · obtain ⟨y, hy, hslack⟩ := hleast l hl
      obtain ⟨x, hx, hkey⟩ := exists_deadlineLaunch hgov.symm hy
      exact ⟨x, hx, by rw [hasSlack_congr hkey, hslack]⟩

end Sys2Proof.Machine
end

section
/-! SUPPORT. Energy samples, completed changes and calibrations (R140, R151, R155, R156), and the statement on the
governor's events. -/

namespace Sys2Proof.Machine

/-! ## Changes of levels (R140, R151) -/

/-- The compute level and its change, memory and the cores, which no wait for 20 mV reaches. -/
def levelled (d : Dev) : BitVec 3 × Option (Nat × Nat × Nat) × List Host.Cell × SMap Core :=
  (d.power.level, d.power.moving, d.mem, d.cores)

theorem levelled_settleVolts (d : Dev) (st : Nat) : levelled (settleVolts d st) = levelled d := by
  obtain ⟨_, _, hlevel, hmoving⟩ := addMv_keeps d.power
  unfold settleVolts
  split
  · exact congrArg₂ (fun l m => (l, m, d.mem, d.cores)) hlevel hmoving
  · rfl

theorem levelled_levelsSettled (d : Dev) : levelled (levelsSettled d) = (d.power.level, none, d.mem, d.cores) :=
  foldl_keeps (α := Nat × Stope) levelled (fun d e => levelled_settleVolts d e.1) d.stopes
    { d with power := { d.power with moving := none, fbMoving := none } }

theorem levelChange_completes (s : State) : ∃ t, exec .levelChangeComplete s = .next t ∧
    clockNow t.dev.power = stopeMhz s.dev.power.level.toNat ∧ t.dev.power.level = s.dev.power.level ∧
    t.dev.mem = s.dev.mem ∧ t.dev.cores = s.dev.cores := by
  have h := levelled_levelsSettled s.dev
  simp only [levelled, Prod.mk.injEq] at h
  obtain ⟨hlevel, hmoving, hmem, hcores⟩ := h
  refine ⟨_, rfl, ?_, hlevel, hmem, hcores⟩
  simp only [setDev_dev, clockNow, clockLevel, hmoving, hlevel]

/-! ## Calibration (R156) -/

theorem calibration_counts (die : BitVec 3) (offset rate : Dword) (s : State)
    (hdie : ¬ (die = 7 ∧ s.dev.lost.getLsbD 3 = true))
    (hcal : calibrated s.dev die.toNat ⟨offset, rate, s.dev.clock⟩ = true) : ∃ t,
      exec (.timeCalibration die offset rate) s = .next t ∧
    converted t.dev die.toNat = offset + BitVec.ofNat 64 (rate.toNat * (dieCount s.dev die.toNat).toNat / 2 ^ 32) ∧
    (∀ e, e ≠ die.toNat → converted t.dev e = converted s.dev e) ∧ t.dev.mem = s.dev.mem := by
  let t := setDev s { s.dev with dies := minsert s.dev.dies die.toNat ⟨offset, rate, s.dev.clock⟩ }
  have ht : exec (.timeCalibration die offset rate) s = .next t := by
    have he : exec (.timeCalibration die offset rate) s = execTimeCalibration die offset rate s := rfl
    rw [he]
    exact if_neg hdie
  have hfind : ∀ e, mfind t.dev.dies e =
      if e = die.toNat then some ⟨offset, rate, s.dev.clock⟩ else mfind s.dev.dies e :=
    fun e => mfind_minsert s.dev.dies die.toNat e _
  have hheld : calibrated t.dev die.toNat ⟨offset, rate, s.dev.clock⟩ = true := hcal
  refine ⟨t, ht, ?_, fun e he => ?_, rfl⟩
  · have htime : dieTime t.dev die.toNat = ⟨offset, rate, s.dev.clock⟩ := by
      rw [dieTime, hfind, if_pos rfl]
      simp [hheld]
    rw [converted, htime]
    rfl
  · have htime : dieTime t.dev e = dieTime s.dev e := by
      rw [dieTime, hfind, if_neg he]
      rfl
    rw [converted, htime]
    rfl

/-! ## Energy samples (R155) -/

/-- n samples more in a ring, or dropped and counted. -/
def sampledBy (n : Nat) (q r : Sampling) : Prop :=
  r.k = q.k ∧
  (q.ring.length + n ≤ ringSize → ∃ xs, r.ring = q.ring ++ xs ∧ xs.length = n ∧ (∀ x ∈ xs, x.length = 32) ∧
    r.dropped = q.dropped) ∧
  (ringSize ≤ q.ring.length → r.ring = q.ring ∧ r.dropped = q.dropped + n)

theorem sampledBy_zero (q : Sampling) : sampledBy 0 q q :=
  ⟨rfl, fun _ => ⟨[], (List.append_nil _).symm, rfl, fun _ hx => absurd hx List.not_mem_nil, rfl⟩, fun _ => ⟨rfl, rfl⟩⟩

theorem sampledBy_trans {m n : Nat} {q r u : Sampling} (h : sampledBy m q r) (h' : sampledBy n r u) :
    sampledBy (m + n) q u := by
  obtain ⟨hk, hroom, hfull⟩ := h
  obtain ⟨hk', hroom', hfull'⟩ := h'
  refine ⟨hk'.trans hk, fun hfits => ?_, fun hlen => ?_⟩
  · obtain ⟨xs, hring, hxs, h32, hdropped⟩ := hroom (by omega)
    obtain ⟨ys, hring', hys, h32', hdropped'⟩ := hroom' (by rw [hring, List.length_append]; omega)
    refine ⟨xs ++ ys, by rw [hring', hring, List.append_assoc], by rw [List.length_append, hxs, hys], fun x hx => ?_,
      hdropped'.trans hdropped⟩
    exact (List.mem_append.1 hx).elim (h32 x) (h32' x)
  · obtain ⟨hring, hdropped⟩ := hfull hlen
    obtain ⟨hring', hdropped'⟩ := hfull' (by rw [hring]; exact hlen)
    exact ⟨hring'.trans hring, by omega⟩

/-- A device that differs from another by n samples of a context, its memory the same. -/
def takesSamples (ctx n : Nat) (d e : Dev) : Prop :=
  e.mem = d.mem ∧ ∀ c q, ctxAt d ctx = some c → c.sampling = some q → q.k ≠ 0 →
    ∃ c' r, ctxAt e ctx = some c' ∧ c'.sampling = some r ∧ sampledBy n q r

theorem takesSamples_addSample (d : Dev) (ctx : Nat) {bs : List Byte} (h : bs.length = 32) :
    takesSamples ctx 1 d (addSample d ctx bs) := by
  constructor
  · unfold addSample
    (repeat' split) <;> rfl
  · intro c q hc hq hk
    unfold addSample
    simp only [hc, hq, hk, if_false]
    split
    · next hfull =>
      exact ⟨_, _, mfind_minsert_self .., rfl, rfl, fun hfits => by omega, fun _ => ⟨rfl, rfl⟩⟩
    · next hroom =>
      exact ⟨_, _, mfind_minsert_self .., rfl, rfl,
        fun _ => ⟨[bs], rfl, rfl, fun x hx => List.mem_singleton.1 hx ▸ h, rfl⟩, fun hfull => absurd hfull hroom⟩

theorem takesSamples_foldl {α : Type} {ctx m : Nat} {f : Dev → α → Dev} (h : ∀ d a, takesSamples ctx m d (f d a))
    (l : List α) (d : Dev) : takesSamples ctx (m * l.length) d (l.foldl f d) := by
  induction l generalizing d with
  | nil => exact ⟨rfl, fun c q hc hq _ => ⟨c, q, hc, hq, sampledBy_zero q⟩⟩
  | cons a r ih =>
    obtain ⟨hmem, hctx⟩ := h d a
    obtain ⟨hmem', hctx'⟩ := ih (f d a)
    refine ⟨hmem'.trans hmem, fun c q hc hq hk => ?_⟩
    obtain ⟨c1, q1, hc1, hq1, hs⟩ := hctx c q hc hq hk
    obtain ⟨c2, q2, hc2, hq2, hs'⟩ := hctx' c1 q1 hc1 hq1 (hs.1 ▸ hk)
    have hn : m * (a :: r).length = m + m * r.length := by rw [List.length_cons, Nat.mul_succ, Nat.add_comm]
    exact ⟨c2, q2, hc2, hq2, hn ▸ sampledBy_trans hs hs'⟩

theorem length_sampleBytes (d : Dev) (k : Nat) (mw : Word) : (sampleBytes d k mw).length = 32 := length_natBytes ..

section
variable {ctx : Nat} {mw : List (Nat × Word)} {s : State} {c : Context} {p : Partition} {q : Sampling}
  (hc : ctxAt s.dev ctx = some c) (hq : c.sampling = some q) (hk : q.k ≠ 0)
include hc hq

theorem sampleDue_eq : sampleDue s.dev ctx = q.due := by simp [sampleDue, hc, hq]

theorem energySample_early (h : q.spent < 1000 * 2 ^ q.k) : exec (.energySample ctx mw) s = .next s := by
  have hdue : sampleDue s.dev ctx = false := by
    rw [sampleDue_eq hc hq, Sampling.due, decide_eq_false (Nat.not_le.2 h), Bool.and_false]
  have he : exec (.energySample ctx mw) s = execEnergySample ctx mw s := rfl
  rw [he, execEnergySample, hdue]
  rfl

theorem ctxAt_nextPeriod : ctxAt (nextPeriod s.dev ctx) ctx =
    some { c with sampling := some { q with spent := q.spent - 1000 * 2 ^ q.k } } := by
  unfold ctxAt at hc
  simp [ctxAt, nextPeriod, mfind_mmod, hc, hq]

include hk in
/-- Once the period has passed, each core of the partition's stopes has a sample taken. -/
theorem energySample_due (hp : partAt s.dev c.part.toNat = some p) (h : 1000 * 2 ^ q.k ≤ q.spent) : ∃ e,
    exec (.energySample ctx mw) s = .next (setDev s e) ∧
      takesSamples ctx (4 * p.stopes.length) (nextPeriod s.dev ctx) e := by
  have hdue : sampleDue s.dev ctx = true := by
    rw [sampleDue_eq hc hq, Sampling.due, decide_eq_true h, Bool.and_true]
    simpa using hk
  have he : exec (.energySample ctx mw) s = execEnergySample ctx mw s := rfl
  have hp' : partAt (nextPeriod s.dev ctx) c.part.toNat = some p := hp
  rw [he, execEnergySample, hdue]
  simp only [ctxAt_nextPeriod hc hq, hp', Bool.not_true, Bool.false_eq_true, if_false]
  exact ⟨_, rfl, takesSamples_foldl (fun d n => takesSamples_foldl (m := 1)
    (fun d k => takesSamples_addSample d ctx (length_sampleBytes ..)) (List.range 4) d) p.stopes _⟩

end

/-! ## The events -/

theorem exec_governorEvaluation (inp : GovernorInput) (s : State) : exec (.governorEvaluation inp) s =
    .next (setDev s (if evaluates s.dev then evaluate s.dev inp else s.dev)) := rfl

/-- The next multiple of 10,000 ns (R143). -/
theorem next_multiple (n : Nat) : n < (n / 10000 + 1) * 10000 ∧ (n / 10000 + 1) * 10000 ≤ n + 10000 ∧
    (n / 10000 + 1) * 10000 % 10000 = 0 := by omega

theorem toNat_ofNat_level {l : Nat} {grant : BitVec 3} (h : l ≤ grant.toNat) :
    (BitVec.ofNat 3 l).toNat ≤ grant.toNat := by
  rw [BitVec.toNat_ofNat]
  exact (Nat.mod_le ..).trans h

/-- Settles O52: an evaluation is its raised risks, its sensed device and the levels below their caps; a sample is due
once its period has passed, and each of its folds adds one sample a core. -/
theorem governorEvents : Obligations.GovernorEvents := by
  unfold Obligations.GovernorEvents
  refine ⟨?early, ?evaluation, fun level s => ⟨_, rfl, rfl⟩, levelChange_completes, calibration_counts, ?sample⟩
  case early =>
    intro inp s h
    have hno : evaluates s.dev = false := decide_eq_false (Nat.not_le.2 h)
    rw [exec_governorEvaluation, hno]
    rfl
  case evaluation =>
    intro inp s h
    have hyes : evaluates s.dev = true := decide_eq_true h
    have hexec : exec (.governorEvaluation inp) s = .next (setDev s (evaluate s.dev inp)) := by
      rw [exec_governorEvaluation, if_pos hyes]
    obtain ⟨p, l, fb, hpower, hl, hfb, hgrant, hsensors, hhot⟩ := power_evaluate s.dev inp
    obtain ⟨hafter, hbound, hmul⟩ := next_multiple s.dev.now
    refine ⟨_, hexec, ?_⟩
    rw [setDev_dev]
    refine ⟨?_, ?_, ?_, ?_, ?_, ?_, ?_, ?_, fun n q hin hs hb hw hp => level_evaluate_least hin hs hb hw hp, ?_⟩
    · rw [hpower]; exact toNat_ofNat_level hl
    · rw [hpower]; exact toNat_ofNat_level hfb
    · rw [hpower]; exact hgrant
    · intro e he
      obtain ⟨_, _, rfl⟩ := List.mem_map.1 he
      rfl
    · rw [hpower]; exact hafter
    · rw [hpower]; exact hbound
    · rw [hpower]; exact hmul
    · rw [hpower]
      rintro ⟨e, he, hkind, hread⟩
      have hany : (sensed s.dev inp).power.sensors.any (isHot 115) = true :=
        List.any_eq_true.2 ⟨e, hsensors ▸ he, by simp [isHot, hkind, hread]⟩
      obtain ⟨rfl, rfl⟩ := hhot hany
      exact ⟨rfl, rfl⟩
    · intro l x v k i hlaunch hstate hrisked hslack hv _ _ hdm htasks htk hcore
      obtain ⟨⟨_, tk⟩, htask, rfl⟩ := List.map_eq_singleton_iff.1 htasks
      have hrun : tk.state = .running := htk tk (by rw [htask]; exact if_pos rfl)
      rw [coreAt_evaluate, risksRaised_single hlaunch, coreAt_raiseRisk hslack hv hstate hrisked hdm htask hrun hcore]
      exact ⟨rfl, fun hen => if_pos hen⟩
  case sample =>
    intro ctx mw s c p q hc hq hk hp
    refine ⟨energySample_early hc hq, fun h => ?_⟩
    obtain ⟨e, hexec, hmem, hctx⟩ := energySample_due (mw := mw) hc hq hk hp h
    obtain ⟨c', r, hc', hr, _, hroom, hfull⟩ := hctx _ _ (ctxAt_nextPeriod hc hq) rfl hk
    exact ⟨_, c', r, hexec, hc', hr, hmem, hroom, hfull⟩

end Sys2Proof.Machine
end

section
/-! SUPPORT. The layout of a word (R181 to R191): a word is of a format exactly where its bits are the format's
fields; the codes of the subfields, each read back as the value that it stands for; and the decoder of each major, whose
answer is the well-formed instruction that the word is of. -/

namespace Sys2Proof

/-! ## Bits of a word -/

/-- The bits of w from s on are x above y exactly where x and y are the bits at their places. -/
theorem extractLsb'_eq_append_iff {k n m : Nat} (s : Nat) (w : BitVec k) (x : BitVec n) (y : BitVec m) :
    w.extractLsb' s (n + m) = x ++ y ↔ w.extractLsb' (s + m) n = x ∧ w.extractLsb' s m = y := by
  rw [← BitVec.extractLsb'_append_extractLsb'_eq_extractLsb' (x := w) (start₂ := s + m) rfl]
  constructor
  · intro h
    exact ⟨by simpa [BitVec.extractLsb'_append_eq_left] using congrArg (BitVec.extractLsb' m n) h,
      by simpa [BitVec.extractLsb'_append_eq_right] using congrArg (BitVec.extractLsb' 0 m) h⟩
  · rintro ⟨rfl, rfl⟩
    rfl

theorem extractLsb'_eq_ofBool_iff {k : Nat} (s : Nat) (w : BitVec k) (b : Bool) :
    w.extractLsb' s 1 = BitVec.ofBool b ↔ w.getLsbD s = b := by
  have h : w.extractLsb' s 1 = BitVec.ofBool (w.getLsbD s) := by
    ext i hi
    obtain rfl : i = 0 := by omega
    simp
  rw [h, BitVec.ofBool_eq_iff_eq]

theorem eq_iff_extractLsb'_eq {l : Nat} (x w : BitVec l) : x = w ↔ w.extractLsb' 0 l = x := by
  rw [BitVec.extractLsb'_eq_self, eq_comm]

/-! ## Formats (R181) -/

section
variable (c : Bool) (maj : BitVec 5) (d a b : BitVec 6) (t u : Bool) (w : Word)

@[simp] theorem fmtR_eq_iff (f : BitVec 6) :
    fmtR c maj d a b t u f = w ↔ w[31] = c ∧ (w.extractLsb' 26 5).toNat = maj.toNat ∧ fD w = d ∧ fA w = a ∧ fB w = b ∧
      w[7] = t ∧ w[6] = u ∧ (w.extractLsb' 0 6).toNat = f.toNat :=
  (eq_iff_extractLsb'_eq (l := 1 + 5 + 6 + 6 + 6 + 1 + 1 + 6) _ _).trans (by
    simp only [fmtR, extractLsb'_eq_append_iff, extractLsb'_eq_ofBool_iff, and_assoc, BitVec.toNat_inj]; rfl)

@[simp] theorem fmtI_eq_iff (i : BitVec 13) :
    fmtI c maj d a t i = w ↔ w[31] = c ∧ (w.extractLsb' 26 5).toNat = maj.toNat ∧ fD w = d ∧ fA w = a ∧ w[13] = t ∧
      w.extractLsb' 0 13 = i :=
  (eq_iff_extractLsb'_eq (l := 1 + 5 + 6 + 6 + 1 + 13) _ _).trans (by
    simp only [fmtI, extractLsb'_eq_append_iff, extractLsb'_eq_ofBool_iff, and_assoc, BitVec.toNat_inj]; rfl)

@[simp] theorem fmtW_eq_iff (q op : BitVec 2) (i : BitVec 16) :
    fmtW c maj d q op i = w ↔ w[31] = c ∧ (w.extractLsb' 26 5).toNat = maj.toNat ∧ fD w = d ∧ w.extractLsb' 18 2 = q ∧
      (w.extractLsb' 16 2).toNat = op.toNat ∧ w.extractLsb' 0 16 = i :=
  (eq_iff_extractLsb'_eq (l := 1 + 5 + 6 + 2 + 2 + 16) _ _).trans (by
    simp only [fmtW, extractLsb'_eq_append_iff, extractLsb'_eq_ofBool_iff, and_assoc, BitVec.toNat_inj]; rfl)

@[simp] theorem fmtB_eq_iff (cond : BitVec 3) (o : BitVec 10) :
    fmtB c maj d a t cond o = w ↔ w[31] = c ∧ (w.extractLsb' 26 5).toNat = maj.toNat ∧ fD w = d ∧ fA w = a ∧
      w[13] = t ∧ (w.extractLsb' 10 3).toNat = cond.toNat ∧ w.extractLsb' 0 10 = o :=
  (eq_iff_extractLsb'_eq (l := 1 + 5 + 6 + 6 + 1 + 3 + 10) _ _).trans (by
    simp only [fmtB, extractLsb'_eq_append_iff, extractLsb'_eq_ofBool_iff, and_assoc, BitVec.toNat_inj]; rfl)

@[simp] theorem fmtJ_eq_iff (o : BitVec 25) :
    fmtJ c maj t o = w ↔ w[31] = c ∧ (w.extractLsb' 26 5).toNat = maj.toNat ∧ w[25] = t ∧ w.extractLsb' 0 25 = o :=
  (eq_iff_extractLsb'_eq (l := 1 + 5 + 1 + 25) _ _).trans (by
    simp only [fmtJ, extractLsb'_eq_append_iff, extractLsb'_eq_ofBool_iff, and_assoc, BitVec.toNat_inj]; rfl)

@[simp] theorem fmtL_eq_iff (l : BitVec 6) (o : BitVec 7) :
    fmtL c maj d a t l o = w ↔ w[31] = c ∧ (w.extractLsb' 26 5).toNat = maj.toNat ∧ fD w = d ∧ fA w = a ∧ w[13] = t ∧
      w.extractLsb' 7 6 = l ∧ w.extractLsb' 0 7 = o :=
  (eq_iff_extractLsb'_eq (l := 1 + 5 + 6 + 6 + 1 + 6 + 7) _ _).trans (by
    simp only [fmtL, extractLsb'_eq_append_iff, extractLsb'_eq_ofBool_iff, and_assoc, BitVec.toNat_inj]; rfl)

@[simp] theorem fmtS_eq_iff (o : BitVec 12) :
    fmtS c maj d a t u o = w ↔ w[31] = c ∧ (w.extractLsb' 26 5).toNat = maj.toNat ∧ fD w = d ∧ fA w = a ∧ w[13] = t ∧
      w[12] = u ∧ w.extractLsb' 0 12 = o :=
  (eq_iff_extractLsb'_eq (l := 1 + 5 + 6 + 6 + 1 + 1 + 12) _ _).trans (by
    simp only [fmtS, extractLsb'_eq_append_iff, extractLsb'_eq_ofBool_iff, and_assoc, BitVec.toNat_inj]; rfl)

@[simp] theorem fmtA_eq_iff (s : BitVec 2) (o : BitVec 3) (z r : Bool) (f : BitVec 6) :
    fmtA c maj d a t s o z r f = w ↔ w[31] = c ∧ (w.extractLsb' 26 5).toNat = maj.toNat ∧ fD w = d ∧ fA w = a ∧
      w[13] = t ∧ w.extractLsb' 11 2 = s ∧ w.extractLsb' 8 3 = o ∧ w[7] = z ∧ w[6] = r ∧
      (w.extractLsb' 0 6).toNat = f.toNat :=
  (eq_iff_extractLsb'_eq (l := 1 + 5 + 6 + 6 + 1 + 2 + 3 + 1 + 1 + 6) _ _).trans (by
    simp only [fmtA, extractLsb'_eq_append_iff, extractLsb'_eq_ofBool_iff, and_assoc, BitVec.toNat_inj]; rfl)

@[simp] theorem fmtVM_eq_iff (l : BitVec 6) (p : BitVec 4) (f : BitVec 3) :
    fmtVM c maj d a t l p f = w ↔ w[31] = c ∧ (w.extractLsb' 26 5).toNat = maj.toNat ∧ fD w = d ∧ fA w = a ∧
      w[13] = t ∧ w.extractLsb' 7 6 = l ∧ w.extractLsb' 3 4 = p ∧ (w.extractLsb' 0 3).toNat = f.toNat :=
  (eq_iff_extractLsb'_eq (l := 1 + 5 + 6 + 6 + 1 + 6 + 4 + 3) _ _).trans (by
    simp only [fmtVM, extractLsb'_eq_append_iff, extractLsb'_eq_ofBool_iff, and_assoc, BitVec.toNat_inj]; rfl)

@[simp] theorem fmtV_eq_iff (p : BitVec 4) (f : BitVec 3) :
    fmtV c maj d a b t p f = w ↔ w[31] = c ∧ (w.extractLsb' 26 5).toNat = maj.toNat ∧ fD w = d ∧ fA w = a ∧ fB w = b ∧
      w[7] = t ∧ w.extractLsb' 3 4 = p ∧ (w.extractLsb' 0 3).toNat = f.toNat :=
  (eq_iff_extractLsb'_eq (l := 1 + 5 + 6 + 6 + 6 + 1 + 4 + 3) _ _).trans (by
    simp only [fmtV, extractLsb'_eq_append_iff, extractLsb'_eq_ofBool_iff, and_assoc, BitVec.toNat_inj]; rfl)

@[simp] theorem fmtVC_eq_iff (r s : BitVec 3) (p : BitVec 4) (g : BitVec 3) :
    fmtVC c maj d a r s t p g = w ↔ w[31] = c ∧ (w.extractLsb' 26 5).toNat = maj.toNat ∧ fD w = d ∧ fA w = a ∧
      w.extractLsb' 11 3 = r ∧ w.extractLsb' 8 3 = s ∧ w[7] = t ∧ w.extractLsb' 3 4 = p ∧
      w.extractLsb' 0 3 = g :=
  (eq_iff_extractLsb'_eq (l := 1 + 5 + 6 + 6 + 3 + 3 + 1 + 4 + 3) _ _).trans (by
    simp only [fmtVC, extractLsb'_eq_append_iff, extractLsb'_eq_ofBool_iff, and_assoc, BitVec.toNat_inj]; rfl)

@[simp] theorem fmtM_eq_iff (x y : BitVec 3) (f : BitVec 6) :
    fmtM c maj d a x y t u f = w ↔ w[31] = c ∧ (w.extractLsb' 26 5).toNat = maj.toNat ∧ fD w = d ∧ fA w = a ∧
      w.extractLsb' 11 3 = x ∧ w.extractLsb' 8 3 = y ∧ w[7] = t ∧ w[6] = u ∧ (w.extractLsb' 0 6).toNat = f.toNat :=
  (eq_iff_extractLsb'_eq (l := 1 + 5 + 6 + 6 + 3 + 3 + 1 + 1 + 6) _ _).trans (by
    simp only [fmtM, extractLsb'_eq_append_iff, extractLsb'_eq_ofBool_iff, and_assoc, BitVec.toNat_inj]; rfl)

@[simp] theorem fmtMD_eq_iff (rsv : BitVec 4) (k : BitVec 2) (m x : BitVec 3) (f : BitVec 6) :
    fmtMD c maj d rsv k m x t u f = w ↔ w[31] = c ∧ (w.extractLsb' 26 5).toNat = maj.toNat ∧ fD w = d ∧
      w.extractLsb' 16 4 = rsv ∧ w.extractLsb' 14 2 = k ∧ w.extractLsb' 11 3 = m ∧ w.extractLsb' 8 3 = x ∧
      w[7] = t ∧ w[6] = u ∧ (w.extractLsb' 0 6).toNat = f.toNat :=
  (eq_iff_extractLsb'_eq (l := 1 + 5 + 6 + 4 + 2 + 3 + 3 + 1 + 1 + 6) _ _).trans (by
    simp only [fmtMD, extractLsb'_eq_append_iff, extractLsb'_eq_ofBool_iff, and_assoc, BitVec.toNat_inj]; rfl)

end

/-! ## Fields of two parts, and fields that the decoder reads as one (R182, R183, R188) -/

section
variable (w : Word)

@[simp] theorem fD_eq_pair (d : BitVec 5) : fD w = d ++ 0#1 ↔ w.extractLsb' 21 5 = d ∧ w[20] = false :=
  (extractLsb'_eq_append_iff 20 w d (BitVec.ofBool false)).trans (by rw [extractLsb'_eq_ofBool_iff]; rfl)

@[simp] theorem fA_eq_pair (a : BitVec 5) : fA w = a ++ 0#1 ↔ w.extractLsb' 15 5 = a ∧ w[14] = false :=
  (extractLsb'_eq_append_iff 14 w a (BitVec.ofBool false)).trans (by rw [extractLsb'_eq_ofBool_iff]; rfl)

@[simp] theorem fD_eq_quad (d : BitVec 4) : fD w = d ++ 0#2 ↔ w.extractLsb' 22 4 = d ∧ w.extractLsb' 20 2 = 0#2 :=
  extractLsb'_eq_append_iff 20 w d 0#2

@[simp] theorem fA_eq_quad (q : BitVec 4) : fA w = q ++ 0#2 ↔ w.extractLsb' 16 4 = q ∧ w.extractLsb' 14 2 = 0#2 :=
  extractLsb'_eq_append_iff 14 w q 0#2

@[simp] theorem fB_eq_quad (f : BitVec 4) : fB w = f ++ 0#2 ↔ w.extractLsb' 10 4 = f ∧ w.extractLsb' 8 2 = 0#2 :=
  extractLsb'_eq_append_iff 8 w f 0#2

@[simp] theorem fB_eq_octet (q : BitVec 3) : fB w = q ++ 0#3 ↔ w.extractLsb' 11 3 = q ∧ w.extractLsb' 8 3 = 0#3 :=
  extractLsb'_eq_append_iff 8 w q 0#3

@[simp] theorem fD_eq_low4 (d : BitVec 4) : fD w = 0#2 ++ d ↔ w.extractLsb' 24 2 = 0#2 ∧ w.extractLsb' 20 4 = d :=
  extractLsb'_eq_append_iff 20 w 0#2 d

@[simp] theorem fD_eq_low3 (d : BitVec 3) : fD w = 0#3 ++ d ↔ w.extractLsb' 23 3 = 0#3 ∧ w.extractLsb' 20 3 = d :=
  extractLsb'_eq_append_iff 20 w 0#3 d

@[simp] theorem fB_eq_low2 (k : BitVec 2) : fB w = 0#4 ++ k ↔ w.extractLsb' 10 4 = 0#4 ∧ w.extractLsb' 8 2 = k :=
  extractLsb'_eq_append_iff 8 w 0#4 k

@[simp] theorem fB_eq_low1 (h : Bool) : fB w = 0#5 ++ BitVec.ofBool h ↔ w.extractLsb' 9 5 = 0#5 ∧ w[8] = h :=
  (extractLsb'_eq_append_iff 8 w 0#5 (BitVec.ofBool h)).trans (by rw [extractLsb'_eq_ofBool_iff]; rfl)

@[simp] theorem noOperands_iff : w.extractLsb' 6 20 = 0#20 ↔
    fD w = 0#6 ∧ fA w = 0#6 ∧ fB w = 0#6 ∧ w[7] = false ∧ w[6] = false :=
  (extractLsb'_eq_append_iff 6 w (0#6 ++ 0#6 ++ 0#6 ++ BitVec.ofBool false) (BitVec.ofBool false)).trans (by
    simp only [extractLsb'_eq_append_iff, extractLsb'_eq_ofBool_iff, and_assoc]; rfl)

@[simp] theorem noTrapBits_iff : w.extractLsb' 6 2 = 0#2 ↔ w[7] = false ∧ w[6] = false :=
  (extractLsb'_eq_append_iff 6 w (BitVec.ofBool false) (BitVec.ofBool false)).trans (by
    simp only [extractLsb'_eq_ofBool_iff]; rfl)

@[simp] theorem noDA_iff : w.extractLsb' 14 12 = 0#12 ↔ fD w = 0#6 ∧ fA w = 0#6 :=
  extractLsb'_eq_append_iff 14 w 0#6 0#6

@[simp] theorem extractLsb'_swptIndex_high : (w.extractLsb' 8 12).extractLsb' 6 6 = fA w :=
  ((extractLsb'_eq_append_iff 8 w _ _).1 BitVec.extractLsb'_append_extractLsb'.symm).1.symm

@[simp] theorem extractLsb'_swptIndex_low : (w.extractLsb' 8 12).extractLsb' 0 6 = fB w :=
  ((extractLsb'_eq_append_iff 8 w _ _).1 BitVec.extractLsb'_append_extractLsb'.symm).2.symm

theorem swptIndex_eq {j : BitVec 12} (ha : fA w = j.extractLsb' 6 6) (hb : fB w = j.extractLsb' 0 6) :
    w.extractLsb' 8 12 = j :=
  ((extractLsb'_eq_append_iff 8 w _ _).2 ⟨ha, hb⟩).trans BitVec.extractLsb'_append_extractLsb'

/-- A 6-bit field names a predicate where its two high bits are zero (R182). -/
@[simp] theorem isPred_extractLsb' {s : Nat} : isPred (w.extractLsb' s 6) = true ↔ w.extractLsb' (s + 4) 2 = 0#2 := by
  have hlow : isPred (w.extractLsb' s 6) = true ↔ (w.extractLsb' s 6).extractLsb' 4 2 = 0#2 := by
    generalize w.extractLsb' s 6 = x
    revert x
    decide
  have hbits : (w.extractLsb' s 6).extractLsb' 4 2 = w.extractLsb' (s + 4) 2 := by
    ext i hi
    simp [Nat.add_assoc]
    omega
  rw [hlow, hbits]

end

/-! ## Codes of subfields (R123, R126, R186, R189, R261, R270, R306) -/

@[simp] theorem scopeCode_scopeOf (x : BitVec 2) : scopeCode (scopeOf x) = x := by
  revert x; decide

@[simp] theorem scopeOf_scopeCode (s : Scope) : scopeOf (scopeCode s) = s := by
  cases s <;> rfl

@[simp] theorem orderOf_eq_some (x : BitVec 3) (o : Order) : orderOf x = some o ↔ x = orderCode o := by
  revert x; cases o <;> decide

@[simp] theorem rndOf_eq_some (x : BitVec 3) (r : Rnd) : rndOf x = some r ↔ x = rndCode r := by
  revert x
  cases r with
  | fixed m => cases m <;> decide
  | dyn => decide

@[simp] theorem cvtCode_cvtOf (x : BitVec 3) : cvtCode (cvtOf x) = x := by
  revert x; decide

@[simp] theorem cvtOf_cvtCode (f : CvtFmt) : cvtOf (cvtCode f) = f := by
  cases f <;> rfl

@[simp] theorem drainOf_eq_some (x : BitVec 3) (f : DrainFmt) : drainOf x = some f ↔ x = drainCode f := by
  revert x; cases f <;> decide

@[simp] theorem redOf_eq_some (x : BitVec 6) (o : RedOp) : redOf x = some o ↔ x = redCode o := by
  revert x; cases o <;> decide

@[simp] theorem elemOf_eq_some (x : BitVec 4) (f : ElemFmt) : elemOf x = some f ↔ x = elemCode f := by
  revert x; cases f <;> decide

@[simp] theorem mstatOf_eq_some (x : BitVec 6) (k : MstatSel) : mstatOf x = some k ↔ x = mstatCode k := by
  revert x
  cases k with
  | bank k => revert k; decide
  | offset k => revert k; decide
  | lease => decide

@[simp] theorem partOf_eq_some (x : BitVec 3) (q : PartSel) : partOf x = some q ↔ x = partCode q := by
  revert x
  cases q with
  | half q => revert q; decide
  | byte q => revert q; decide

@[simp] theorem sysRegOf_eq_some (x : BitVec 6) (r : SysReg) : sysRegOf x = some r ↔ x = sysRegCode r := by
  revert x; cases r <;> decide


/-! ## Decoding a word is sound: what it gives encodes to the word (R188, R191) -/

@[simp] theorem need_eq_ok {α : Type} (b : Bool) (e : DecodeError) (x : Except DecodeError α) (y : α) :
    need b e x = .ok y ↔ b = true ∧ x = .ok y := by
  cases b <;> simp [need]

@[simp] theorem field_eq_ok {α β : Type} (x : Option α) (k : α → Except DecodeError β) (y : β) :
    field x k = .ok y ↔ ∃ v, x = some v ∧ k v = .ok y := by
  cases x <;> simp [field]

/-- What a decoder answers for w is no instruction, or a well-formed one whose word is w. -/
def Sound (w : Word) (x : Except DecodeError Instr) : Prop :=
  ∀ i, x = .ok i → encode (w.getLsbD 31) i = [w] ∧ wellFormed i = true

section
variable {w : Word}

@[simp] theorem sound_error (e : DecodeError) : Sound w (.error e) := by
  intro i h
  simp at h

@[simp] theorem sound_ok (i : Instr) :
    Sound w (.ok i) ↔ encode (w.getLsbD 31) i = [w] ∧ wellFormed i = true := by
  simp [Sound]

@[simp] theorem sound_need (b : Bool) (e : DecodeError) (x : Except DecodeError Instr) :
    Sound w (need b e x) ↔ (b = true → Sound w x) := by
  cases b <;> simp [need]

@[simp] theorem sound_field {α : Type} (x : Option α) (k : α → Except DecodeError Instr) :
    Sound w (field x k) ↔ ∀ v, x = some v → Sound w (k v) := by
  cases x <;> simp [field]

/-- One case per major, and in it one per row of its table: the row's format has the word's own fields. A major of one
row has no second split; that of jumps splits by the link bit. -/
theorem sound_decodeOp : Sound w (decodeOp w) := by
  unfold decodeOp decodeSystem decodeAlu decodeAddi decodeMulDiv decodeImm decodeBranch decodeJump decodeJumpReg
    decodeLoopPred decodeLoad decodeStore decodeAtomic decodeVecMem decodeGather decodeVecInt decodeVecFp decodeVecFma
    decodeConvert decodeVecMove decodeSpecial decodeVecCmp decodeArray decodeMatrix decodeDrain decodeCopy
    decodeCopyPage decodeRemote decodeFabric decodeWait
  split
  case h_3 | h_10 | h_11 | h_18 => simp +contextual [encode, wellFormed, *]
  case h_7 => split <;> simp_all [encode, wellFormed]
  case h_30 => exact sound_error _
  all_goals split <;> simp +contextual [encode, wellFormed, *]

end

/-! ## Decoding is complete: the word of a well-formed instruction gives it back (R181 to R190) -/

theorem decode_eq_ok (w : Word) (c : Bool) (i : Instr) :
    decode w = .ok (c, i) ↔ w.getLsbD 31 = c ∧ decodeOp w = .ok i := by
  unfold decode
  cases decodeOp w <;> simp

/-- One case per format: the format's fields are taken from the word, and the decoder's arm is the one of their major
and function. Where the row has a field that must be zero, or that has values of no meaning, wellFormed gives it. -/
theorem decodeOp_of_mem_encode {c : Bool} {i : Instr} {w : Word} (hwf : wellFormed i = true) (hw : w ∈ encode c i) :
    w.getLsbD 31 = c ∧ decodeOp w = .ok i := by
  cases i
  case add | sub | and | or | xor | andn | sll | srl | sra | rotl | slt | sltu | seq | min | max | minu | maxu |
      mul | mulh | mulhu | mulhsu | div | divu | rem | remu | call | rld | rst | ratAdd | ratAnd | ratOr | ratXor |
      ratMin | ratMax | ratSwap | rredAdd | rredAnd | rredOr | rredXor | rredMin | rredMax | rredFadd | rredFmin |
      rredFmax | ticket | flagset =>
    obtain ⟨rfl, hm, rfl, rfl, rfl, rfl, rfl, hf⟩ := (fmtR_eq_iff ..).1 (List.mem_singleton.1 hw).symm
    unfold decodeOp decodeAlu decodeMulDiv decodeJumpReg decodeRemote decodeFabric
    rw [hm, hf]
    exact ⟨rfl, rfl⟩
  case nop | trap | eret | rdsr | wrsr | snaprd | snapwr | fenceS | fenceD | fenceY | suspend | endstep | exit |
      launch | deadline | waitge | armcnt | bar | clz | popc | slli | srli | srai | rotli | jr | jalr | ret |
      gset | mlease | mrel | mstat | stage | post | trig | flagadd | barg =>
    obtain ⟨rfl, hm, hd, ha, hb, ht, hu, hf⟩ := (fmtR_eq_iff ..).1 (List.mem_singleton.1 hw).symm
    refine ⟨rfl, ?_⟩
    unfold decodeOp decodeSystem decodeAlu decodeJumpReg decodeArray decodeCopy decodeFabric decodeWait
    rw [hm, hf]
    change need _ _ _ = _
    simp [hd, ha, hb, ht, hu]
  case loop | cpy | cpyh | cpyp | cpye | mclr | mofs | ratCas =>
    obtain ⟨rfl, hm, hd, ha, hb, ht, hu, hf⟩ := (fmtR_eq_iff ..).1 (List.mem_singleton.1 hw).symm
    refine ⟨rfl, ?_⟩
    unfold decodeOp decodeLoopPred decodeArray decodeCopy decodeCopyPage decodeRemote
    rw [hm, hf]
    change need _ _ _ = _
    simp_all [wellFormed]
  case pand | por | pxor | pandn | pnot | pcnt =>
    obtain ⟨rfl, hm, rfl, rfl, hb, rfl, hu, hf⟩ := (fmtR_eq_iff ..).1 (List.mem_singleton.1 hw).symm
    refine ⟨rfl, ?_⟩
    unfold decodeOp decodeLoopPred
    rw [hm, hf]
    change need _ _ _ = _
    simp [wellFormed, ← hb] at hwf
    simp [hwf, hb, hu]
  case swpt =>
    obtain ⟨rfl, hm, hd, ha, hb, ht, hu, hf⟩ := (fmtR_eq_iff ..).1 (List.mem_singleton.1 hw).symm
    simp [decodeOp, hm, decodeSystem, hf, hd, ht, hu, swptIndex_eq w ha hb]
  case addi =>
    obtain ⟨rfl, hm, rfl, rfl, rfl, rfl⟩ := (fmtI_eq_iff ..).1 (List.mem_singleton.1 hw).symm
    simp [decodeOp, hm, decodeAddi]
  case li | lik =>
    obtain ⟨rfl, hm, rfl, rfl, ho, rfl⟩ := (fmtW_eq_iff ..).1 (List.mem_singleton.1 hw).symm
    simp [decodeOp, hm, decodeImm, ho]
  case beq | bne | blt | bge | bltu | bgeu =>
    obtain ⟨rfl, hm, rfl, rfl, rfl, hf, rfl⟩ := (fmtB_eq_iff ..).1 (List.mem_singleton.1 hw).symm
    simp [decodeOp, hm, decodeBranch, hf]
  case jmp | jal =>
    obtain ⟨rfl, hm, hl, rfl⟩ := (fmtJ_eq_iff ..).1 (List.mem_singleton.1 hw).symm
    simp [decodeOp, hm, decodeJump, hl]
  case ld =>
    obtain ⟨rfl, hm, rfl, rfl, rfl, rfl, rfl⟩ := (fmtL_eq_iff ..).1 (List.mem_singleton.1 hw).symm
    simp [decodeOp, hm, decodeLoad]
  case st =>
    obtain ⟨rfl, hm, rfl, rfl, rfl, rfl, rfl⟩ := (fmtS_eq_iff ..).1 (List.mem_singleton.1 hw).symm
    simp [decodeOp, hm, decodeStore]
  case ald | ast | atomAdd | atomAnd | atomOr | atomXor | atomMin | atomMax | atomMinu | atomMaxu | atomSwap |
      atomFadd | atomFmin | atomFmax | acas | acas2 | aenq | apchase | aredAdd | aredAnd | aredOr | aredXor |
      aredMin | aredMax | aredMinu | aredMaxu | aredFadd | aredFmin | aredFmax =>
    obtain ⟨rfl, hm, hd, rfl, rfl, hs, ho, hz, hr, hf⟩ := (fmtA_eq_iff ..).1 (List.mem_singleton.1 hw).symm
    refine ⟨rfl, ?_⟩
    unfold decodeOp decodeAtomic
    rw [hm, hf]
    change need _ _ _ = _
    simp_all [wellFormed]
  case vld | vstW | vstH | vstB =>
    obtain ⟨rfl, hm, rfl, rfl, rfl, hl, hp, hf⟩ := (fmtVM_eq_iff ..).1 (List.mem_singleton.1 hw).symm
    simp [decodeOp, hm, decodeVecMem, hf, hl, hp]
  case vgather | vscatter | vadd | vsub | vmul | vmin | vmax | vand | vor | vxor | vfadd | vfsub | vfmul | vfdiv |
      vfmin | vfmax | vfma | vfms | vfnma | vfnms | vmad | vdot4 | vshl | vshr | vshra | vperm | vsel =>
    obtain ⟨rfl, hm, rfl, rfl, rfl, rfl, rfl, hf⟩ := (fmtV_eq_iff ..).1 (List.mem_singleton.1 hw).symm
    unfold decodeOp decodeGather decodeVecInt decodeVecFp decodeVecFma decodeVecMove decodeVecCmp
    rw [hm, hf]
    exact ⟨rfl, rfl⟩
  case vfsqrt | vfabs | vexp2 | vlog2 | vrcp | vrsqrt | vsinpi | vtanh | vrng | vbcast | vpack | vunpack | vqnt |
      vcmpeq | vcmplt | vcmple | vfcmpeq | vfcmplt | vfcmple | vmsk =>
    obtain ⟨rfl, hm, hd, rfl, hb, ht, hp, hf⟩ := (fmtV_eq_iff ..).1 (List.mem_singleton.1 hw).symm
    refine ⟨rfl, ?_⟩
    unfold decodeOp decodeVecFp decodeVecMove decodeSpecial decodeVecCmp
    rw [hm, hf]
    change need _ _ _ = _
    simp_all [wellFormed]
  case vred =>
    obtain ⟨rfl, hm, rfl, rfl, hb, rfl, rfl, hf⟩ := (fmtV_eq_iff ..).1 (List.mem_singleton.1 hw).symm
    simp [decodeOp, hm, decodeVecMove, hf, hb]
  case vcvt =>
    obtain ⟨rfl, hm, rfl, rfl, hr, hs, rfl, rfl, hg⟩ := (fmtVC_eq_iff ..).1 (List.mem_singleton.1 hw).symm
    simp_all [decodeOp, decodeConvert, wellFormed]
  case mma | mmaw =>
    obtain ⟨rfl, hm, hd, ha, rfl, rfl, rfl, hr, hf⟩ := (fmtM_eq_iff ..).1 (List.mem_singleton.1 hw).symm
    simp_all [decodeOp, decodeMatrix]
  case mdrain =>
    obtain ⟨rfl, hm, hd, hv, rfl, hr, hx, ht, hu, hf⟩ := (fmtMD_eq_iff ..).1 (List.mem_singleton.1 hw).symm
    simp_all [decodeOp, decodeDrain]
  all_goals cases hw

/-- Settles O1: the word of each instruction has the fields of its row, and the decoder's arm reads them back. -/
theorem encodedWordsDecode : Obligations.EncodedWordsDecode := by
  unfold Obligations.EncodedWordsDecode
  intro c i w hwf hw
  exact (decode_eq_ok w c i).2 (decodeOp_of_mem_encode hwf hw)

/-- Settles O2: each major's decoder answers only an instruction whose row gives back every bit of the word. -/
theorem decodedWordsEncode : Obligations.DecodedWordsEncode := by
  unfold Obligations.DecodedWordsEncode
  intro c i w h
  obtain ⟨rfl, hi⟩ := (decode_eq_ok w c i).1 h
  exact sound_decodeOp i hi

theorem decode_of_encode_eq {c : Bool} {i : Instr} {w : Word} (hwf : wellFormed i = true) (hw : encode c i = [w]) :
    decode w = .ok (c, i) :=
  (decode_eq_ok w c i).2 (decodeOp_of_mem_encode hwf (hw ▸ List.mem_singleton_self w))

/-- Settles O3: each word that the spec writes out is the word of its instruction. -/
theorem exampleWordsDecode : Obligations.ExampleWordsDecode := by
  unfold Obligations.ExampleWordsDecode
  exact ⟨decode_of_encode_eq rfl rfl, decode_of_encode_eq rfl rfl, decode_of_encode_eq rfl rfl,
    decode_of_encode_eq rfl rfl, decode_of_encode_eq rfl rfl, decode_of_encode_eq rfl rfl,
    decode_of_encode_eq rfl rfl, decode_of_encode_eq rfl rfl⟩

end Sys2Proof
end

section
/-! SUPPORT. What the fetch of a clause comes to (R191), where the core neither waits for it nor touches a lost die. -/

namespace Sys2Proof.Machine

theorem decode_reservedMajor {w : Word} (h : 29 ≤ (w.extractLsb' 26 5).toNat) : decode w = .error .reservedMajor := by
  have hop : decodeOp w = .error .reservedMajor := by
    unfold decodeOp
    split
    case h_30 => rfl
    all_goals omega
  simp [decode, hop]

theorem decode_nop_reservedField {w : Word} (hm : w.extractLsb' 26 5 = 0) (hf : w.extractLsb' 0 6 = 0)
    (h : w.extractLsb' 0 26 ≠ 0) : decode w = .error .reservedField := by
  have hbits : w.extractLsb' 6 20 ≠ 0#20 := fun h20 => h ((extractLsb'_eq_append_iff 0 w 0#20 0#6).2 ⟨h20, hf⟩)
  have hop : decodeOp w = .error .reservedField := by
    simp only [decodeOp, hm, decodeSystem, hf]
    exact if_neg (by simpa using hbits)
  simp [decode, hop]

theorem checkWords_illegal {w : Word} {e : DecodeError} (h : decode w = .error e) (a : Va) (ws : List Word) :
    checkWords [] 0 a (w :: ws) = .error (causeIllegalOpcode, a) := by
  simp [checkWords, h]

section
variable {s : State} {x : Launch} {ws : List Word}

theorem fetchIssue_error {cause : Nat} {va : Va} (hx : launchOf s.dev s.cur = some x)
    (hw : fetchWaits s.dev s.cur x = false) (hl : fetchDies s.dev s.cur x &&& s.dev.lost = 0)
    (hf : fetchWords (touchDies s.dev x.ctx (fetchDies s.dev s.cur x)) x (stopeOf s.cur) 6 (coreAt s.dev s.cur).pc =
      .words ws)
    (hc : checkWords [] 0 (coreAt s.dev s.cur).pc ws = .error (cause, va)) :
    fetchIssue s = .next (setDev s (takeTrap (touchDies s.dev x.ctx (fetchDies s.dev s.cur x)) s.cur cause
      (va.setWidth 64) (coreAt s.dev s.cur).pc)) := by
  simp [fetchIssue, hx, hw, touchLost, hl, hf, hc, setDev]

theorem fetchIssue_ok {ps : List Placed} (hx : launchOf s.dev s.cur = some x)
    (hw : fetchWaits s.dev s.cur x = false) (hl : fetchDies s.dev s.cur x &&& s.dev.lost = 0)
    (hf : fetchWords (touchDies s.dev x.ctx (fetchDies s.dev s.cur x)) x (stopeOf s.cur) 6 (coreAt s.dev s.cur).pc =
      .words ws)
    (hc : checkWords [] 0 (coreAt s.dev s.cur).pc ws = .ok ps) :
    fetchIssue s = issueClause (setDev s (touchDies s.dev x.ctx (fetchDies s.dev s.cur x))) ps := by
  simp [fetchIssue, hx, hw, touchLost, hl, hf, hc, setDev]

end

/-- Settles O4: no arm of the decoder takes such a word, and the check of a clause of one word is the decoder's. -/
theorem illegalWordsTrap : Obligations.IllegalWordsTrap := by
  unfold Obligations.IllegalWordsTrap
  refine ⟨fun w h => ⟨_, decode_reservedMajor h⟩, fun w hm hf h => ⟨_, decode_nop_reservedField hm hf h⟩, ?_⟩
  intro s k x w e hx hw hl d hf hd
  exact fetchIssue_error (s := { s with cur := k }) hx hw hl hf (checkWords_illegal hd _ _)

end Sys2Proof.Machine
end

section
/-! SUPPORT. What a fence waits for (R276), and that nothing is performed where nothing waits. -/

namespace Sys2Proof.Machine

theorem advanceEpoch_eq_nextEpoch (e : BitVec 12) : advanceEpoch e = nextEpoch e := by
  unfold advanceEpoch nextEpoch
  split
  · subst e
    rfl
  · rename_i h
    have hne : e.toNat ≠ 4095 := fun he => h (BitVec.eq_of_toNat_eq he)
    have hlt := e.isLt
    apply BitVec.eq_of_toNat_eq
    rw [BitVec.toNat_add, BitVec.toNat_ofNat, Nat.min_eq_right (by omega)]
    rfl

theorem advance_eq (s : State) : advance s = setLive s { live s with epoch := nextEpoch (live s).epoch } := by
  simp only [advance, modLive, advanceEpoch_eq_nextEpoch]

theorem storesLeft_eq_false {c : Core} : storesLeft c = false ↔ c.window = [] ∧ c.acks = [] := by
  simp [storesLeft]

theorem arrived_of_loadsOut {c : Core} (h : loadsOut c = false) :
    ∀ f ∈ c.flights, isLoad f.src = true → f.arrived = true := by
  simp only [loadsOut, loadsLeft, Bool.or_eq_false_iff, List.any_eq_false] at h
  obtain ⟨⟨hflights, -⟩, -⟩ := h
  intro f hf hl
  simpa [hl] using hflights f hf

/-- A load that waits for a word waits at all. -/
theorem loadsBefore_eq_false {c : Core} (h : loadsOut c = false) (word : Nat) : loadsBefore c word = false := by
  simp only [loadsOut, loadsLeft, Bool.or_eq_false_iff, List.any_eq_false] at h
  obtain ⟨⟨hflights, hlatch⟩, hport⟩ := h
  simp only [loadsBefore, Bool.or_eq_false_iff, List.any_eq_false]
  constructor
  · intro f hf
    have ha := hflights f hf
    have hp := hport f hf
    grind
  · cases hc : c.latch with
    | none => rfl
    | some l =>
      simp only [hc, Bool.and_eq_false_iff, List.any_eq_false] at hlatch ⊢
      refine hlatch.imp_right fun h e he => ?_
      have := h e he
      grind

theorem earlierClear_eq_false {s : State}
    (h : loadsBefore (src s) (wordId s) = true ∨ (src s).window ≠ [] ∨ (src s).acks ≠ []) : earlierClear s = false := by
  rcases h with h | h | h <;> simp [earlierClear, storesLeft, h]

theorem earlierClear_of_quiet {s : State} (h : quiet s) : earlierClear s = true := by
  obtain ⟨hstores, -, hloads, -⟩ := h
  simp [earlierClear, hstores, loadsBefore_eq_false hloads]

theorem performOwn_of_quiet {s : State} (h : quiet s) : performOwn s = s := by
  obtain ⟨-, hstores, -, hloads⟩ := h
  obtain ⟨hwindow, hacks⟩ := storesLeft_eq_false.1 hstores
  have hflights := arrived_of_loadsOut hloads
  have hnone : ∀ w v : Nat,
      (live s).flights.filter (fun f => w ≤ f.word && f.word < v && isLoad f.src && !f.arrived) = [] := by
    intro w v
    rw [List.filter_eq_nil_iff]
    intro f hf
    cases hl : isLoad f.src <;> simp [hl, hflights f hf]
  simp only [performOwn, performUpTo, hnone, List.foldl_nil]
  change setDev s (takeAcks (closeAll s.dev s.cur _ ((live s).window.takeWhile _).length) s.cur) = s
  rw [hwindow]
  change setDev s ((live s).acks.foldl _ s.dev) = s
  rw [hacks]
  rfl

theorem withFlush_of_not_earlierClear {s : State} (h : earlierClear s = false) (k : State → Out) :
    withFlush s k = hold s := by
  simp [withFlush, h]

theorem withFlush_of_waits {s : State} (h : earlierClear s = true)
    (hw : storesLeft (live (performOwn s)) = true ∨ loadsBefore (live (performOwn s)) (7 * s.dev.issues + 7) = true)
    (k : State → Out) : withFlush s k = hold s := by
  simp [withFlush, h, hw]

theorem withFlush_of_clear {s : State} (h : earlierClear s = true)
    (hs : storesLeft (live (performOwn s)) = false)
    (hl : loadsBefore (live (performOwn s)) (7 * s.dev.issues + 7) = false) (k : State → Out) :
    withFlush s k = k (performOwn s) := by
  simp [withFlush, h, hs, hl]

theorem fence_of_clear {s : State} (h : earlierClear s = true) (hs : storesLeft (live (performOwn s)) = false)
    (hl : loadsBefore (live (performOwn s)) (7 * s.dev.issues + 7) = false) :
    fence s = .next (setLive (performOwn s)
      { live (performOwn s) with epoch := nextEpoch (live (performOwn s)).epoch }) := by
  rw [fence, withFlush_of_clear h hs hl, advance_eq]

theorem fence_of_quiet {s : State} (h : quiet s) :
    fence s = .next (setLive s { live s with epoch := nextEpoch (live s).epoch }) := by
  have hown := performOwn_of_quiet h
  have hearlier := earlierClear_of_quiet h
  obtain ⟨-, hstores, -, hloads⟩ := h
  have := fence_of_clear hearlier (by rwa [hown]) (loadsBefore_eq_false (by rwa [hown]) _)
  rwa [hown] at this

theorem exec_fence {i : Instr} (hi : i ∈ [Instr.fenceS, .fenceD, .fenceY]) (s : State) : exec i s = fence s := by
  simp only [List.mem_cons, List.not_mem_nil, or_false] at hi
  rcases hi with rfl | rfl | rfl <;> rfl

/-- Settles O23: the fences of all scopes are one word, whose flush leaves a core with nothing outstanding as it is. -/
theorem nopAndFences : Obligations.NopAndFences := by
  unfold Obligations.NopAndFences
  refine ⟨fun s => rfl, fun i hi s => ?_⟩
  rw [exec_fence hi]
  exact ⟨fence_of_quiet, fun h => withFlush_of_not_earlierClear (earlierClear_eq_false h) _,
    fun he => ⟨fun h => withFlush_of_waits he h _, fence_of_clear he⟩⟩

end Sys2Proof.Machine
end

section
/-! SUPPORT. The checks of an access (R233) where they pass, and what a load leaves to come (R236, R238). -/

namespace Sys2Proof.Machine

theorem offsetOf_eq_ofInt {n : Nat} (o : BitVec n) : offsetOf o = BitVec.ofInt 64 (8 * o.toInt) := by
  rw [offsetOf, BitVec.signExtend, ← BitVec.mul_twoPow_eq_shiftLeft, Int.mul_comm, BitVec.ofInt_mul]
  rfl

theorem ushiftRight_eq_zero_of_lt {va : Dword} (h : va.toNat < 2 ^ 48) : va >>> 48 = 0 :=
  BitVec.eq_of_toNat_eq (by simpa [Nat.shiftRight_eq_div_pow] using h)

theorem fst_granulesAt (p : Place) (va : Dword) (n : Nat) : (granulesAt p va n).map (·.1) = accessGranules p n := by
  unfold granulesAt accessGranules
  cases locOf p with
  | none => rfl
  | some l => simp [Function.comp_def]

theorem loadSrcOf_of_locOf {p : Place} {loc : Nat} (h : locOf p = some loc) (n : Nat) :
    loadSrcOf p n = .bytes loc n := by
  cases p <;> cases h <;> rfl

section
variable {s : State} {x : Launch} {p : Place}

theorem withPlace_of_reaches {q : Reach} (h : reaches s q x p) (k : Place → Out) : withPlace s q k = k p := by
  obtain ⟨hx, hva, hplace, htarget, halign⟩ := h
  simp [withPlace, withLaunch, hx, ushiftRight_eq_zero_of_lt hva, hplace, htarget, halign]

theorem withRace_of_raceFree {gs : List (Nat × Dword)} {write atom : Bool} {tags : SMap Tag}
    (hx : launchOf s.dev s.cur = some x) (h : raceFree s x (gs.map (·.1)) write atom false tags) (k : State → Out) :
    withRace s gs write atom k = k (setDev s { s.dev with tags := tags }) := by
  obtain ⟨r, hrun, -, hrace⟩ := h
  simp [withRace, withLaunch, hx, hrun, hrace, setDev]

theorem withDies_of_diesSound {bits : Byte} (hx : launchOf s.dev s.cur = some x) (h : diesSound s bits)
    (k : State → Out) : withDies s bits k = k (setDev s (touchDies s.dev x.ctx bits)) := by
  have hlost : bits &&& s.dev.lost = 0 := h
  simp [withDies, withLaunch, hx, hlost, setDev]

/-- The checks of R233 in a row: where they pass, the access goes on with its race tags and its bits of sr.dmask. -/
theorem checks_of_passed {q : Reach} {n : Nat} {write : Bool} {tags : SMap Tag} (hreach : reaches s q x p)
    (hrace : raceFree s x (accessGranules p n) write false false tags) (hdies : diesSound s (diesOf (stopeOf s.cur) p))
    (k : Place → State → Out) :
    (withPlace s q fun p => withRace s (granulesAt p q.va n) write false fun s =>
      withDies s (diesOf (stopeOf s.cur) p) fun s => k p s) = k p (accessed s x (diesOf (stopeOf s.cur) p) tags) := by
  have hx : launchOf s.dev s.cur = some x := hreach.1
  rw [withPlace_of_reaches hreach, withRace_of_raceFree hx (by rwa [fst_granulesAt])]
  exact withDies_of_diesSound (s := setDev s { s.dev with tags := tags }) hx hdies _

end

/-- Settles O28: with full sources the checks decide, and the load's source is the one of its place's kind. -/
theorem loadWords : Obligations.LoadWords := by
  unfold Obligations.LoadWords
  refine fun d b t l o s x p tags => ⟨fun hfull hreach hrace hdies => ⟨loadSrcOf p 8, ?_, ?_⟩,
    fun hfull hreach hrace hdies => ⟨loadSrcOf p 128, ?_, fun loc hloc => loadSrcOf_of_locOf hloc 128⟩⟩
  · rw [← offsetOf_eq_ofInt] at hreach
    exact (withSources_full hfull _).trans (checks_of_passed hreach hrace hdies _)
  · exact ⟨fun loc hloc => loadSrcOf_of_locOf hloc 8, by rintro w rfl; rfl, by rintro k w rfl; rfl⟩
  · exact (withSources_full hfull _).trans (checks_of_passed hreach hrace hdies _)

end Sys2Proof.Machine
end

section
/-! SUPPORT. Every word checks its sources before it does anything else (R182, R202). -/

namespace Sys2Proof.Machine

/-- What an instruction does, it does with its sources full; an event names no source. -/
theorem exec_eq_withSources (i : Instr) (s : State) : ∃ k, exec i s = withSources s (sourcesOf i s) k := by
  cases i
  case mstat d q => cases q <;> exact ⟨_, rfl⟩
  all_goals exact ⟨_, rfl⟩

/-- Settles O13: the check of the sources comes first in every word. -/
theorem emptySourcesTrapOrFreeze : Obligations.EmptySourcesTrapOrFreeze := by
  unfold Obligations.EmptySourcesTrapOrFreeze
  intro i s x hx
  obtain ⟨k, hk⟩ := exec_eq_withSources i s
  rw [hk, withSources_empty hx]

end Sys2Proof.Machine
end

section
/-! SUPPORT. Every word, event and turn answers a next state: each operation that the words share does where what goes
on after it does. -/

namespace Sys2Proof.Machine

/-- An outcome is a next state. -/
def Answers (o : Out) : Prop := ∃ t, o = .next t

/-! ## The operations that the words share -/

theorem answers_next (t : State) : Answers (.next t) := ⟨t, rfl⟩

theorem answers_ite {p : Prop} [Decidable p] {a b : Out} (ha : Answers a) (hb : Answers b) :
    Answers (if p then a else b) := by
  split
  · exact ha
  · exact hb

section
variable {s : State}

theorem answers_trap (c : Nat) (i : Dword) : Answers (trap s c i) := answers_next _

theorem answers_hold : Answers (hold s) := answers_next _

theorem answers_withSources {xs : List Source} {k : Out} (hk : Answers k) : Answers (withSources s xs k) := by
  unfold withSources
  split
  · exact answers_ite (answers_trap ..) (answers_next _)
  · exact hk

theorem answers_checked {b : Bool} {c : Nat} {i : Dword} {k : Out} (hk : Answers k) : Answers (checked s b c i k) :=
  answers_ite (answers_trap ..) hk

theorem answers_checkTarget {x : Dword} {k : Out} (hk : Answers k) : Answers (checkTarget s x k) :=
  answers_checked (answers_checked hk)

theorem answers_inDmode {b : Bool} {k : Out} (hk : Answers k) : Answers (inDmode s b k) :=
  answers_ite (answers_trap ..) hk

theorem answers_withOrder {loc n : Nat} {k : Out} (hk : Answers k) : Answers (withOrder s loc n k) :=
  answers_ite answers_hold hk

theorem answers_withOffset {off : Dword} {k : Out} (hk : Answers k) : Answers (withOffset s off k) :=
  answers_checked (answers_checked hk)

theorem answers_suspendAfter (st : TaskState) (c : Nat) (wf : WaitFor) (wa wv : Dword) :
    Answers (suspendAfter s st c wf wa wv) := by
  unfold suspendAfter
  split
  · exact answers_next _
  · exact answers_trap ..

theorem answers_suspendWait (wf : WaitFor) (wa wv : Dword) : Answers (suspendWait s wf wa wv) := by
  unfold suspendWait
  simp only
  split
  · exact answers_next _
  · exact answers_trap ..

theorem answers_touchPage (n : Nat) (va : Dword) : Answers (touchPage s n va) := by
  unfold touchPage
  simp only
  split
  · exact answers_next _
  · split
    · exact answers_next _
    · exact answers_trap ..

theorem answers_withLaunch {k : Launch → Out} (hk : ∀ x, Answers (k x)) : Answers (withLaunch s k) := by
  unfold withLaunch
  split
  · exact hk _
  · exact answers_hold

theorem answers_withPlace {q : Reach} {k : Place → Out} (hk : ∀ p, Answers (k p)) : Answers (withPlace s q k) := by
  refine answers_withLaunch fun x => answers_ite (answers_trap ..) ?_
  split
  · exact answers_trap ..
  · exact answers_touchPage ..
  · exact answers_ite (answers_trap ..) (answers_ite (answers_trap ..) (hk _))

theorem answers_withDies {bits : Byte} {k : State → Out} (hk : ∀ t, Answers (k t)) : Answers (withDies s bits k) :=
  answers_withLaunch fun _ => answers_ite (answers_trap ..) (hk _)

theorem answers_withRace {gs : List (Nat × Dword)} {w a : Bool} {k : State → Out} (hk : ∀ t, Answers (k t)) :
    Answers (withRace s gs w a k) := by
  refine answers_withLaunch fun x => ?_
  split
  · exact answers_hold
  · simp only
    split
    · exact answers_trap ..
    · exact hk _

theorem answers_withFlush {k : State → Out} (hk : ∀ t, Answers (k t)) : Answers (withFlush s k) :=
  answers_ite answers_hold (answers_ite answers_hold (hk _))

theorem answers_withOwn {gs : List Nat} {k : State → Out} (hk : ∀ t, Answers (k t)) : Answers (withOwn s gs k) :=
  answers_ite (answers_ite answers_hold (answers_ite answers_hold (hk _))) (hk _)

theorem answers_withRelease {k : State → Out} (hk : ∀ t, Answers (k t)) : Answers (withRelease s k) :=
  answers_ite (answers_withFlush hk) (answers_ite answers_hold (answers_ite (hk _) answers_hold))

theorem answers_withRange {va : Dword} {n : Nat} {k : List Nat → Out} (hk : ∀ l, Answers (k l)) :
    Answers (withRange s va n k) := by
  refine answers_withLaunch fun x => ?_
  simp only
  split
  · split
    · exact answers_trap ..
    · exact answers_touchPage ..
    · exact answers_next _
  · exact hk _

theorem answers_readRange {va : Dword} {locs : List Nat} {stopped : State → State} {k : State → List Byte → Out}
    (hk : ∀ t bs, Answers (k t bs)) : Answers (readRange s va locs stopped k) := by
  refine answers_withLaunch fun x => ?_
  split
  · exact answers_hold
  · refine answers_ite answers_hold ?_
    simp only
    split
    · exact answers_withDies fun _ => answers_next _
    · exact answers_withDies fun _ => hk _ _

theorem answers_withCounter {n : RegNum} {k : Option Nat → Out} (hk : ∀ x, Answers (k x)) :
    Answers (withCounter s n k) :=
  answers_ite (hk _) (answers_withPlace fun _ => hk _)

theorem answers_withCounterAt {va : Dword} {k : Option Nat → Out} (hk : ∀ x, Answers (k x)) :
    Answers (withCounterAt s va k) :=
  answers_ite (hk _) (answers_withPlace fun _ => hk _)

theorem answers_withCounterRace {p : Place} {va : Dword} {w : Bool} {k : State → Out} (hk : ∀ t, Answers (k t)) :
    Answers (withCounterRace s p va w k) :=
  answers_withRace fun _ => answers_withDies hk

theorem answers_postCounter {x : Launch} {g va : Dword} {b : Bool} {k : Option Nat → Out} (hk : ∀ x, Answers (k x)) :
    Answers (postCounter s x g va b k) := by
  refine answers_ite (hk _) ?_
  split
  · exact hk _
  · exact answers_trap ..
  · exact answers_touchPage ..

theorem answers_withLease {k : Out} (hk : Answers k) : Answers (withLease s k) := answers_checked hk

theorem answers_withGloss {w : Bool} {k : State → Word → Out} (hk : ∀ t g, Answers (k t g)) :
    Answers (withGloss s w k) := by
  refine answers_withLaunch fun x => answers_ite (answers_trap ..) ?_
  split
  · exact answers_ite (answers_trap ..) (answers_trap ..)
  · exact answers_touchPage ..
  · split
    · exact answers_trap ..
    · exact answers_ite answers_hold (answers_withDies fun _ => answers_checked (hk _ _))

theorem answers_withBank {b : Nat} {k : State → Running → Launch → Out} (hk : ∀ t r x, Answers (k t r x)) :
    Answers (withBank s b k) := by
  refine answers_withLaunch fun x => ?_
  split
  · exact answers_hold
  · exact answers_ite answers_hold (answers_checked (hk _ _ _))

theorem answers_withLanes {b : RegNum} {ls : List (Nat × Dword)} {p : Place} {w : Bool} {k : State → Out}
    (hk : ∀ t, Answers (k t)) : Answers (withLanes s b ls p w k) := by
  unfold withLanes
  simp only
  split
  · exact answers_trap ..
  · split
    · exact answers_trap ..
    · split
      · exact answers_trap ..
      · exact answers_withRace fun _ => answers_withDies hk

theorem answers_withLink {va : Dword} {link : Option Dword} {k : Nat → Out} (hk : ∀ l, Answers (k l)) :
    Answers (atomic.withLink s va link k) := by
  unfold atomic.withLink
  split
  · exact hk _
  · refine answers_withPlace fun p => answers_checked ?_
    split
    · exact hk _
    · exact answers_next _

end

/-! ## The words -/

section
variable {s : State}

theorem answers_scalar2 {d a b : RegNum} {t u : Bool} {l : Nat} {f : Dword → Dword → Dword} :
    Answers (scalar2 s d a b t u l f) := answers_withSources (answers_next _)

theorem answers_scalar1 {d a : RegNum} {t : Bool} {f : Dword → Dword} : Answers (scalar1 s d a t f) :=
  answers_withSources (answers_next _)

theorem answers_predicate2 {d a b : RegNum} {t u : Bool} {f : Pred → Pred → Pred} :
    Answers (predicate2 s d a b t u f) := answers_withSources (answers_next _)

theorem answers_lanes1 {d a : RegNum} {t : Bool} {p : PredNum} {l : Nat} {f : Core → Word → LaneRes} :
    Answers (lanes1 s d a t p l f) := answers_withSources (answers_next _)

theorem answers_lanes2 {d a b : RegNum} {t : Bool} {p : PredNum} {l : Nat} {f : Core → Word → Word → LaneRes} :
    Answers (lanes2 s d a b t p l f) := answers_withSources (answers_next _)

theorem answers_lanes3 {d a b : RegNum} {t : Bool} {p : PredNum} {l : Nat} {f : Core → Word → Word → Word → LaneRes} :
    Answers (lanes3 s d a b t p l f) := answers_withSources (answers_next _)

theorem answers_compareLanes {d : PredNum} {a b : RegNum} {t : Bool} {p : PredNum} {f : Word → Word → Bool × Flags} :
    Answers (compareLanes s d a b t p f) := answers_withSources (answers_next _)

theorem answers_branch {a b : RegNum} {t : Bool} {o : BitVec 10} {f : Dword → Dword → Bool} :
    Answers (branch s a b t o f) := answers_withSources (answers_next _)

theorem answers_fence : Answers (fence s) := answers_withFlush fun _ => answers_next _

theorem answers_eret : Answers (execEret s) := by
  refine answers_ite (answers_trap ..) (answers_ite ?_ (answers_next _))
  split
  · exact answers_next _
  · exact answers_next _

theorem answers_snapwr {a b : RegNum} {t u : Bool} : Answers (execSnapwr a b t u s) := by
  refine answers_withSources (answers_withOffset (answers_ite ?_ (answers_next _)))
  split
  · exact answers_next _
  · split
    · exact answers_next _
    · exact answers_trap ..

theorem answers_exit {a : RegNum} {t : Bool} : Answers (execExit a t s) := by
  refine answers_withSources (answers_ite (answers_suspendAfter ..) ?_)
  split
  · exact answers_next _
  · exact answers_next _

theorem answers_launch {d a : RegNum} {t : Bool} : Answers (execLaunch d a t s) :=
  answers_withSources (answers_checked (answers_withRange fun _ => answers_checked (answers_inDmode
    (answers_withFlush fun _ => answers_readRange fun _ _ => answers_next _))))

theorem answers_deadline {a b : RegNum} {t u : Bool} : Answers (execDeadline a b t u s) := by
  refine answers_withSources ?_
  split
  · exact answers_next _
  · exact answers_next _

theorem answers_swpt {j : BitVec 12} : Answers (execSwpt j s) :=
  answers_withLaunch fun _ => answers_checked (answers_checked (answers_withPlace fun _ => answers_withOwn fun _ =>
    answers_withOrder (answers_withRace fun _ => answers_withDies fun _ =>
      answers_checked (answers_checked (answers_next _)))))

theorem answers_waitge {a b : RegNum} {t u : Bool} : Answers (execWaitge a b t u s) :=
  answers_withSources (answers_withPlace fun _ => answers_withOwn fun _ => answers_withOrder (answers_inDmode
    (answers_withCounterRace fun _ => answers_checked (answers_ite (answers_next _) (answers_suspendWait ..)))))

theorem answers_armcnt {a b : RegNum} {t u : Bool} : Answers (execArmcnt a b t u s) :=
  answers_withSources (answers_withPlace fun _ => answers_withLaunch fun _ => answers_ite answers_hold
    (answers_checked (answers_withCounterRace fun _ => answers_next _)))

theorem answers_arriveBar {x : Launch} {r : Running} {sl n : Nat} : Answers (arriveBar s x r sl n) := by
  refine answers_ite (answers_trap ..) (answers_withFlush fun t => ?_)
  simp only
  split
  · exact answers_next _
  · exact answers_ite (answers_next _) (answers_suspendAfter ..)

theorem answers_bar {a b : RegNum} {t u : Bool} : Answers (execBar a b t u s) := by
  refine answers_withSources (answers_withLaunch fun x => ?_)
  split
  · exact answers_hold
  · exact answers_checked answers_arriveBar

theorem answers_call {d a b : RegNum} {t u : Bool} : Answers (execCall d a b t u s) :=
  answers_withSources (answers_checked (answers_checked (answers_checkTarget (answers_next _))))

theorem answers_loop {l a e : RegNum} {t : Bool} : Answers (execLoop l a e t s) :=
  answers_withSources (answers_checked (answers_ite (answers_next _) (answers_next _)))

theorem answers_storeSelected {v b : RegNum} {t : Bool} {p : PredNum} {sel : Pred → Nat → Bool} :
    Answers (storeSelected s v b t p sel) := by
  refine answers_withSources (answers_withPlace fun p => answers_withRace fun _ => answers_withDies fun _ => ?_)
  split
  · exact answers_next _
  · exact answers_next _

theorem answers_atomic {q : AtomForm} {va x y z w : Dword} {link : Option Dword} :
    Answers (atomic s q va x y z w link) := by
  refine answers_withPlace fun p => answers_checked (answers_withLink fun _ => answers_inDmode ?_)
  split
  · exact answers_next _
  · exact answers_withRace fun _ => answers_withDies fun _ => answers_next _

theorem answers_atomicWord {fn : AtomFn} {d a : RegNum} {t : Bool} {sc : Scope} {o : Order} {half ruled : Bool}
    {results : Nat} : Answers (atomicWord s fn d a t sc o half ruled results) :=
  answers_withSources answers_atomic

theorem answers_copyWord {k : CopyKind} {t : RegNum} {q : BitVec 4} {n : RegNum} {u v : Bool} :
    Answers (copyWord k t q n u v s) := by
  refine answers_withSources ?_
  split
  · exact answers_trap ..
  · refine answers_withCounter fun _ => answers_withLaunch fun _ => ?_
    simp only
    split
    · exact answers_trap ..
    · exact answers_ite answers_hold (answers_next _)

theorem answers_stage {a : RegNum} {t : Bool} : Answers (execStage a t s) := by
  refine answers_withSources (answers_checked (answers_ite (answers_next _) (answers_withFlush fun _ => ?_)))
  split
  · exact answers_hold
  · simp only
    split
    · exact answers_next _
    · exact answers_next _

theorem answers_mlease : Answers (execMlease s) :=
  answers_ite (answers_next _) (answers_ite answers_hold (answers_ite (answers_next _) answers_hold))

theorem answers_mstat {d : RegNum} {k : MstatSel} : Answers (execMstat d k s) := by
  cases k with
  | lease => exact answers_next _
  | offset r => exact answers_withSources (answers_next _)
  | bank b =>
    unfold execMstat
    simp only
    split
    · exact answers_hold
    · exact answers_ite answers_hold (answers_next _)

theorem answers_mclr {k : BitVec 2} : Answers (execMclr k s) :=
  answers_withLease (answers_withBank fun _ _ _ => answers_withDies fun _ => answers_next _)

theorem answers_matrix {w a : BitVec 5} {x y : BitVec 3} {t wide : Bool} : Answers (matrix w a x y t wide s) := by
  refine answers_withSources (answers_withLease (answers_withGloss fun _ _ => answers_withBank fun _ _ _ => ?_))
  simp only
  split
  · exact answers_trap ..
  · exact answers_withDies fun _ => answers_ite answers_hold (answers_next _)

theorem answers_mdrain {p : BitVec 5} {k : BitVec 2} {r : Rnd} {f : DrainFmt} {t : Bool} :
    Answers (execMdrain p k r f t s) := by
  refine answers_withSources (answers_withLease (answers_withBank fun _ _ _ => ?_))
  split
  · exact answers_trap ..
  · exact answers_withDies fun _ => answers_ite answers_hold (answers_next _)

theorem answers_fabricWord {f : FabFn} {va cw : Dword} {q : FabArgs} : Answers (fabricWord s f va cw q) :=
  answers_checked (answers_withPlace fun _ => answers_checked (answers_checked (answers_inDmode
    (answers_withCounterAt fun _ => answers_ite answers_hold (answers_withLaunch fun _ => answers_withDies fun _ =>
      answers_next _)))))

theorem answers_fabricG {f : FabFn} {d a b : RegNum} {t u r : Bool} : Answers (fabricG s f d a b t u r) :=
  answers_withSources answers_fabricWord

theorem answers_trig {a b : RegNum} {t u : Bool} : Answers (execTrig a b t u s) :=
  answers_withSources (answers_withPlace fun _ => answers_ite answers_hold (answers_withLaunch fun _ =>
    answers_withDies fun _ => answers_next _))

theorem answers_ticket {d a b : RegNum} {t u : Bool} : Answers (execTicket d a b t u s) :=
  answers_withSources (answers_withPlace fun _ => answers_checked (answers_inDmode (answers_withPlace fun _ =>
    answers_ite answers_hold (answers_withLaunch fun _ => answers_withDies fun _ => answers_next _))))

theorem answers_flagWord {w v : Dword} {bad : Launch → Bool} {js : Launch → List Nat} {one : Bool} :
    Answers (flagWord s w v bad js one) :=
  answers_withLaunch fun _ => answers_checked (answers_checked (answers_ite answers_hold
    (answers_withDies fun _ => answers_next _)))

theorem answers_arriveBarg {x : Launch} {r : Running} {g n : Nat} : Answers (arriveBarg s x r g n) :=
  answers_ite (answers_trap ..) (answers_withRelease fun _ => answers_ite (answers_next _) (answers_suspendAfter ..))

theorem answers_barg {a b : RegNum} {t u : Bool} : Answers (execBarg a b t u s) := by
  refine answers_withSources (answers_withLaunch fun x => ?_)
  split
  · exact answers_hold
  · exact answers_checked (answers_checked answers_arriveBarg)

theorem answers_post {a : RegNum} {t : Bool} : Answers (execPost a t s) :=
  answers_withSources (answers_checked (answers_withRange fun _ => answers_withFlush fun _ =>
    answers_readRange fun _ _ => answers_withLaunch fun _ => answers_checked (answers_postCounter fun _ => answers_postCounter fun _ =>
      answers_checked (answers_postCounter fun _ => answers_checked (answers_inDmode
        (answers_ite answers_hold (answers_next _)))))))

end
/-! ## Every instruction -/

/-- One case per form of word; every event goes on at once. -/
theorem answers_exec (i : Instr) (s : State) : Answers (exec i s) := by
  unfold exec
  cases i <;> dsimp only
  case eret => exact answers_eret
  case snapwr => exact answers_snapwr
  case snaprd => exact answers_withSources (answers_withOffset (answers_next _))
  case fenceS | fenceD | fenceY => exact answers_fence
  case suspend | endstep => exact answers_suspendAfter ..
  case exit => exact answers_exit
  case launch => exact answers_launch
  case deadline => exact answers_deadline
  case swpt => exact answers_swpt
  case waitge => exact answers_waitge
  case armcnt => exact answers_armcnt
  case bar => exact answers_bar
  case add | sub | and | or | xor | andn | sll | srl | sra | rotl | slt | sltu | seq | min | max | minu | maxu | mul |
      mulh | mulhu | mulhsu | div | divu | rem | remu => exact answers_scalar2
  case clz | popc | slli | srli | srai | rotli | addi => exact answers_scalar1
  case beq | bne | blt | bge | bltu | bgeu => exact answers_branch
  case jr | jalr | ret => exact answers_withSources (answers_checkTarget (answers_next _))
  case call => exact answers_call
  case gset => exact answers_withSources (answers_checked (answers_next _))
  case loop => exact answers_loop
  case pand | por | pxor | pandn => exact answers_predicate2
  case ld | st | vld =>
    exact answers_withSources (answers_withPlace fun _ => answers_withRace fun _ => answers_withDies fun _ =>
      answers_next _)
  case vstW | vstH | vstB => exact answers_storeSelected
  case vgather | vscatter =>
    exact answers_withSources (answers_withPlace fun _ => answers_withLanes fun _ => answers_next _)
  case ast | atomAdd | atomAnd | atomOr | atomXor | atomMin | atomMax | atomMinu | atomMaxu | atomSwap | atomFadd |
      atomFmin | atomFmax | aredAdd | aredAnd | aredOr | aredXor | aredMin | aredMax | aredMinu | aredMaxu | aredFadd |
      aredFmin | aredFmax => exact answers_atomicWord
  case ald | acas | acas2 | aenq | apchase => exact answers_withSources answers_atomic
  case vadd | vsub | vmul | vmin | vmax | vand | vor | vxor | vshl | vshr | vshra | vperm | vfadd | vfsub | vfmul |
      vfdiv | vfmin | vfmax => exact answers_lanes2
  case vfma | vfms | vfnma | vfnms | vmad | vdot4 => exact answers_lanes3
  case vfsqrt | vfabs | vexp2 | vlog2 | vrcp | vrsqrt | vsinpi | vtanh => exact answers_lanes1
  case vcmpeq | vcmplt | vcmple | vfcmpeq | vfcmplt | vfcmple => exact answers_compareLanes
  case trap | wrsr | lik | pnot | pcnt | vbcast | vcvt | vpack | vunpack | vqnt | vred | vrng | vsel | vmsk | mofs =>
    exact answers_withSources (answers_next _)
  case mlease => exact answers_mlease
  case mstat => exact answers_mstat
  case mclr => exact answers_mclr
  case mma | mmaw => exact answers_matrix
  case mdrain => exact answers_mdrain
  case cpy | cpyh | cpyp | cpye => exact answers_copyWord
  case stage => exact answers_stage
  case rld | rst | ratCas => exact answers_withSources answers_fabricWord
  case ratAdd | ratAnd | ratOr | ratXor | ratMin | ratMax | ratSwap | rredAdd | rredAnd | rredOr | rredXor | rredMin |
      rredMax | rredFadd | rredFmin | rredFmax => exact answers_fabricG
  case post => exact answers_post
  case trig => exact answers_trig
  case ticket => exact answers_ticket
  case flagadd | flagset => exact answers_withSources answers_flagWord
  case barg => exact answers_barg
  case energySample | timeCalibration | matrixCommandComplete => exact answers_ite (answers_next _) (answers_next _)
  all_goals exact answers_next _

/-! ## Turns -/

theorem answers_runWord (s : State) (p : Placed) : Answers (runWord s p) := answers_exec ..

/-- What goes on from an answer, and passes on what is none, answers. -/
theorem answers_map (o : Out) (f : State → State) : Answers o →
    Answers (match o with | .next t => .next (f t) | .fault e => .fault e | .refused e => .refused e) := by
  rintro ⟨t, rfl⟩
  exact answers_next _

/-- Where the words of a clause do not all run, one of them answers for it. -/
theorem answers_of_runWords_error {ps : List Placed} {s : State} {late : List (Placed × List Nat)} {o : Out}
    (h : runWords ps s late = .error o) : Answers o := by
  induction ps generalizing s late o with
  | nil => cases h
  | cons p ps ih =>
    obtain ⟨t, ht⟩ := answers_runWord s p
    rw [runWords, ht] at h
    simp only at h
    split at h
    · split at h
      · exact ih h
      · exact ih h
    · split at h
      · exact ih h
      · split at h
        · split at h
          · cases h; exact answers_next _
          · cases h; exact answers_next _
          · rename_i ho
            cases h
            exact ih ho
        · cases h; exact answers_next _

theorem answers_runLate (ps : List (Placed × List Nat)) (s : State) : Answers (runLate ps s) := by
  induction ps generalizing s with
  | nil => exact answers_next _
  | cons e ps ih =>
    obtain ⟨p, gs⟩ := e
    obtain ⟨t, ht⟩ := answers_runWord s p
    rw [runLate, ht]
    exact answers_ite (ih _) (answers_next _)

theorem answers_lateIssue (p : LateWords) (ws : List (Nat × Va × Instr)) (s : State) : Answers (lateIssue p ws s) := by
  induction ws generalizing s with
  | nil => exact answers_next _
  | cons w ws ih =>
    obtain ⟨t, ht⟩ := answers_exec w.2.2 _
    rw [lateIssue]
    simp only
    rw [ht]
    exact answers_ite (ih _) (answers_ite (answers_next _) (answers_next _))

theorem answers_issueClause (s : State) (ps : List Placed) : Answers (issueClause s ps) := by
  unfold issueClause
  simp only
  split
  · rename_i u late _
    obtain ⟨t, ht⟩ := answers_runLate (lateOrder late) u
    rw [ht]
    exact answers_ite (answers_next _) (answers_ite (answers_next _) (answers_next _))
  · exact answers_next _
  · rename_i h
    exact answers_of_runWords_error h

theorem answers_fetchIssue (s : State) : Answers (fetchIssue s) := by
  unfold fetchIssue
  simp only
  split
  · exact answers_next _
  · refine answers_ite answers_hold ?_
    split
    · exact answers_next _
    · split
      · exact answers_next _
      · exact answers_map _ _ (answers_touchPage ..)
      · split
        · exact answers_next _
        · exact answers_issueClause ..

theorem answers_issueCycle (again : Bool) (lost : Option Nat) (s : State) : Answers (issueCycle again lost s) := by
  unfold issueCycle
  simp only
  split
  · exact answers_next _
  · split
    · exact answers_lateIssue ..
    · refine answers_ite (answers_next _) (answers_ite answers_hold ?_)
      split
      · exact answers_next _
      · exact answers_ite (answers_fetchIssue _) (answers_next _)
      · exact answers_fetchIssue _

theorem answers_turnOf (again : Bool) (s : State) : Answers (turnOf again s) :=
  answers_map _ _ (answers_issueCycle ..)

theorem answers_frozenTurn (s : State) : Answers (frozenTurn s) := by
  obtain ⟨t, ht⟩ := answers_turnOf false s
  rw [frozenTurn, ht]
  simp only
  split
  · exact answers_next _
  · exact answers_next _
  · exact answers_next _

theorem answers_coreTurn (k : Nat) (s : State) : Answers (coreTurn k s) :=
  answers_ite (answers_next _) (answers_ite (answers_turnOf ..) (answers_ite (answers_next _)
    (answers_ite (answers_next _) (answers_ite (answers_frozenTurn _) (answers_turnOf ..)))))

/-! ## What the machine does of its own accord -/

/-- Everything that a list says may come about answers. -/
def AllAnswer (fs : List Happening) : Prop := ∀ f ∈ fs, ∀ s, Answers (f s)

theorem allAnswer_nil : AllAnswer [] := by simp [AllAnswer]

theorem allAnswer_cons {f : Happening} {fs : List Happening} (hf : ∀ s, Answers (f s)) (hfs : AllAnswer fs) :
    AllAnswer (f :: fs) := List.forall_mem_cons.2 ⟨hf, hfs⟩

theorem allAnswer_append {fs gs : List Happening} (hf : AllAnswer fs) (hg : AllAnswer gs) : AllAnswer (fs ++ gs) :=
  List.forall_mem_append.2 ⟨hf, hg⟩

theorem allAnswer_map {α : Type} {xs : List α} {f : α → Happening} (hf : ∀ x s, Answers (f x s)) :
    AllAnswer (xs.map f) := List.forall_mem_map.2 fun x _ => hf x

theorem allAnswer_flatMap {α : Type} {xs : List α} {f : α → List Happening} (hf : ∀ x, AllAnswer (f x)) :
    AllAnswer (xs.flatMap f) := by
  intro g hg
  obtain ⟨x, -, hx⟩ := List.mem_flatMap.1 hg
  exact hf x g hx

theorem allAnswer_filterMap {α β : Type} {xs : List α} {x : α → Option β} {f : α → β → Happening}
    (hf : ∀ a b s, Answers (f a b s)) : AllAnswer (xs.filterMap fun a => (x a).map (f a)) := by
  intro g hg
  obtain ⟨a, -, ha⟩ := List.mem_filterMap.1 hg
  obtain ⟨b, -, rfl⟩ := Option.map_eq_some_iff.1 ha
  exact hf a b

theorem allAnswer_ite {p : Prop} [Decidable p] {fs gs : List Happening} (hf : AllAnswer fs) (hg : AllAnswer gs) :
    AllAnswer (if p then fs else gs) := by
  split
  · exact hf
  · exact hg

theorem allAnswer_single {f : Happening} (hf : ∀ s, Answers (f s)) : AllAnswer [f] := allAnswer_cons hf allAnswer_nil

theorem allAnswer_coreEvents (k : Nat) (c : Core) : AllAnswer (coreEvents k c) := by
  refine allAnswer_append (allAnswer_append (allAnswer_append (allAnswer_append ?_ ?_) ?_) ?_) ?_
  · exact allAnswer_ite allAnswer_nil (allAnswer_single fun _ => answers_next _)
  · exact allAnswer_map fun _ _ => answers_next _
  · exact allAnswer_map fun _ _ => answers_next _
  · split
    · exact allAnswer_map fun _ _ => answers_next _
    · exact allAnswer_nil
  · exact allAnswer_ite (allAnswer_single fun _ => answers_next _) allAnswer_nil

theorem answers_matrixCommandComplete (n : BitVec 6) (es : List ParityError) (ue : Option (BitVec 14)) (s : State) :
    Answers (execMatrixCommandComplete n es ue s) := answers_ite (answers_next _) (answers_next _)

theorem allAnswer_stopeEvents (n : Nat) (x : Stope) : AllAnswer (stopeEvents n x) := by
  refine allAnswer_append (allAnswer_append ?_ ?_) ?_
  · exact allAnswer_cons (fun _ => answers_next _) (allAnswer_cons (fun _ => answers_next _)
      (allAnswer_cons (fun _ => answers_next _) (allAnswer_single fun _ => answers_matrixCommandComplete ..)))
  · exact allAnswer_flatMap fun _ => allAnswer_cons (fun _ => answers_next _) (allAnswer_single fun _ => answers_next _)
  · exact allAnswer_flatMap fun _ => allAnswer_cons (fun _ => answers_next _) (allAnswer_single fun _ => answers_next _)

theorem allAnswer_launchEvents (d : Dev) (l : Nat) (x : Launch) : AllAnswer (launchEvents d l x) := by
  refine allAnswer_ite allAnswer_nil (allAnswer_append (allAnswer_append (allAnswer_append ?_ ?_) ?_) ?_)
  · exact allAnswer_cons (fun _ => answers_next _) (allAnswer_cons (fun _ => answers_next _)
      (allAnswer_cons (fun _ => answers_next _) (allAnswer_cons (fun _ => answers_next _)
        (allAnswer_single fun _ => answers_next _))))
  · split
    · exact allAnswer_single fun _ => answers_next _
    · exact allAnswer_single fun _ => answers_next _
    · exact allAnswer_nil
    · exact allAnswer_single fun _ => answers_next _
  · exact allAnswer_map fun _ _ => answers_next _
  · exact allAnswer_filterMap fun _ _ _ => answers_next _

theorem allAnswer_ownEvents (d : Dev) : AllAnswer (ownEvents d) := by
  unfold ownEvents
  repeat' apply allAnswer_append
  · exact allAnswer_flatMap fun _ => allAnswer_coreEvents _ _
  · exact allAnswer_flatMap fun _ => allAnswer_stopeEvents _ _
  · exact allAnswer_map fun _ _ => answers_next _
  · exact allAnswer_map fun _ _ => answers_next _
  · exact allAnswer_filterMap fun _ _ _ => answers_next _
  · exact allAnswer_flatMap fun _ => allAnswer_launchEvents _ _ _
  · exact allAnswer_map fun _ _ => answers_next _
  · exact allAnswer_map fun _ _ => answers_next _
  · exact allAnswer_map fun _ _ => answers_next _
  · exact allAnswer_single fun _ => answers_next _
  · exact allAnswer_map fun _ _ => answers_next _
  · exact allAnswer_flatMap fun _ => allAnswer_map fun _ _ => answers_next _

theorem answers_ownTurn (s : State) : Answers (ownTurn s) := by
  unfold ownTurn
  simp only
  split
  · rename_i f hf
    exact allAnswer_ownEvents _ f (List.mem_of_find?_eq_some hf) _
  · exact answers_coreTurn ..

/-! ## A step -/

theorem answers_takeTurn {t : Turn} {s : State}
    (ht : ∀ i, t.move = .event i → isWord i = false ∧ wellFormed i = true) : Answers (takeTurn t s) := by
  unfold takeTurn
  simp only
  split
  · exact answers_coreTurn ..
  · rename_i i hi
    obtain ⟨hword, hwf⟩ := ht i hi
    simp only [hword, hwf]
    exact answers_exec ..
  · exact answers_next _

theorem answers_step {s : State} (hs : fairAgenda s) : Answers (step s) := by
  unfold step runTurn
  split
  · rename_i t r hagenda
    exact answers_takeTurn fun i hi => hs t (by rw [hagenda]; rfl) i hi
  · exact answers_ownTurn s

/-- Settles O6: no arm of an instruction ends in a fault or a refusal, and a step refuses its agenda's head alone. -/
theorem nothingFaultsOrIsRefused : Obligations.NothingFaultsOrIsRefused := by
  unfold Obligations.NothingFaultsOrIsRefused
  exact ⟨answers_exec, fun s => answers_step⟩

end Sys2Proof.Machine
end

section
/-! SUPPORT. The turn of a core whose clause is one word (R178, R179, R269). -/

namespace Sys2Proof.Machine

theorem pipeOf_of_decode_postOrBarg {w : Word} {c : Bool} {i : Instr} (h : decode w = .ok (c, i))
    (hi : isPost i = true ∨ isBarg i = true) : pipeOf w = .n := by
  obtain ⟨rfl, hop⟩ := (decode_eq_ok w c i).1 h
  obtain ⟨henc, -⟩ := sound_decodeOp i hop
  have hm : (w.extractLsb' 26 5).toNat = 27 := by
    cases i
    case post | barg =>
      obtain ⟨-, hm, -⟩ := (fmtR_eq_iff ..).1 (List.singleton_inj.1 henc)
      exact hm
    all_goals simp [isPost, isBarg] at hi
  simp [pipeOf, hm]

/-- A word that may act late is once in the order of the late words: POST and BARG are no S words. -/
theorem lateOrder_single {p : Placed} (hpipe : isPost p.instr = true ∨ isBarg p.instr = true → p.pipe = .n)
    (h : (actsLate p || isPost p.instr) = true) (gs : List Nat) : lateOrder [(p, gs)] = [(p, gs)] := by
  have hbarg : isPost p.instr = true → isBarg p.instr = false := by
    cases p.instr <;> simp [isPost, isBarg]
  have hlate : isPost p.instr = true ∨ isBarg p.instr = true → isLateS p = false := fun hi => by
    simp [isLateS, hpipe hi]
  cases hpost : isPost p.instr with
  | true => simp [lateOrder, hpost, hbarg hpost, hlate (.inl hpost)]
  | false =>
    cases hb : isBarg p.instr with
    | true => simp [lateOrder, hpost, hb, hlate (.inr hb)]
    | false =>
      have hs : isLateS p = true := by simpa [actsLate, hpost, hb] using h
      simp [lateOrder, hpost, hb, hs]

/-- The state in which the one word of a clause runs. -/
def atClause (s : State) : State :=
  { s with clause := some ⟨s.dev, 0, (coreAt s.dev s.cur).pc, (coreAt s.dev s.cur).pc + 4#48, none, .going⟩ }

/-- A clause of one word: the word acts at once, or late, or it traps or waits. -/
theorem runWords_single {u t : State} {p : Placed} (ht : runWord u p = .next t) :
    (runWords [p] u [] = .ok (t, []) ∧ goesOn t = true) ∨
      (runWords [p] u [] = .ok (u, [(p, [])]) ∧ (actsLate p || isPost p.instr) = true) ∨
      (runWords [p] u [] = .error (.next t) ∧ goesOn t = false) := by
  cases hgo : goesOn t with
  | true =>
    cases hlate : !actsLate p || actsNow p t with
    | true => exact .inl ⟨by simp [runWords, ht, hgo, hlate], rfl⟩
    | false =>
      have hp : actsLate p = true := by simp_all
      exact .inr (.inl ⟨by simp [runWords, ht, hgo, hlate], by simp [hp]⟩)
  | false =>
    cases hown : heldUp t && waitsOwn p u with
    | true =>
      have hp : (actsLate p || isPost p.instr) = true := by simp_all [waitsOwn]
      exact .inr (.inl ⟨by simp [runWords, ht, hgo, hown], hp⟩)
    | false => exact .inr (.inr ⟨by cases hup : heldUp t <;> simp_all [runWords], rfl⟩)

theorem issueClause_single {s t : State} {p : Placed}
    (hpipe : isPost p.instr = true ∨ isBarg p.instr = true → p.pipe = .n)
    (ht : runWord (atClause s) p = .next t) :
    issueClause s [p] = .next (if goesOn t then endClause t else { t with clause := none }) := by
  rcases runWords_single ht with ⟨h, hgo⟩ | ⟨h, hp⟩ | ⟨h, hgo⟩
  · unfold atClause at h
    simp [issueClause, h, lateOrder, runLate, hgo]
  · have hrun : runLate [(p, [])] (atClause s) = .next t := by
      cases hgo : goesOn t <;> simp [runLate, ht, hgo]
    have horder := lateOrder_single hpipe hp []
    unfold atClause at h hrun
    cases hgo : goesOn t <;> simp [issueClause, h, horder, hrun, hgo]
  · unfold atClause at h
    simp [issueClause, h, hgo]

theorem checkWords_single {w : Word} {i : Instr} (h : decode w = .ok (false, i)) (a : Va) :
    checkWords [] 0 a [w] = .ok [⟨a, 0, pipeOf w, i⟩] := by
  cases hp : pipeOf w <;> simp [checkWords, h, hp, pipeLimit]

/-! ## The turn of a core that is clear to issue -/

section
variable {d : Dev} {k : Nat}

theorem coreTurn_of_clear (h : clearToIssue d k) {s : State} (hd : s.dev = d) :
    coreTurn k s = turnOf false { s with cur := k } := by
  subst hd
  obtain ⟨hissue, hreplay, hpreempt, hstand, hfrozen, -⟩ := h
  simp [coreTurn, hissue, hreplay, hpreempt, hstand, hfrozen]

theorem issueCycle_of_clear (h : clearToIssue d k) {s : State} (hd : s.dev = atTurn d k) (hk : s.cur = k) :
    issueCycle false (newlyLost d k) s = fetchIssue s := by
  subst hk
  obtain ⟨-, -, -, -, -, hlate, hbubble, hheld, hpend, hlost, hboundary, -⟩ := h
  simp [issueCycle, hd, hlate, hpend, hbubble, hheld, hlost, hboundary]

theorem turnOf_of_clear (h : clearToIssue d k) {s : State} (hd : s.dev = d) (hk : s.cur = k) {t : State}
    (ht : fetchIssue { s with dev := atTurn d k } = .next t) : turnOf false s = .next (endTurn false d k t) := by
  subst hd hk
  simp [turnOf, issueCycle_of_clear h, ht]

end

theorem fetchIssue_single {s t : State} {x : Launch} {w : Word} {i : Instr} (hx : launchOf s.dev s.cur = some x)
    (hw : fetchWaits s.dev s.cur x = false) (hl : fetchDies s.dev s.cur x &&& s.dev.lost = 0)
    (hf : fetchWords (touchDies s.dev x.ctx (fetchDies s.dev s.cur x)) x (stopeOf s.cur) 6 (coreAt s.dev s.cur).pc =
      .words [w]) (hi : decode w = .ok (false, i))
    (ht : exec i (atClause (setDev s (touchDies s.dev x.ctx (fetchDies s.dev s.cur x)))) = .next t) :
    fetchIssue s = .next (if goesOn t then endClause t else { t with clause := none }) := by
  rw [fetchIssue_ok hx hw hl hf (checkWords_single hi _)]
  exact issueClause_single (pipeOf_of_decode_postOrBarg hi) ht

/-- Settles O5: the turn comes down to the clause's one word, which runs once wherever it acts. -/
theorem stepRunsTheDecodedInstruction : Obligations.StepRunsTheDecodedInstruction := by
  unfold Obligations.StepRunsTheDecodedInstruction
  refine ⟨?_, ?_, ?_⟩
  · intro s dt k r x w i hagenda hk hclear d pc hx hf hi
    obtain ⟨hwaits, hdies⟩ : fetchWaits (atTurn (passTime s.dev dt) k) k x = false ∧
        fetchDies (atTurn (passTime s.dev dt) k) k x &&& (atTurn (passTime s.dev dt) k).lost = 0 := by
      obtain ⟨-, -, -, -, -, -, -, -, -, -, -, hfetch⟩ := hclear
      exact hfetch x hx
    obtain ⟨t, ht⟩ := answers_exec i ⟨d, r, k, some ⟨d, 0, pc, pc + 4, none, .going⟩⟩
    rw [ht]
    have hstep : step s = coreTurn (k % 256) ⟨passTime s.dev dt, r, s.cur, none⟩ := by
      simp [step, runTurn, hagenda, takeTurn]
    rw [hstep, Nat.mod_eq_of_lt hk, coreTurn_of_clear hclear rfl]
    exact turnOf_of_clear hclear rfl rfl
      (fetchIssue_single (s := ⟨atTurn (passTime s.dev dt) k, r, k, none⟩) hx hwaits hdies hf hi ht)
  · intro s dt r i hagenda hword hwf
    simp [step, runTurn, hagenda, takeTurn, hword, hwf]
  · intro s dt r x hagenda
    simp [step, runTurn, hagenda, takeTurn]

end Sys2Proof.Machine
end

section
/-! SUPPORT. The checks of an access (R233) where one of them fails, a trap's frame, and the statement on them. -/

namespace Sys2Proof.Machine

/-! ## A trap's frame (R205) -/

@[simp] theorem mem_withdrawLease (d : Dev) (k : Nat) : (withdrawLease d k).mem = d.mem := by
  unfold withdrawLease
  split <;> rfl

/-- A trap moves its own core, and may stop its launch; the core's check window stays. -/
theorem takeTrap_cases (d : Dev) (k cause : Nat) (info : Dword) (resume : Va) : ∃ c,
    (takeTrap d k cause info resume = putCore (withdrawLease d k) k c ∨
      ∃ l st, takeTrap d k cause info resume = stopLaunch (putCore (withdrawLease d k) k c) l st) ∧
    c.window = (coreAt d k).window := by
  unfold takeTrap
  dsimp only
  split
  · split
    · exact ⟨_, .inr ⟨_, _, rfl⟩, rfl⟩
    · exact ⟨_, .inl rfl, rfl⟩
  · exact ⟨_, .inl rfl, rfl⟩

theorem takeTrap_keeps (d : Dev) (k cause : Nat) (info : Dword) (resume : Va) :
    (takeTrap d k cause info resume).mem = d.mem ∧
      (coreAt (takeTrap d k cause info resume) k).window = (coreAt d k).window := by
  obtain ⟨c, h | ⟨l, st, h⟩, hwindow⟩ := takeTrap_cases d k cause info resume
  · rw [h, coreAt_putCore_self]
    exact ⟨mem_withdrawLease d k, hwindow⟩
  · have hcore : coreAt (stopLaunch (putCore (withdrawLease d k) k c) l st) k = c := coreAt_putCore_self ..
    rw [h, hcore]
    exact ⟨mem_withdrawLease d k, hwindow⟩

theorem trap_keeps {s v : State} {cause : Nat} {info : Dword} (hc : s.clause = none)
    (h : trap s cause info = .next v) : v.dev.mem = s.dev.mem ∧ (live v).window = (live s).window := by
  unfold trap at h
  rw [srcDev_of_clause_none hc] at h
  obtain rfl : setVerdict { s with dev := takeTrap s.dev s.cur cause info (src s).pc } .trapped = v := by injection h
  unfold live
  rw [setVerdict_dev, setVerdict_cur]
  exact takeTrap_keeps ..

/-! ## Granules (R87, R101) -/

theorem granules_eq_singleton {loc n : Nat} (hn : 0 < n) (h : loc % 32 + n ≤ 32) : granules loc n = [loc / 32] := by
  have hone : (loc + n - 1) / 32 - loc / 32 + 1 = 1 := by omega
  simp [granules, hn.ne', hone]

/-- The first address of the granule that holds an address. -/
theorem and_granuleMask (va : Dword) : va &&& ~~~31#64 = BitVec.ofNat 64 (va.toNat / 32 * 32) := by
  apply BitVec.eq_of_getLsbD_eq
  intro i hi
  have h31 : (31#64).getLsbD i = decide (i < 5) := by
    rw [BitVec.getLsbD_ofNat]
    simpa [hi] using Nat.testBit_two_pow_sub_one 5 i
  have hmul : (va.toNat / 32 * 32).testBit i = (decide (5 ≤ i) && va.toNat.testBit i) := by
    rw [show (32 : Nat) = 2 ^ 5 from rfl, Nat.testBit_mul_two_pow, Nat.testBit_div_two_pow]
    by_cases h : 5 ≤ i
    · simp [h, Nat.sub_add_cancel h]
    · simp [h]
  rw [BitVec.getLsbD_and, BitVec.getLsbD_not, h31, BitVec.getLsbD_ofNat, hmul]
  by_cases h : 5 ≤ i
  · simp [hi, h, BitVec.getLsbD, Nat.not_lt.2 h]
  · simp [h, Nat.lt_of_not_le h]

theorem mem_of_raceAll_error {held : BitVec 4 → Bool} {log : List AcqEntry} {a : Access} {gs : List Nat}
    {tags : SMap Tag} {g : Nat} (h : raceAll held log a gs tags = .error g) : g ∈ gs := by
  induction gs generalizing tags with
  | nil => cases h
  | cons e r ih =>
    unfold raceAll at h
    split at h
    · obtain rfl : e = g := by injection h
      simp
    · exact List.mem_cons_of_mem _ (ih h)

/-! ## The checks, where one fails (R60, R67, R101, R233) -/

section
variable {s : State} {x : Launch}

theorem withPlace_high {q : Reach} {k : Place → Out} (hx : launchOf s.dev s.cur = some x) (h : 2 ^ 48 ≤ q.va.toNat) :
    withPlace s q k = trap s causeAbsent q.va := by
  have hhigh : ¬ q.va >>> 48 = 0#64 := by
    intro h0
    have h0 := congrArg BitVec.toNat h0
    rw [BitVec.toNat_ushiftRight, Nat.shiftRight_eq_div_pow] at h0
    exact (Nat.div_pos h (by decide)).ne' h0
  simp [withPlace, withLaunch, hx, hhigh]

theorem withPlace_trap {q : Reach} {c : Nat} {k : Place → Out} (hx : launchOf s.dev s.cur = some x) (hva : q.va.toNat < 2 ^ 48)
    (h : xlate s.dev x (stopeOf s.cur) q.user q.right q.va = .trap c) :
    withPlace s q k = trap s c q.va := by
  simp [withPlace, withLaunch, hx, ushiftRight_eq_zero_of_lt hva, h]

theorem withPlace_misaligned {q : Reach} {p : Place} {k : Place → Out} (hx : launchOf s.dev s.cur = some x) (hva : q.va.toNat < 2 ^ 48)
    (h : xlate s.dev x (stopeOf s.cur) q.user q.right q.va = .place p) (htarget : offTarget q p = false)
    (halign : q.va.toNat % q.align ≠ 0) : withPlace s q k = trap s causeMisaligned q.va := by
  simp [withPlace, withLaunch, hx, ushiftRight_eq_zero_of_lt hva, h, htarget, halign]

theorem offTarget_core (r : Right) (va : Dword) (n : Nat) (p : Place) :
    offTarget ⟨.core, r, va, n, false, false⟩ p = false := by
  cases p <;> rfl

/-- An access within one granule that races with an earlier one traps with the granule's address (R108). -/
theorem withRace_of_race {p : Place} {va : Dword} {loc n g : Nat} {write atom : Bool} {r : Running}
    (hx : launchOf s.dev s.cur = some x) (hrun : (live s).run = some r) (hloc : locOf p = some loc) (hn : 0 < n)
    (hone : loc % 32 + n ≤ 32)
    (h : raceAll (heldNumber s.dev x.ctx) (live s).acq (accessOf x r.task (live s).epoch write atom false)
      (granules loc n) s.dev.tags = .error g) (k : State → Out) :
    withRace s (granulesAt p va n) write atom k = trap s causeRace (BitVec.ofNat 64 (va.toNat / 32 * 32)) := by
  obtain rfl : g = loc / 32 := by simpa [granules_eq_singleton hn hone] using mem_of_raceAll_error h
  have hgs : granulesAt p va n = [(loc / 32, BitVec.ofNat 64 (va.toNat / 32 * 32))] := by
    simp [granulesAt, hloc, granules_eq_singleton hn hone, ← and_granuleMask]
  rw [granules_eq_singleton hn hone] at h
  simp [withRace, withLaunch, hx, hrun, hgs, h]

theorem exec_ld {d b : RegNum} {t : Bool} {l : RegNum} {o : BitVec 7} (h : sourcesFull (.ld d b t l o) s) : ∃ k,
    exec (.ld d b t l o) s = withPlace s ⟨.core, .read, readG (src s) b + offsetOf o, 8, false, false⟩ k :=
  ⟨_, withSources_full h _⟩

theorem exec_st {r b : RegNum} {t u : Bool} {o : BitVec 12} (h : sourcesFull (.st r b t u o) s) :
    exec (.st r b t u o) s = withPlace s ⟨.core, .write, readG (src s) b + offsetOf o, 8, false, false⟩ fun p =>
      withRace s (granulesAt p (readG (src s) b + offsetOf o) 8) true false fun v =>
        withDies v (diesOf (stopeOf v.cur) p) fun v => .next (enqueue v (storeOp p 8 (readG (src v) r).toNat)) :=
  withSources_full h _

end

/-- Settles O29: each check of `withPlace` answers before the next, and a store that races ends in a trap, whose frame
holds memory and the check window. -/
theorem accessFaults : Obligations.AccessFaults := by
  unfold Obligations.AccessFaults
  constructor
  · intro d b t u l o e s x hx hst hld
    simp only [← offsetOf_eq_ofInt]
    obtain ⟨k, hk⟩ := exec_ld hld
    rw [hk, exec_st hst]
    exact ⟨fun h => withPlace_high hx h, fun h => withPlace_high hx h, fun c hva h => withPlace_trap hx hva h,
      fun c hva h => withPlace_trap hx hva h,
      fun p hva h ha => withPlace_misaligned hx hva h (offTarget_core ..) ha,
      fun p hva h ha => withPlace_misaligned hx hva h (offTarget_core ..) ha⟩
  · intro r b t u o s x p loc g k hst hclause hrun
    simp only [← offsetOf_eq_ofInt]
    intro hreach hloc hmod hrace
    obtain ⟨hx, -, -, -, halign⟩ := id hreach
    have halign : (readG (src s) b + offsetOf o).toNat % 8 = 0 := halign
    have htrap := calc exec (.st r b t u o) s
        _ = withRace s (granulesAt p (readG (src s) b + offsetOf o) 8) true false _ :=
          (exec_st hst).trans (withPlace_of_reaches hreach _)
        _ = trap s causeRace _ := withRace_of_race hx hrun hloc (by decide) (by omega) hrace _
    exact ⟨htrap, fun v hv => trap_keeps hclause (htrap.symm.trans hv)⟩

end Sys2Proof.Machine
end

section
/-! SUPPORT. What a word that stores puts into the check window (R150, R237 to R239), and what a gather awaits. -/

namespace Sys2Proof.Machine

/-! ## Bytes and cells (R2) -/

theorem cellsOf_eq_map (loc n x : Nat) :
    cellsOf loc n x = (List.range n).map fun k => (loc + k, BitVec.ofNat 8 (x / 256 ^ k)) := by
  induction n generalizing loc x with
  | zero => rfl
  | succ n ih =>
    rw [cellsOf, ih, List.range_succ_eq_map, List.map_cons, List.map_map, Nat.pow_zero, Nat.div_one, Nat.add_zero]
    congr 1
    apply List.map_congr_left
    intro k _
    simp only [Function.comp_apply, Nat.pow_succ', Nat.div_div_eq_div_mul, Nat.succ_eq_add_one]
    rw [Nat.add_assoc, Nat.add_comm 1 k]

/-- Byte j of a lane is a byte of its register. -/
theorem ofNat_lane32_byte (v : Vec) (k : Nat) {j : Nat} (hj : j < 4) :
    BitVec.ofNat 8 ((lane32 v k).toNat / 256 ^ j) = v.extractLsb' (32 * k + 8 * j) 8 := by
  have hbyte : BitVec.ofNat 8 ((lane32 v k).toNat / 256 ^ j) = (lane32 v k).extractLsb' (8 * j) 8 := by
    rw [show (256 : Nat) = 2 ^ 8 from rfl, ← Nat.pow_mul, ← Nat.shiftRight_eq_div_pow]
    rfl
  rw [hbyte]
  apply BitVec.eq_of_getLsbD_eq
  intro i hi
  have hin : 8 * j + i < 32 := by omega
  simp [lane32, hi, hin, Nat.add_assoc]

/-! ## After the checks of an access -/

section
variable (s : State) (x : Launch) (bits : Byte) (tags : SMap Tag)

@[simp] theorem src_accessed : src (accessed s x bits tags) = src s := by
  unfold src srcDev accessed
  cases s.clause <;> rfl

theorem enqueue_accessed (op : WindowOp) : enqueue (accessed s x bits tags) op =
    setLive (accessed s x bits tags) { live s with window := (live s).window ++ [⟨wordId s, s.dev.issues, op⟩] } := rfl

end

/-- The race check and the check of the dies, where an access to a place passes both (R86, R101). -/
theorem raceAndDies_of_passed {s : State} {x : Launch} {p : Place} {gs : List (Nat × Dword)} {write atom : Bool}
    {tags : SMap Tag} (hx : launchOf s.dev s.cur = some x) (hrace : raceFree s x (gs.map (·.1)) write atom false tags)
    (hdies : diesSound s (diesOf (stopeOf s.cur) p)) (k : State → Out) :
    (withRace s gs write atom fun v => withDies v (diesOf (stopeOf v.cur) p) k) =
      k (accessed s x (diesOf (stopeOf s.cur) p) tags) := by
  rw [withRace_of_raceFree hx hrace]
  exact withDies_of_diesSound (s := setDev s { s.dev with tags := tags }) hx hdies _

theorem accessGranules_of_locOf {p : Place} {loc : Nat} (h : locOf p = some loc) (n : Nat) :
    accessGranules p n = granules loc n := by
  simp [accessGranules, h]

theorem storeOp_of_locOf {p : Place} {loc : Nat} (h : locOf p = some loc) (n x : Nat) :
    storeOp p n x = .store ((List.range n).map fun k => (loc + k, BitVec.ofNat 8 (x / 256 ^ k))) := by
  rw [← cellsOf_eq_map]
  cases p <;> cases h <;> rfl

/-! ## ST and the vector stores (R237, R238) -/

section
variable {s : State} {x : Launch} {p : Place} {tags : SMap Tag}

theorem exec_st_passed {r b : RegNum} {t u : Bool} {o : BitVec 12} (hfull : sourcesFull (.st r b t u o) s)
    (hreach : reaches s ⟨.core, .write, readG (src s) b + offsetOf o, 8, false, false⟩ x p)
    (hrace : raceFree s x (accessGranules p 8) true false false tags) (hdies : diesSound s (diesOf (stopeOf s.cur) p)) :
    exec (.st r b t u o) s = .next (setLive (accessed s x (diesOf (stopeOf s.cur) p) tags) { live s with
      window := (live s).window ++ [⟨wordId s, s.dev.issues, storeOp p 8 (readG (src s) r).toNat⟩] }) := by
  rw [exec_st hfull]
  refine (checks_of_passed hreach hrace hdies fun p v => .next (enqueue v (storeOp p 8 (readG (src v) r).toNat))).trans ?_
  rw [enqueue_accessed, src_accessed]

theorem storeSelected_passed {v b : RegNum} {t : Bool} {q : PredNum} {sel : Pred → Nat → Bool} {loc : Nat}
    (hfull : ∀ x ∈ [vSrc s v t, gSrc s b t, pSrc s q.toNat false], readable (src s) x = true)
    (hreach : reaches s ⟨.core, .write, readG (src s) b, 128, true, false⟩ x p) (hloc : locOf p = some loc)
    (hrace : raceFree s x (storedGranules p (readG (src s) b) ((List.range 128).filter (sel (readP (src s) q.toNat))))
      true false false tags) (hdies : diesSound s (diesOf (stopeOf s.cur) p)) :
    storeSelected s v b t q sel = .next (setLive (accessed s x (diesOf (stopeOf s.cur) p) tags) { live s with
      window := (live s).window ++ [⟨wordId s, s.dev.issues, .store
        (((List.range 128).filter (sel (readP (src s) q.toNat))).map fun k =>
          (loc + k, (readV (src s) v).extractLsb' (8 * k) 8))⟩] }) := by
  rw [storeSelected, withSources_full hfull, withPlace_of_reaches hreach]
  refine (raceAndDies_of_passed hreach.1 hrace hdies _).trans ?_
  rw [hloc]
  rfl

end

theorem exec_vectorStore {row : (RegNum → RegNum → Bool → PredNum → Instr) × Nat} (h : row ∈ vectorStores)
    (v b : RegNum) (t : Bool) (q : PredNum) (s : State) :
    sourcesOf (row.1 v b t q) s = [vSrc s v t, gSrc s b t, pSrc s q.toNat false] ∧
      exec (row.1 v b t q) s = storeSelected s v b t q fun p k => p.getLsbD (row.2 * (k / row.2)) := by
  simp only [vectorStores, List.mem_cons, List.not_mem_nil, or_false] at h
  rcases h with rfl | rfl | rfl
  · exact ⟨rfl, rfl⟩
  · exact ⟨rfl, rfl⟩
  · refine ⟨rfl, ?_⟩
    simp only [Nat.div_one, Nat.one_mul]
    rfl

/-- Settles O30: a store whose checks pass is one entry of the check window. -/
theorem storeWords : Obligations.StoreWords := by
  unfold Obligations.StoreWords
  refine ⟨?_, ?_, ?_⟩
  · intro r b t u o s x p tags loc hfull
    simp only [← offsetOf_eq_ofInt]
    intro hreach hloc hrace hdies
    rw [exec_st_passed hfull hreach (by rwa [accessGranules_of_locOf hloc]) hdies, storeOp_of_locOf hloc]
  · intro r b t u o s x stack off tags hfull
    simp only [← offsetOf_eq_ofInt]
    intro hreach hrace hdies
    rw [exec_st_passed hfull hreach hrace hdies, storeOp, BitVec.ofNat_toNat, BitVec.setWidth_eq]
  · intro row hrow r b t q s x p tags loc hfull hreach hloc ks hrace hdies
    obtain ⟨hsources, hexec⟩ := exec_vectorStore hrow r b t q s
    unfold sourcesFull at hfull
    rw [hsources] at hfull
    exact hexec.trans (storeSelected_passed hfull hreach hloc hrace hdies)

/-! ## VGATHER and VSCATTER (R239) -/

theorem laneAddrs_eq_map (c : Core) (b i : RegNum) (p : PredNum) :
    laneAddrs c b i p = (lanesOn c p).map fun k => (k, laneAddress c b i k) := rfl

theorem find?_map_pair {α : Type} (f : Nat → α) (l : List Nat) (i : Nat) :
    (l.map fun k => (k, f k)).find? (fun e => e.1 == i) = if i ∈ l then some (i, f i) else none := by
  induction l with
  | nil => rfl
  | cons k r ih =>
    by_cases h : k = i
    · simp [h]
    · simp [h, Ne.symm h, ih]

theorem mem_lanesOn {c : Core} {p : PredNum} {i : Nat} :
    i ∈ lanesOn c p ↔ i < 32 ∧ (readP c p.toNat).getLsbD (4 * i) = true := by
  simp [lanesOn]

section
variable {s : State} {x : Launch} {p : Place} {loc : Nat} {tags : SMap Tag} {b i : RegNum} {q : PredNum}

/-- The checks of a gather or scatter where every active lane passes them. -/
theorem withLanes_of_fit {write : Bool} (hx : launchOf s.dev s.cur = some x) (hfit : lanesFit (src s) b i q p)
    (hrace : raceFree s x ((laneGranules (laneAddrs (src s) b i q) (inPage p (readG (src s) b))).map (·.1))
      write false false tags) (hdies : diesSound s (diesOf (stopeOf s.cur) p)) (k : State → Out) :
    withLanes s b (laneAddrs (src s) b i q) p write k = k (accessed s x (diesOf (stopeOf s.cur) p) tags) := by
  have hnone : ∀ f : Nat × Dword → Bool, (∀ j ∈ lanesOn (src s) q, f (j, laneAddress (src s) b i j) = false) →
      (laneAddrs (src s) b i q).find? f = none := by
    intro f hf
    rw [laneAddrs_eq_map, List.find?_eq_none]
    simpa using hf
  unfold withLanes
  dsimp only
  rw [hnone _ fun j hj => by simpa using (hfit j hj).1, hnone _ fun j hj => by simpa using (hfit j hj).2.1,
    hnone _ fun j hj => by
      have hend := (hfit j hj).2.2
      cases p with
      | vault st o => simpa using hend st o rfl
      | _ => rfl]
  exact raceAndDies_of_passed hx hrace hdies k

theorem inPage_of_locOf (hloc : locOf p = some loc) (base va : Dword) :
    inPage p base va = some (loc - base.toNat % 2 ^ 21 + va.toNat % 2 ^ 21) := by
  simp [inPage, hloc]

end

/-- Settles O31: the lanes' checks pass, and lane by lane the list of places and of cells is the one of the lanes that
are active. -/
theorem gatherAndScatter : Obligations.GatherAndScatter := by
  unfold Obligations.GatherAndScatter
  intro v b i t q s x p loc tags c base place gs u hloc hfit hdies
  refine ⟨fun hfull hreach hrace => ?_, fun hfull hreach hrace => ?_⟩
  · have hplaces : ((List.range 32).map fun k => match (laneAddrs c b i q).find? fun e => e.1 == k with
        | some e => inPage p base e.2
        | none => none) =
        (List.range 32).map fun k => if (readP c q.toNat).getLsbD (4 * k) then some (place k) else none := by
      apply List.map_congr_left
      intro k hk
      have hlane : k ∈ lanesOn c q ↔ (readP c q.toNat).getLsbD (4 * k) = true := by
        simp [mem_lanesOn, List.mem_range.1 hk]
      rw [laneAddrs_eq_map, find?_map_pair]
      by_cases hon : (readP c q.toNat).getLsbD (4 * k) = true
      · simp only [hlane.2 hon, hon, if_true]
        exact inPage_of_locOf hloc ..
      · simp [hlane, hon]
    rw [← hplaces]
    exact ((withSources_full hfull _).trans (withPlace_of_reaches hreach _)).trans
      (withLanes_of_fit hreach.1 hfit hrace hdies _)
  · have hcells : ((laneAddrs c b i q).flatMap fun e => match inPage p base e.2 with
        | some l => cellsOf l 4 (lane32 (readV c v) e.1).toNat
        | none => []) =
        (lanesOn c q).flatMap fun k => (List.range 4).map fun j =>
          (place k + j, (readV c v).extractLsb' (32 * k + 8 * j) 8) := by
      rw [laneAddrs_eq_map, List.flatMap_map]
      apply List.flatMap_congr
      intro k _
      rw [inPage_of_locOf hloc]
      dsimp only
      rw [cellsOf_eq_map]
      apply List.map_congr_left
      intro j hj
      rw [ofNat_lane32_byte _ _ (List.mem_range.1 hj)]
    rw [← hcells]
    exact ((withSources_full hfull _).trans (withPlace_of_reaches hreach _)).trans
      (withLanes_of_fit hreach.1 hfit hrace hdies _)

end Sys2Proof.Machine
end

section
/-! SUPPORT. What an atomic does at issue (R241, R245 to R247): its checks in a row, the epoch that a release advances,
and its entry in the check window. -/

namespace Sys2Proof.Machine

/-! ## The epoch and the result registers (R104, R241) -/

/-- The core that moves, at another race epoch. -/
def atEpoch (e : BitVec 12) (s : State) : State := setLive s { live s with epoch := e }

theorem launchFlight_atEpoch (c : Core) (e : BitVec 12) (f : Flight) :
    launchFlight { c with epoch := e } f = { launchFlight c f with epoch := e } := by
  have howner : ownerOf { c with epoch := e } f.file f.num = ownerOf c f.file f.num := rfl
  unfold launchFlight claimReg setOwner setEmpty
  rw [howner]
  split
  · rfl
  · cases hardwired f.file f.num <;> rfl

theorem phys_src_atEpoch (s : State) (e : BitVec 12) (f : RegFile) (n : Nat) :
    phys (src (atEpoch e s)) f n = phys (src s) f n := by
  cases hc : s.clause with
  | none =>
    rw [src_of_clause_none hc, src_of_clause_none (s := atEpoch e s) hc, atEpoch, live_setLive]
    rfl
  | some q =>
    unfold src srcDev
    rw [show (atEpoch e s).clause = s.clause from rfl, hc]
    rfl

theorem issueLoad_atEpoch (s : State) (e : BitVec 12) (f : RegFile) (n delay : Nat) (a : LoadSrc) :
    issueLoad (atEpoch e s) f n delay a = atEpoch e (issueLoad s f n delay a) := by
  unfold issueLoad
  rw [phys_src_atEpoch]
  simp only [atEpoch, live_setLive, setLive_setLive, launchFlight_atEpoch]
  rfl

theorem claimResults_atEpoch (s : State) (e : BitVec 12) (d n : Nat) :
    claimResults (atEpoch e s) d n = atEpoch e (claimResults s d n) := by
  unfold claimResults
  induction List.range n generalizing s with
  | nil => rfl
  | cons i r ih => rw [List.foldl_cons, List.foldl_cons, issueLoad_atEpoch, ih]

theorem claimResults_keeps {α : Type} {p : State → α} (h : ∀ s c f, p (setLive s (launchFlight c f)) = p s)
    (s : State) (d n : Nat) : p (claimResults s d n) = p s :=
  foldl_keeps p (fun _ _ => h ..) _ s

theorem releases_iff (o : Order) : releases o = true ↔ o = .release ∨ o = .acqRel ∨ o = .sc := by
  cases o <;> simp [releases]

/-- The last steps of an atomic at issue are those that the obligations name. -/
theorem enqueue_atomic_eq (u : State) (o : Order) (d n : Nat) (fl : Flags) (a : AtomReq) :
    let v := modLive (claimResults (if releases o then advance u else u) d n) fun c =>
      { c with fflags := c.fflags ||| fl }
    enqueue v (.atomic { a with epoch := (live v).epoch }) = atomIssued u o d n fl a := by
  have hword : wordId (claimResults u d n) = wordId u := claimResults_keeps (fun _ _ _ => rfl) ..
  have hissues : (claimResults u d n).dev.issues = u.dev.issues :=
    claimResults_keeps (p := fun s => s.dev.issues) (fun _ _ _ => rfl) ..
  have hepoch : (live (claimResults u d n)).epoch = (live u).epoch := by
    unfold claimResults
    exact foldl_keeps (fun s => (live s).epoch) (fun s i => by simp [issueLoad]) _ u
  by_cases ho : releases o = true
  · have horder := (releases_iff o).1 ho
    have hadvance : advance u = atEpoch (nextEpoch (live u).epoch) u := advance_eq u
    rw [if_pos ho, hadvance, claimResults_atEpoch]
    simp only [enqueue, modLive, atEpoch, live_setLive, setLive_setLive]
    unfold atomIssued
    rw [← hword, ← hissues, if_pos horder]
    rfl
  · have horder := mt (releases_iff o).2 ho
    rw [if_neg ho]
    simp only [enqueue, modLive, live_setLive, setLive_setLive]
    unfold atomIssued
    rw [← hword, ← hissues, ← hepoch, if_neg horder]
    rfl

/-! ## The checks of an atomic (R233, R241, R246) -/

theorem checked_and_of_imp {s : State} {b m : Bool} (h : b = true → m = false) (cause : Nat) (info : Dword) (k : Out) :
    checked s (b && m) cause info k = k := by
  cases b with
  | false => rfl
  | true => rw [h rfl]; rfl

theorem inDmode_of_allowed {s : State} {ruled : Bool} (h : ruled = true → dmodeOf s.dev s.cur = false) (k : Out) :
    inDmode s ruled k = k := by
  unfold inDmode
  cases ruled with
  | false => rfl
  | true => rw [h rfl]; rfl

theorem inDmode_of_ruled {s : State} {ruled : Bool} (hr : ruled = true) (h : dmodeOf s.dev s.cur = true) (k : Out) :
    inDmode s ruled k = trap s causeDet ((wordAddr s).setWidth 64) := by
  simp [inDmode, hr, h]

section
variable {s : State} {l : Launch} {p : Place} {q : AtomForm} {va x y z w : Dword} {link : Option Dword} {loc2 : Nat}

/-- The second address of an atomic, where it has one, lies in the page of the first (R246). -/
theorem withLink_of_reaches {e : Dword} {r : Place} (hreach : reaches s ⟨.coreAtomic, .atomic, e, 8, true, true⟩ l r)
    (hloc : locOf r = some loc2) (hpage : e.toNat / 2 ^ 21 = va.toNat / 2 ^ 21) (k : Nat → Out) :
    atomic.withLink s va (some e) k = k loc2 := by
  rw [atomic.withLink, withPlace_of_reaches hreach, hpage, bne_self_eq_false, checked_false, hloc]

/-- The request that an atomic puts into the check window, but for its task and its epoch. -/
def requestOf (q : AtomForm) (loc : Nat) (va x y z w : Dword) (loc2 : Nat) (gs : List Nat) (began : BitVec 12) :
    AtomReq :=
  { fn := q.fn, loc := loc, va := va.setWidth 48, half := q.half, x := x, y := y, z := z, w := w, scope := q.scope,
    order := q.order, task := 0, epoch := 0, loc2 := loc2, checked := if walks q.fn then gs else [],
    began := if walks q.fn then began else 0 }

/-- An atomic whose addresses pass their checks issues, where D-mode does not rule it out. -/
theorem atomic_of_reaches (hreach : reaches s ⟨.coreAtomic, .atomic, va, q.align, true, true⟩ l p)
    (hhbm : q.hbm = true → ∃ pa, p = .hbm pa) (hlink : ∀ k, atomic.withLink s va link k = k loc2) : ∃ k,
    atomic s q va x y z w link = inDmode s q.ruled k ∧ ∀ loc tags, locOf p = some loc →
      raceFree s l ((atomGranules s q p va x (link.map fun e => (loc2, e))).map (·.1)) true true false tags →
      diesSound s (diesOf (stopeOf s.cur) p) → ∃ tk, k = .next (atomIssued
        (accessed s l (diesOf (stopeOf s.cur) p) tags) q.order q.first q.results q.flags
        { requestOf q loc va x y z w loc2 ((atomGranules s q p va x (link.map fun e => (loc2, e))).map (·.1))
            (live s).epoch with task := tk }) := by
  refine ⟨_, (withPlace_of_reaches hreach _).trans
    ((checked_and_of_imp (fun hb => by obtain ⟨pa, rfl⟩ := hhbm hb; rfl) ..).trans (hlink _)), ?_⟩
  intro loc tags hloc hrace hdies
  obtain ⟨r, hrun, -⟩ := id hrace
  have htask : ∀ u : State, (live u).run = some r → (live (if releases q.order then advance u else u)).run = some r := by
    intro u hu
    split
    · rwa [advance_eq, live_setLive]
    · exact hu
  rw [hloc]
  refine ⟨BitVec.ofNat 24 r.task, (raceAndDies_of_passed hreach.1 hrace hdies _).trans ?_⟩
  rw [← enqueue_atomic_eq]
  dsimp only
  rw [htask (accessed s l (diesOf (stopeOf s.cur) p) tags) hrun]
  unfold requestOf
  cases walks q.fn <;> rfl

theorem atomic_ruled_out (hreach : reaches s ⟨.coreAtomic, .atomic, va, q.align, true, true⟩ l p)
    (hhbm : q.hbm = true → ∃ pa, p = .hbm pa) (hlink : ∀ k, atomic.withLink s va link k = k loc2)
    (hr : q.ruled = true) (hd : dmodeOf s.dev s.cur = true) :
    atomic s q va x y z w link = trap s causeDet ((wordAddr s).setWidth 64) := by
  obtain ⟨k, hk, -⟩ := atomic_of_reaches (x := x) (y := y) (z := z) (w := w) hreach hhbm hlink
  exact hk.trans (inDmode_of_ruled hr hd k)

theorem atomGranules_of_not_walks (hw : walks q.fn = false) :
    atomGranules s q p va x none = granulesAt p va q.bytes := by
  unfold atomGranules
  rw [hw]
  cases locOf p <;> rfl

/-- An atomic that walks no list issues, where its one address passes its checks and D-mode allows it. -/
theorem atomic_issues {loc : Nat} {tags : SMap Tag}
    (hreach : reaches s ⟨.coreAtomic, .atomic, va, q.align, true, true⟩ l p) (hloc : locOf p = some loc)
    (hhbm : q.hbm = false) (hw : walks q.fn = false) (hd : q.ruled = true → dmodeOf s.dev s.cur = false)
    (hrace : raceFree s l ((granulesAt p va q.bytes).map (·.1)) true true false tags)
    (hdies : diesSound s (diesOf (stopeOf s.cur) p)) : ∃ tk e, atomic s q va x y z w none =
      .next (atomIssued (accessed s l (diesOf (stopeOf s.cur) p) tags) q.order q.first q.results q.flags
        { fn := q.fn, loc := loc, va := va.setWidth 48, half := q.half, x := x, y := y, z := z, w := w,
          scope := q.scope, order := q.order, task := tk, epoch := e, loc2 := 0 }) := by
  obtain ⟨k, hk, hissue⟩ := atomic_of_reaches (x := x) (y := y) (z := z) (w := w) (link := none) (loc2 := 0) hreach
    (by simp [hhbm]) fun _ => rfl
  obtain ⟨tk, hnext⟩ := hissue loc tags hloc (by rwa [Option.map_none, atomGranules_of_not_walks hw]) hdies
  refine ⟨tk, 0, (hk.trans (inDmode_of_allowed hd k)).trans (hnext.trans ?_)⟩
  unfold requestOf
  rw [hw]
  rfl

theorem atomGranules_of_walks {pa : Nat} {link : Option (Nat × Dword)} (hw : walks q.fn = true) :
    atomGranules s q (.hbm pa) va x link = addGranules (granulesAt (.hbm pa) va q.bytes)
      (link.toList ++ walkPlaces (memSeen s) q.fn (hbmLoc pa) (va.setWidth 48) x) := by
  unfold atomGranules
  rw [hw]
  rfl

/-- An atomic that walks a list in HBM issues: it was checked for what memory then showed (log 15). -/
theorem atomic_walks_issues {pa : Nat} {tags : SMap Tag} {gs : SMap Dword}
    (hreach : reaches s ⟨.coreAtomic, .atomic, va, q.align, true, true⟩ l (.hbm pa))
    (hlink : ∀ k, atomic.withLink s va link k = k loc2) (hw : walks q.fn = true)
    (hgs : atomGranules s q (.hbm pa) va x (link.map fun e => (loc2, e)) = gs) (hd : dmodeOf s.dev s.cur = false)
    (hrace : raceFree s l (gs.map (·.1)) true true false tags)
    (hdies : diesSound s (diesOf (stopeOf s.cur) (.hbm pa))) : ∃ tk e, atomic s q va x y z w link =
      .next (atomIssued (accessed s l (diesOf (stopeOf s.cur) (.hbm pa)) tags) q.order q.first q.results q.flags
        { fn := q.fn, loc := hbmLoc pa, va := va.setWidth 48, half := q.half, x := x, y := y, z := z, w := w,
          scope := q.scope, order := q.order, task := tk, epoch := e, loc2 := loc2, checked := gs.map (·.1),
          began := (live s).epoch }) := by
  obtain ⟨k, hk, hissue⟩ := atomic_of_reaches (x := x) (y := y) (z := z) (w := w) hreach (fun _ => ⟨pa, rfl⟩) hlink
  rw [hgs] at hissue
  obtain ⟨tk, hnext⟩ := hissue _ tags rfl hrace hdies
  refine ⟨tk, 0, (hk.trans (inDmode_of_allowed (fun _ => hd) k)).trans (hnext.trans ?_)⟩
  unfold requestOf
  rw [hw]
  rfl

end

/-! ## The words (R241, R242, R245) -/

theorem exec_atomRow {row : AtomRow} (h : row ∈ atomRows) (d a : RegNum) (t : Bool) (sc : Scope) (o : Order) (z : Bool)
    (s : State) : sourcesOf (row.word d a t sc o z) s = [gSrc s a t, gSrc s d t] ∧
      exec (row.word d a t sc o z) s =
        atomicWord s row.fn d a t sc o (row.always || z) row.ruled (if row.result then 1 else 0) := by
  fin_cases h <;> exact ⟨rfl, rfl⟩

theorem walks_atomRow : ∀ row ∈ atomRows, walks row.fn = false := by decide

theorem atomicWord_full {s : State} {fn : AtomFn} {d a : RegNum} {t : Bool} {sc : Scope} {o : Order} {half ruled : Bool}
    {results : Nat} (h : ∀ x ∈ [gSrc s a t, gSrc s d t], readable (src s) x = true) :
    atomicWord s fn d a t sc o half ruled results =
      atomic s ⟨fn, sc, o, half, if half then 4 else 8, if half then 4 else 8, false, ruled, d.toNat, results,
        issueFlags fn ((readG (src s) d).setWidth 32)⟩ (readG (src s) a) (readG (src s) d) 0 0 0 none := by
  unfold atomicWord
  rw [withSources_full h]
  congr 2
  cases fn <;> simp [issueFlags, snanFlag]

theorem pairReg_eq : ∀ d : BitVec 5, pairReg d = BitVec.ofNat 6 (2 * d.toNat) ∧ (pairReg d).toNat = 2 * d.toNat := by
  decide

theorem quadReg_eq : ∀ d : BitVec 4, quadReg d = BitVec.ofNat 6 (4 * d.toNat) ∧ (quadReg d).toNat = 4 * d.toNat := by
  decide

/-- The first clause of the statement: the words of one operand, and ALD. -/
theorem atomRow_issues {row : AtomRow} (hrow : row ∈ atomRows) {d a : RegNum} {t : Bool} {sc : Scope} {o : Order}
    {z : Bool} {s : State} {x : Launch} {p : Place} {loc : Nat} {tags : SMap Tag}
    (hfull : sourcesFull (row.word d a t sc o z) s)
    (hreach : reaches s ⟨.coreAtomic, .atomic, readG (src s) a, if row.always || z then 4 else 8, true, true⟩ x p)
    (hloc : locOf p = some loc) (hd : row.ruled = true → dmodeOf s.dev s.cur = false)
    (hrace : raceFree s x ((granulesAt p (readG (src s) a) (if row.always || z then 4 else 8)).map (·.1)) true true false
      tags) (hdies : diesSound s (diesOf (stopeOf s.cur) p)) :
    ∃ tk e, exec (row.word d a t sc o z) s = .next (atomIssued (accessed s x (diesOf (stopeOf s.cur) p) tags) o d.toNat
      (if row.result then 1 else 0) (issueFlags row.fn ((readG (src s) d).setWidth 32))
      { fn := row.fn, loc := loc, va := (readG (src s) a).setWidth 48, half := row.always || z, x := readG (src s) d,
        y := 0, z := 0, w := 0, scope := sc, order := o, task := tk, epoch := e, loc2 := 0 }) := by
  obtain ⟨hsources, hexec⟩ := exec_atomRow hrow d a t sc o z s
  unfold sourcesFull at hfull
  rw [hsources] at hfull
  rw [hexec, atomicWord_full hfull]
  exact atomic_issues hreach hloc rfl (walks_atomRow row hrow) hd hrace hdies

theorem atomRow_ruled_out {row : AtomRow} (hrow : row ∈ atomRows) (hr : row.ruled = true) {d a : RegNum} {t : Bool}
    {sc : Scope} {o : Order} {z : Bool} {s : State} {x : Launch} {p : Place}
    (hfull : sourcesFull (row.word d a t sc o z) s)
    (hreach : reaches s ⟨.coreAtomic, .atomic, readG (src s) a, if row.always || z then 4 else 8, true, true⟩ x p)
    (hd : dmodeOf s.dev s.cur = true) :
    exec (row.word d a t sc o z) s = trap s causeDet ((wordAddr s).setWidth 64) := by
  obtain ⟨hsources, hexec⟩ := exec_atomRow hrow d a t sc o z s
  unfold sourcesFull at hfull
  rw [hsources] at hfull
  rw [hexec, atomicWord_full hfull]
  exact atomic_ruled_out (loc2 := 0) hreach (by simp) (fun _ => rfl) hr hd

section
variable {s : State} {a : RegNum} {t : Bool} {sc : Scope} {o : Order}

theorem exec_ald {d : RegNum} {z : Bool} (h : sourcesFull (.ald d a t sc o z) s) : exec (.ald d a t sc o z) s =
    atomic s ⟨.ald, sc, o, z, if z then 4 else 8, if z then 4 else 8, false, false, d.toNat, 1, 0⟩
      (readG (src s) a) 0 0 0 0 none :=
  withSources_full h _

theorem exec_acas {d : BitVec 5} {z : Bool} (h : sourcesFull (.acas d a t sc o z) s) :
    let r : RegNum := BitVec.ofNat 6 (2 * d.toNat)
    exec (.acas d a t sc o z) s =
      atomic s ⟨.acas, sc, o, z, if z then 4 else 8, if z then 4 else 8, false, true, 2 * d.toNat, 1, 0⟩
        (readG (src s) a) (readG (src s) r) (readG (src s) (r + 1)) 0 0 none := by
  obtain ⟨hreg, hnum⟩ := pairReg_eq d
  rw [← hreg, ← hnum]
  exact withSources_full h _

theorem exec_acas2 {d : BitVec 4} (h : sourcesFull (.acas2 d a t sc o) s) :
    let r : RegNum := BitVec.ofNat 6 (4 * d.toNat)
    exec (.acas2 d a t sc o) s = atomic s ⟨.acas2, sc, o, false, 16, 16, false, true, 4 * d.toNat, 2, 0⟩
      (readG (src s) a) (readG (src s) r) (readG (src s) (r + 1)) (readG (src s) (r + 2)) (readG (src s) (r + 3))
      none := by
  obtain ⟨hreg, hnum⟩ := quadReg_eq d
  rw [← hreg, ← hnum]
  exact withSources_full h _

theorem exec_aenq {d : RegNum} (h : sourcesFull (.aenq d a t sc o) s) : exec (.aenq d a t sc o) s =
    atomic s ⟨.aenq, sc, o, false, 16, 16, true, true, d.toNat, 1, 0⟩ (readG (src s) a) (readG (src s) d) 0 0 0
      (some (readG (src s) d)) :=
  withSources_full h _

theorem exec_apchase {d : RegNum} (h : sourcesFull (.apchase d a t sc o) s) : exec (.apchase d a t sc o) s =
    atomic s ⟨.apchase, sc, o, false, 8, 8, true, true, d.toNat, 1, 0⟩ (readG (src s) a) (readG (src s) d) 0 0 0 none :=
  withSources_full h _

end

/-- Settles O33: every word is the one operation `atomic` on operands of its own, which issues or meets D-mode. -/
theorem atomicWords : Obligations.AtomicWords := by
  unfold Obligations.AtomicWords
  refine ⟨⟨?_, ?_, ?_, ?_⟩, ?_, ?_, ?_, ?_⟩
  · intro row hrow d a t sc o z s x p loc tags half n va hfull hreach hloc hd hrace hdies
    exact atomRow_issues hrow hfull hreach hloc hd hrace hdies
  · intro d a t sc o z s x p loc tags n va hfull hreach hloc hrace hdies
    rw [exec_ald hfull]
    exact atomic_issues hreach hloc rfl rfl (by simp) hrace hdies
  · intro row hrow hr d a t sc o z s x p hfull hreach hd
    exact atomRow_ruled_out hrow hr hfull hreach hd
  · intro a t sc o s x p va near hd
    refine ⟨?_, ?_, ?_, ?_⟩
    · intro d z hfull hreach
      rw [exec_acas hfull]
      exact atomic_ruled_out (loc2 := 0) hreach (by simp) (fun _ => rfl) rfl hd
    · intro d hfull hreach
      rw [exec_acas2 hfull]
      exact atomic_ruled_out (loc2 := 0) hreach (by simp) (fun _ => rfl) rfl hd
    · intro d pa eloc hfull hreach hlink hloc hpage
      rw [exec_aenq hfull]
      exact atomic_ruled_out hreach (fun _ => ⟨pa, rfl⟩) (withLink_of_reaches hlink hloc hpage) rfl hd
    · intro d pa hfull hreach
      rw [exec_apchase hfull]
      exact atomic_ruled_out (loc2 := 0) hreach (fun _ => ⟨pa, rfl⟩) (fun _ => rfl) rfl hd
  · intro d a t sc o z s x p loc tags r n va hfull hreach hloc hd hrace hdies
    rw [exec_acas hfull]
    exact atomic_issues hreach hloc rfl rfl (fun _ => hd) hrace hdies
  · intro d a t sc o s x p loc tags r va hfull hreach hloc hd hrace hdies
    rw [exec_acas2 hfull]
    exact atomic_issues hreach hloc rfl rfl (fun _ => hd) hrace hdies
  · intro d a t sc o s x pa eloc q tags
    dsimp only
    intro hfull hreach hlink hloc hpage hd hrace hdies
    rw [exec_aenq hfull]
    refine atomic_walks_issues hreach (withLink_of_reaches hlink hloc hpage) rfl ?_ hd hrace hdies
    rw [atomGranules_of_walks rfl, Option.map_some, Option.toList_some, List.singleton_append]
  · intro d a t sc o s x pa tags
    dsimp only
    intro hfull hreach hd hrace hdies
    rw [exec_apchase hfull]
    refine atomic_walks_issues (loc2 := 0) hreach (fun _ => rfl) rfl ?_ hd hrace hdies
    exact atomGranules_of_walks rfl

end Sys2Proof.Machine
end

section
/-! SUPPORT. What an atomic and an increment leave of memory where no task waits for what they change (R241 to R246,
R281, R283). -/

namespace Sys2Proof.Machine

/-! ## Reading what was written (R2) -/

theorem readN_congr {m m' : Memory} (h : sameBytes m m') (loc n : Nat) : readN m' loc n = readN m loc n := by
  induction n generalizing loc with
  | zero => rfl
  | succ n ih => rw [readN, readN, h, ih]

theorem readN_lt (m : Memory) (loc n : Nat) : readN m loc n < 256 ^ n := by
  induction n generalizing loc with
  | zero => simp [readN]
  | succ n ih =>
    have hbyte := (readByte m loc).isLt
    have hrest := ih (loc + 1)
    rw [readN, Nat.pow_succ]
    omega

theorem toNat_ofNat_readN (m : Memory) (loc : Nat) : (BitVec.ofNat 64 (readN m loc 8)).toNat = readN m loc 8 := by
  rw [BitVec.toNat_ofNat]
  exact Nat.mod_eq_of_lt (readN_lt m loc 8)

/-- Writing back what is read changes no byte. -/
theorem sameBytes_writeN_readN (m : Memory) (loc n : Nat) : sameBytes m (writeN m loc n (readN m loc n)) := by
  induction n generalizing m loc with
  | zero => exact fun _ => rfl
  | succ n ih =>
    intro b
    have hbyte : BitVec.ofNat 8 (readN m loc (n + 1)) = readByte m loc := by
      apply BitVec.eq_of_toNat_eq
      have := (readByte m loc).isLt
      rw [readN, BitVec.toNat_ofNat]
      omega
    have hrest : readN m loc (n + 1) / 256 = readN m (loc + 1) n := by
      have := (readByte m loc).isLt
      rw [readN]
      omega
    have hsame : sameBytes m (writeByte m loc (readByte m loc)) := by
      intro c
      rw [readByte_writeByte]
      split
      · rw [‹c = loc›]
      · rfl
    rw [writeN, hbyte, hrest, ← readN_congr hsame, ih, hsame]

/-! ## Waits (R281, R283) -/

theorem settle_of_wakesNone {d : Dev} (h : wakesNone d) : settle d = firePosted d := by
  have h : metWaits d = [] := h
  rw [settle, wakeCounters, h]
  rfl

theorem mem_settle {d : Dev} (h : wakesNone d) : (settle d).mem = d.mem := by
  rw [settle_of_wakesNone h]
  rfl

theorem arms_settle {d : Dev} (h : wakesNone d) : (settle d).arms = d.arms := by
  rw [settle_of_wakesNone h]
  rfl

theorem counterValue_congr {d : Dev} {m : Memory} (h : sameBytes d.mem m) (loc : Nat) :
    counterValue { d with mem := m } loc = counterValue d loc :=
  congrArg (BitVec.ofNat 64) (readN_congr h loc 8)

/-- A wait sees memory by its bytes alone. -/
theorem waitMet_congr {d : Dev} {m : Memory} (h : sameBytes d.mem m) (w : WaitFor) :
    waitMet { d with mem := m } w = waitMet d w := by
  cases w with
  | counter loc v =>
    simp only [waitMet, counterValue_congr h]
    rfl
  | _ => rfl

theorem wakesNone_congr {d : Dev} {m : Memory} (h : sameBytes d.mem m) (hw : wakesNone d) :
    wakesNone { d with mem := m } := by
  unfold wakesNone metWaits at *
  simpa only [waitMet_congr h] using hw

/-! ## New values (R242, R243) -/

section
variable {w : Nat} (m x : BitVec w)

theorem ite_slt_eq_min : (if m.slt x then m else x) = BitVec.ofInt w (min m.toInt x.toInt) := by
  by_cases h : m.toInt < x.toInt
  · rw [if_pos (BitVec.slt_iff_toInt_lt.2 h), min_eq_left h.le, BitVec.ofInt_toInt]
  · rw [if_neg (mt BitVec.slt_iff_toInt_lt.1 h), min_eq_right (not_lt.1 h), BitVec.ofInt_toInt]

theorem ite_slt_eq_max : (if m.slt x then x else m) = BitVec.ofInt w (max m.toInt x.toInt) := by
  by_cases h : m.toInt < x.toInt
  · rw [if_pos (BitVec.slt_iff_toInt_lt.2 h), max_eq_right h.le, BitVec.ofInt_toInt]
  · rw [if_neg (mt BitVec.slt_iff_toInt_lt.1 h), max_eq_left (not_lt.1 h), BitVec.ofInt_toInt]

theorem ite_ult_eq_min : (if m.ult x then m else x) = BitVec.ofNat w (min m.toNat x.toNat) := by
  by_cases h : m.toNat < x.toNat
  · rw [if_pos (BitVec.ult_iff_toNat_lt.2 h), min_eq_left h.le, BitVec.ofNat_toNat, BitVec.setWidth_eq]
  · rw [if_neg (mt BitVec.ult_iff_toNat_lt.1 h), min_eq_right (not_lt.1 h), BitVec.ofNat_toNat, BitVec.setWidth_eq]

theorem ite_ult_eq_max : (if m.ult x then x else m) = BitVec.ofNat w (max m.toNat x.toNat) := by
  by_cases h : m.toNat < x.toNat
  · rw [if_pos (BitVec.ult_iff_toNat_lt.2 h), max_eq_right h.le, BitVec.ofNat_toNat, BitVec.setWidth_eq]
  · rw [if_neg (mt BitVec.ult_iff_toNat_lt.1 h), max_eq_left (not_lt.1 h), BitVec.ofNat_toNat, BitVec.setWidth_eq]

end

/-- The table of the 8-byte functions agrees with what the point of coherence computes. -/
theorem newDword_row : ∀ row ∈ dwordRows, ∀ m x y, newDword row.1 m x y = row.2 m x := by
  simp only [dwordRows, List.forall_mem_cons]
  exact ⟨fun _ _ _ => rfl, fun _ _ _ => rfl, fun _ _ _ => rfl, fun _ _ _ => rfl, fun _ _ _ => rfl, fun _ _ _ => rfl,
    fun m x _ => ite_slt_eq_min m x, fun m x _ => ite_slt_eq_max m x, fun m x _ => ite_ult_eq_min m x,
    fun m x _ => ite_ult_eq_max m x, List.forall_mem_nil _⟩

theorem newWord_row : ∀ row ∈ wordRows, ∀ m x y, (newWord row.1 m x y).1 = row.2 m x := by
  simp only [wordRows, List.forall_mem_cons]
  exact ⟨fun _ _ _ => rfl, fun _ _ _ => rfl, fun _ _ _ => rfl, fun _ _ _ => rfl, fun _ _ _ => rfl, fun _ _ _ => rfl,
    fun _ _ _ => rfl, fun m x _ => ite_slt_eq_min m x, fun m x _ => ite_slt_eq_max m x,
    fun m x _ => ite_ult_eq_min m x, fun m x _ => ite_ult_eq_max m x, fun _ _ _ => rfl, fun _ _ _ => rfl,
    fun _ _ _ => rfl, List.forall_mem_nil _⟩

theorem newDword_acas (m x y : Dword) : newDword .acas m x y = if m = x then y else m := rfl

theorem fn_dwordRow : ∀ row ∈ dwordRows, walks row.1 = false ∧ row.1 ≠ .acas2 ∧ row.1 ≠ .add := by decide

theorem fn_wordRow : ∀ row ∈ wordRows, walks row.1 = false ∧ row.1 ≠ .acas2 := by decide

/-! ## Performing an atomic (R241, R245, R246) -/

section
variable {d : Dev} {a : AtomReq}

theorem performAtomic_half (st : Nat) (hwalks : walks a.fn = false) (hpair : a.fn ≠ .acas2) (hhalf : a.half = true) :
    let m : Word := BitVec.ofNat 32 (readN d.mem a.loc 4)
    let r := newWord a.fn m (a.x.setWidth 32) (a.y.setWidth 32)
    performAtomic d st a = ([m.setWidth 64], r.2, settle { d with mem := writeN d.mem a.loc 4 r.1.toNat }) := by
  obtain ⟨fn, loc, va, half, x, y, z, w, sc, o, task, epoch, loc2, gs, began⟩ := a
  obtain rfl : half = true := hhalf
  cases fn with
  | aenq | apchase => cases hwalks
  | acas2 => exact absurd rfl hpair
  | _ => rfl

theorem performAtomic_full (st : Nat) (hwalks : walks a.fn = false) (hpair : a.fn ≠ .acas2) (hadd : a.fn ≠ .add)
    (hhalf : a.half = false) :
    let m := BitVec.ofNat 64 (readN d.mem a.loc 8)
    performAtomic d st a =
      ([m], 0, settle { d with mem := writeN d.mem a.loc 8 (newDword a.fn m a.x a.y).toNat }) := by
  obtain ⟨fn, loc, va, half, x, y, z, w, sc, o, task, epoch, loc2, gs, began⟩ := a
  obtain rfl : half = false := hhalf
  cases fn with
  | aenq | apchase => cases hwalks
  | acas2 => exact absurd rfl hpair
  | add => exact absurd rfl hadd
  | _ => rfl

/-- A compare that fails writes back what it read. -/
theorem performAtomic_acas (st : Nat) (hfn : a.fn = .acas) (hhalf : a.half = false) (hw : wakesNone d) :
    let m := BitVec.ofNat 64 (readN d.mem a.loc 8)
    (performAtomic d st a).1 = [m] ∧ (m ≠ a.x → sameBytes d.mem (performAtomic d st a).2.2.mem) ∧
      (m = a.x → wakesNone { d with mem := writeN d.mem a.loc 8 a.y.toNat } →
        (performAtomic d st a).2.2.mem = writeN d.mem a.loc 8 a.y.toNat) := by
  intro m
  have hperform : performAtomic d st a = ([m], 0, settle { d with
      mem := writeN d.mem a.loc 8 (newDword .acas m a.x a.y).toNat }) := by
    rw [← hfn]
    exact performAtomic_full st (by rw [hfn]; rfl) (by simp [hfn]) (by simp [hfn]) hhalf
  rw [hperform]
  refine ⟨rfl, fun hne => ?_, fun he hw' => ?_⟩
  · have hsame : sameBytes d.mem (writeN d.mem a.loc 8 m.toNat) := by
      rw [toNat_ofNat_readN]
      exact sameBytes_writeN_readN _ _ _
    have hnew : newDword .acas m a.x a.y = m := by rw [newDword_acas, if_neg hne]
    have hmem := mem_settle (wakesNone_congr (d := d) hsame hw)
    rw [hnew]
    dsimp only
    rw [hmem]
    exact hsame
  · have hnew : newDword .acas m a.x a.y = a.y := by rw [newDword_acas, if_pos he]
    rw [hnew]
    exact mem_settle hw'

theorem performAtomic_acas2 (st : Nat) (hfn : a.fn = .acas2) :
    let m0 := readN d.mem a.loc 8
    let m1 := readN d.mem (a.loc + 8) 8
    let mem := writeN (writeN d.mem a.loc 8 a.z.toNat) (a.loc + 8) 8 a.w.toNat
    (performAtomic d st a).1 = [BitVec.ofNat 64 m0, BitVec.ofNat 64 m1] ∧
      (m0 = a.x.toNat ∧ m1 = a.y.toNat → wakesNone { d with mem := mem } → (performAtomic d st a).2.2.mem = mem) ∧
      (¬ (m0 = a.x.toNat ∧ m1 = a.y.toNat) → wakesNone d → (performAtomic d st a).2.2.mem = d.mem) := by
  intro m0 m1 mem
  have hperform : performAtomic d st a = ([BitVec.ofNat 64 m0, BitVec.ofNat 64 m1], 0,
      settle { d with mem := if m0 = a.x.toNat ∧ m1 = a.y.toNat then mem else d.mem }) := by
    simp only [performAtomic, hfn]
    rfl
  rw [hperform]
  refine ⟨rfl, fun he hw => ?_, fun hne hw => ?_⟩
  · simp only [if_pos he, mem_settle hw]
  · simp only [if_neg hne, mem_settle hw]

theorem performAtomic_aenq_empty (st : Nat) (hfn : a.fn = .aenq) (hempty : readN d.mem (a.loc + 8) 8 = 0) :
    performAtomic d st a = ([0], 0, settle { d with
      mem := writeN (writeN (writeN d.mem a.loc2 8 0) a.loc 8 a.x.toNat) (a.loc + 8) 8 a.x.toNat }) := by
  simp [performAtomic, hfn, enqueueList, hempty]

end

/-! ## Increments (R281) -/

section
variable {d : Dev} {loc : Nat} {v : Dword} {total : Nat} {m : Option Mark}

theorem raiseTo_unarmed (h : armOf d loc = none) :
    raiseTo d loc v total m = settle { d with mem := writeN d.mem loc 8 v.toNat } := by
  simp [raiseTo, h]

theorem raiseTo_overrun {a : Arming} (h : armOf d loc = some a) (ho : a.overrun = true) :
    raiseTo d loc v total m = settle d := by
  simp [raiseTo, h, ho]

theorem raiseTo_refused {a : Arming} (h : armOf d loc = some a) (ho : a.overrun = false) (hl : a.limit ≠ 0)
    (hv : a.limit.toNat < total) :
    raiseTo d loc v total m = settle { d with arms := minsert d.arms loc { a with overrun := true } } := by
  have hl : ¬ a.limit = 0#64 := hl
  simp [raiseTo, h, ho, hl, hv]

theorem raiseTo_counted {a : Arming} (h : armOf d loc = some a) (ho : a.overrun = false)
    (hl : a.limit = 0 ∨ total ≤ a.limit.toNat) :
    raiseTo d loc v total m = settle { d with
      mem := writeN d.mem loc 8 v.toNat, arms := minsert d.arms loc { a with log := addContrib a.log m v } } := by
  have hl : ¬ (a.limit ≠ 0 ∧ a.limit.toNat < total) := by
    rintro ⟨h0, hlt⟩
    exact hl.elim h0 (Nat.not_le.2 hlt)
  simp only [raiseTo, h, ho, if_neg hl]
  rfl

end

/-- The clauses of the statement on increments. -/
theorem increment_cases (d : Dev) (loc : Nat) (n : Dword) (m : Option Mark) :
    let v := counterValue d loc
    (armOf d loc = none → wakesNone { d with mem := writeN d.mem loc 8 (v + n).toNat } →
      (increment d loc n m).mem = writeN d.mem loc 8 (v + n).toNat ∧ (increment d loc n m).arms = d.arms) ∧
    (∀ a, armOf d loc = some a → a.overrun = false → a.limit ≠ 0 → a.limit.toNat < v.toNat + n.toNat →
      wakesNone { d with arms := minsert d.arms loc { a with overrun := true } } →
      (increment d loc n m).mem = d.mem ∧ armOf (increment d loc n m) loc = some { a with overrun := true }) ∧
    (∀ a, armOf d loc = some a → a.overrun = false → (a.limit = 0 ∨ v.toNat + n.toNat ≤ a.limit.toNat) →
      wakesNone { d with mem := writeN d.mem loc 8 (v + n).toNat,
                         arms := minsert d.arms loc { a with log := addContrib a.log m (v + n) } } →
      (increment d loc n m).mem = writeN d.mem loc 8 (v + n).toNat ∧
      ∃ b, armOf (increment d loc n m) loc = some b ∧ b.limit = a.limit ∧ b.overrun = false) ∧
    (∀ a, armOf d loc = some a → a.overrun = true → wakesNone d →
      (increment d loc n m).mem = d.mem ∧ (increment d loc n m).arms = d.arms) := by
  refine ⟨fun h hw => ?_, fun a h ho hl hv hw => ?_, fun a h ho hl hw => ?_, fun a h ho hw => ?_⟩
  · rw [increment, raiseTo_unarmed h, mem_settle hw, arms_settle hw]
    exact ⟨rfl, rfl⟩
  · rw [increment, raiseTo_refused h ho hl hv, armOf, mem_settle hw, arms_settle hw]
    exact ⟨rfl, mfind_minsert_self ..⟩
  · rw [increment, raiseTo_counted h ho hl, armOf, mem_settle hw, arms_settle hw]
    exact ⟨rfl, _, mfind_minsert_self .., rfl, ho⟩
  · rw [increment, raiseTo_overrun h ho, mem_settle hw, arms_settle hw]
    exact ⟨rfl, rfl⟩

end Sys2Proof.Machine
end

section
/-! SUPPORT. What comes to a core and what leaves it: a landing (R200, R201), load data (R235), and a store at the head
of the check window (R90, R150). -/

namespace Sys2Proof.Machine

/-! ## Landings (R200, R201, R251) -/

theorem regWidth_le (f : RegFile) : regWidth f ≤ 1024 := by cases f <;> decide

theorem regValue_writeReg_self (c : Core) {f : RegFile} {n : Nat} (h : hardwired f n = false) (x : Vec) :
    regValue (writeReg c f n x) f n = BitVec.ofNat 1024 (x.toNat % 2 ^ regWidth f) := by
  cases f with
  | g =>
    have hn : n ≠ 0 := by simpa [hardwired] using h
    rw [regValue, physReadG_writeReg, if_pos ⟨rfl, hn⟩, ← BitVec.ofNat_toNat, BitVec.toNat_setWidth, regWidth]
  | v =>
    rw [regValue, physReadV_writeReg, if_pos rfl, regWidth, Nat.mod_eq_of_lt x.isLt, BitVec.ofNat_toNat,
      BitVec.setWidth_eq]
  | p =>
    have hn : n ≠ 0 := by simpa [hardwired] using h
    rw [regValue, physReadP_writeReg, if_pos ⟨rfl, hn⟩, ← BitVec.ofNat_toNat, BitVec.toNat_setWidth, regWidth]
  | o =>
    have hread : readO (writeReg c .o n x) n = x.setWidth 64 := by simp [readO, writeReg, h]
    rw [regValue, hread, ← BitVec.ofNat_toNat, BitVec.toNat_setWidth, regWidth]

theorem regValue_writeReg_of_ne (c : Core) {f e : RegFile} {n m : Nat} (x : Vec) (h : e ≠ f ∨ m ≠ n) :
    regValue (writeReg c f n x) e m = regValue c e m := by
  by_cases hfile : e = f
  · subst hfile
    have hm : m ≠ n := h.resolve_left fun hne => hne rfl
    cases e with
    | g => simp [regValue, physReadG_writeReg, hm]
    | v => simp [regValue, physReadV_writeReg, hm]
    | p => simp [regValue, physReadP_writeReg, hm]
    | o => simp [regValue, readO, writeReg, hardwired, mget_mset_of_ne _ _ _ hm]
  · unfold writeReg
    split
    · rfl
    · cases f with
      | g =>
        cases e with
        | g => exact absurd rfl hfile
        | v | p | o => rfl
      | v =>
        cases e with
        | v => exact absurd rfl hfile
        | g | p | o => rfl
      | p =>
        cases e with
        | p => exact absurd rfl hfile
        | g | v | o => rfl
      | o =>
        cases e with
        | o => exact absurd rfl hfile
        | g | v | p => rfl

@[simp] theorem regValue_setEmpty (c : Core) (f e : RegFile) (n m : Nat) (b : Bool) :
    regValue (setEmpty c f n b) e m = regValue c e m := by
  cases e <;> simp [regValue, physReadG, physReadV, physReadP, readO]

section
variable {c : Core} {f : Flight}

theorem hardwired_of_owns (h : owns c f = true) : hardwired f.file f.num = false := by
  simp only [owns, Bool.and_eq_true, Bool.not_eq_true'] at h
  exact h.1

theorem land_of_owns (h : owns c f = true) : land c f =
    setEmpty (writeReg { c with fflags := c.fflags ||| f.flags } f.file f.num f.data) f.file f.num false :=
  if_pos h

theorem regValue_land_self (h : owns c f = true) :
    regValue (land c f) f.file f.num = BitVec.ofNat 1024 (f.data.toNat % 2 ^ regWidth f.file) := by
  rw [land_of_owns h, regValue_setEmpty, regValue_writeReg_self _ (hardwired_of_owns h)]

theorem isEmpty_land_self (h : owns c f = true) : isEmpty (land c f) f.file f.num = false := by
  rw [land_of_owns h, isEmpty_setEmpty _ _ _ _ (hardwired_of_owns h)]

theorem regValue_land_of_ne (ho : owns c f = true) {e : RegFile} {m : Nat} (h : e ≠ f.file ∨ m ≠ f.num) :
    regValue (land c f) e m = regValue c e m := by
  rw [land_of_owns ho, regValue_setEmpty, regValue_writeReg_of_ne _ _ h]
  cases e <;> rfl

theorem physReadG_land (ho : owns c f = true) (hf : f.file = .g) (m : Nat) :
    physReadG (land c f) m = if m = f.num then f.data.setWidth 64 else physReadG c m := by
  have hn : f.num ≠ 0 := by simpa [hf, hardwired] using hardwired_of_owns ho
  have hland : physReadG (land c f) m =
      physReadG (writeReg { c with fflags := c.fflags ||| f.flags } .g f.num f.data) m := by
    rw [land_of_owns ho, hf]
    simp [physReadG]
  rw [hland, physReadG_writeReg]
  simp only [hn, ne_eq, not_false_eq_true, and_true]
  rfl

@[simp] theorem fflags_land : (land c f).fflags = c.fflags ||| f.flags := by
  unfold land
  dsimp only
  split <;> simp

@[simp] theorem acks_land : (land c f).acks = c.acks := by
  unfold land
  dsimp only
  split <;> simp

end

theorem landAll_append (sel : Flight → Bool) (p q : List Flight) (c : Core) :
    landAll sel (p ++ q) c = landAll sel q (landAll sel p c) := by
  induction p generalizing c with
  | nil => rfl
  | cons e r ih => exact ih _

theorem landAll_of_none {sel : Flight → Bool} {fs : List Flight} (h : ∀ e ∈ fs, sel e = false) (c : Core) :
    landAll sel fs c = c := by
  induction fs with
  | nil => rfl
  | cons e r ih =>
    rw [landAll, h e (by simp)]
    exact ih fun a ha => h a (List.mem_cons_of_mem _ ha)

/-- Where one result is to be written, the others stay on their way. -/
theorem writeSel_single {sel : Flight → Bool} {c : Core} {p q : List Flight} {f : Flight}
    (hc : c.flights = p ++ f :: q) (hf : sel f = true) (h : ∀ e ∈ p ++ q, sel e = false) :
    writeSel sel c = { land c f with flights := p ++ q } := by
  have hp : ∀ e ∈ p, sel e = false := fun e he => h e (List.mem_append_left _ he)
  have hq : ∀ e ∈ q, sel e = false := fun e he => h e (List.mem_append_right _ he)
  have hland : landAll sel c.flights c = land c f := by
    rw [hc, landAll_append, landAll_of_none hp, landAll, hf, landAll_of_none hq]
    rfl
  have hrest : c.flights.filter (fun e => !sel e) = p ++ q := by
    rw [hc, List.filter_append, List.filter_cons, hf,
      List.filter_eq_self.2 fun e he => by rw [hp e he]; rfl, List.filter_eq_self.2 fun e he => by rw [hq e he]; rfl]
    rfl
  simp only [writeSel, hland, hrest]

/-! ## Load data (R201, R235) -/

section
variable {d : Dev} {k : Nat} {c : Core} {f : Flight}

theorem arriveFlight_lands (ho : owns c f = true) (hl : landsAtOnce f.remain = true)
    (hw : replaying d (stopeOf k) = false) (hp : preemptDue d.now c = false) (x : Vec) :
    arriveFlight d k c f x =
      land { c with flights := c.flights.filter fun g => !(g.word == f.word && g.num == f.num && g.file == f.file) }
        { f with arrived := true, data := x } := by
  simp only [arriveFlight, ho, hl, hw, hp, Bool.not_true, Bool.false_eq_true, if_false, Bool.not_false, Bool.false_and,
    Bool.and_self, if_true]

theorem regValue_flights (c : Core) (fs : List Flight) (e : RegFile) (m : Nat) :
    regValue { c with flights := fs } e m = regValue c e m := by
  cases e <;> rfl

theorem arriveFlight_writes (ho : owns c f = true) (hl : landsAtOnce f.remain = true)
    (hw : replaying d (stopeOf k) = false) (hp : preemptDue d.now c = false) (x : Vec) :
    regValue (arriveFlight d k c f x) f.file f.num = BitVec.ofNat 1024 (x.toNat % 2 ^ regWidth f.file) ∧
      isEmpty (arriveFlight d k c f x) f.file f.num = false ∧
      ∀ e m, (e ≠ f.file ∨ m ≠ f.num) → regValue (arriveFlight d k c f x) e m = regValue c e m := by
  have hown : owns { c with
      flights := c.flights.filter fun g => !(g.word == f.word && g.num == f.num && g.file == f.file) }
      { f with arrived := true, data := x } = true := ho
  rw [arriveFlight_lands ho hl hw hp]
  exact ⟨regValue_land_self hown, isEmpty_land_self hown,
    fun e m h => (regValue_land_of_ne hown h).trans (regValue_flights ..)⟩

theorem arriveFlight_buffers (ho : owns c f = true) (hlt : f.remain < 63) (hne : f.remain ≠ 0)
    (hroom : entryFree d k c = true) (x : Vec) :
    arriveFlight d k c f x = { c with flights := c.flights.map fun g =>
      if !(g.word == f.word && g.num == f.num && g.file == f.file) then g
      else { f with arrived := true, data := x, buffered := true } } := by
  have honce : landsAtOnce f.remain = false := by
    simp only [landsAtOnce, Bool.or_eq_false_iff, beq_eq_false_iff_ne, decide_eq_false_iff_not]
    omega
  have htimed : (f.remain != 63) = true := bne_iff_ne.2 (by omega)
  have hdue : f.remain ≠ overdue := by unfold overdue; omega
  simp only [arriveFlight, ho, honce, htimed, hroom, if_neg hdue, Bool.not_true, Bool.false_eq_true, if_false,
    Bool.false_and, Bool.or_true, Bool.and_self]

theorem arriveFlight_discards (ho : owns c f = false) (x : Vec) : arriveFlight d k c f x =
    { c with flights := c.flights.filter fun g => !(g.word == f.word && g.num == f.num && g.file == f.file) } := by
  simp only [arriveFlight, ho, Bool.not_false, if_true]

/-- A load of bytes whose data arrives changes its core alone. -/
theorem loadDataArrival_arrives {core : CoreId} {w loc n : Nat} {s : State} {r : Running}
    (hrun : (coreAt s.dev (coreNum core)).run = some r)
    (hfind : (coreAt s.dev (coreNum core)).flights.find? (fun f => f.word == w && isLoad f.src && !f.arrived) = some f)
    (hsrc : f.src = .bytes loc n) (hready : loadReady s.dev (coreNum core) f.word f.src = true) : ∃ t,
    exec (.loadDataArrival core w false) s = .next t ∧
      t = setDev s (putCore s.dev (coreNum core) (coreAt t.dev (coreNum core))) ∧
      coreAt t.dev (coreNum core) = arriveFlight s.dev (coreNum core) (coreAt s.dev (coreNum core)) f
        (BitVec.ofNat 1024 (readN s.dev.mem loc n)) := by
  have hperform : loadArrives s.dev (coreNum core) w false = putCore s.dev (coreNum core)
      (arriveFlight s.dev (coreNum core) (coreAt s.dev (coreNum core)) f (BitVec.ofNat 1024 (readN s.dev.mem loc n))) := by
    simp only [loadArrives, hrun, hfind, hready, Bool.not_true, Bool.false_eq_true, if_false, performLoad]
    rw [hsrc]
    rfl
  refine ⟨setDev s (loadArrives s.dev (coreNum core) w false), rfl, ?_⟩
  rw [hperform, setDev_dev, coreAt_putCore_self]
  exact ⟨rfl, rfl⟩

end

/-! ## A store at the head of the window (R90, R150) -/

theorem closeOldest_of_later {d : Dev} {k seq : Nat} (h : ∀ e ∈ (coreAt d k).window, e.seq ≠ seq) (n : Nat) :
    closeOldest d k n seq = d := by
  cases n with
  | zero => rfl
  | succ n =>
    unfold closeOldest
    split
    · rfl
    · rename_i w r hwindow
      exact if_neg (h w (by simp [hwindow]))

theorem windowClose_store {d : Dev} {k : Nat} {w : WindowItem} {r : List WindowItem} {cs : List Host.Cell}
    (hwindow : (coreAt d k).window = w :: r) (hlater : ∀ e ∈ r, e.seq ≠ w.seq) (hop : w.op = .store cs)
    (hleave : canLeave d (coreAt d k) (7 * d.issues + 8) w = true) (hreplay : replaying d (stopeOf k) = false)
    (hwakes : wakesNone { putCore d k { coreAt d k with window := r } with mem := writeCells d.mem cs }) :
    windowClose d k = firePosted { putCore d k { coreAt d k with window := r } with mem := writeCells d.mem cs } := by
  have hclose : closeWindow d k (7 * d.issues + 8) =
      firePosted { putCore d k { coreAt d k with window := r } with mem := writeCells d.mem cs } := by
    rw [← settle_of_wakesNone hwakes]
    simp only [closeWindow, hwindow, hleave, if_true, performItem, hop]
    rfl
  have hrest : (coreAt (closeWindow d k (7 * d.issues + 8)) k).window = r := by
    rw [hclose]
    exact congrArg Core.window (coreAt_putCore_self d k { coreAt d k with window := r })
  simp only [windowClose, hwindow, hreplay, Bool.false_eq_true, if_false, closeOldest, if_true]
  rw [closeOldest_of_later (by rwa [hrest]), hclose]

/-- Settles O32: data that arrives goes by the owner of its register and by its count, and the store's bytes are the
only thing that its leaving changes beside the window. -/
theorem arrivalsAndWindowStores : Obligations.ArrivalsAndWindowStores := by
  unfold Obligations.ArrivalsAndWindowStores
  constructor
  · intro core w loc n s f r
    dsimp only
    intro hrun hfind hsrc hnum hready hpreempt hreplay
    obtain ⟨t, hexec, ht, hcore⟩ := loadDataArrival_arrives hrun hfind hsrc hready
    have hword : f.word = w := by
      have hfound := List.find?_some hfind
      simp only [Bool.and_eq_true, beq_iff_eq] at hfound
      exact hfound.1.1
    refine ⟨fun ho hremain => ?_, fun ho hlt hne hroom => ?_, fun ho => ?_⟩
    · have honce : landsAtOnce f.remain = true := by simpa [landsAtOnce] using hremain
      obtain ⟨hself, hfull, hother⟩ := arriveFlight_writes ho honce hreplay hpreempt
        (BitVec.ofNat 1024 (readN s.dev.mem loc n))
      rw [← hcore] at hself hfull hother
      refine ⟨t, hexec, ht, ?_, hfull, fun e m _ => hother e m⟩
      rw [hself, BitVec.toNat_ofNat, Nat.mod_mod_of_dvd _ (Nat.pow_dvd_pow 2 (regWidth_le f.file))]
    · have hentry : entryFree s.dev (coreNum core) (coreAt s.dev (coreNum core)) = true := by simp [entryFree, hroom]
      rw [arriveFlight_buffers ho hlt hne hentry] at hcore
      refine ⟨t, { f with arrived := true, data := BitVec.ofNat 1024 (readN s.dev.mem loc n), buffered := true }, hexec,
        ht, ?_, ?_, hword, rfl, rfl, rfl, rfl, rfl, rfl⟩
      · rw [hcore]
        exact ⟨rfl, rfl, rfl, rfl, rfl, rfl⟩
      · rw [hcore]
        exact List.mem_map.2 ⟨f, List.mem_of_find?_eq_some hfind, by simp⟩
    · rw [arriveFlight_discards ho] at hcore
      refine ⟨t, hexec, ht, ?_, ?_⟩
      · rw [hcore]
        exact ⟨rfl, rfl, rfl, rfl, rfl, rfl⟩
      · rw [hcore]
        rintro g hg ⟨hgword, hgfile, hgnum⟩
        have hrest := (List.mem_filter.1 hg).2
        simp [hgword, hgfile, hgnum, hword] at hrest
  · intro core s w r cs k hwindow hlater hop hleave hreplay hwakes
    refine ⟨setDev s (windowClose s.dev k), rfl, ?_⟩
    rw [setDev_dev, windowClose_store hwindow hlater hop hleave hreplay hwakes]
    exact ⟨coreAt_putCore_self .., readByte_writeCells s.dev.mem cs, fun j hj => coreAt_putCore_of_ne _ _ hj, rfl, rfl,
      rfl⟩

end Sys2Proof.Machine
end

section
/-! SUPPORT. The acknowledgement of an atomic (R201, R241), and the statement on atomics and increments. -/

namespace Sys2Proof.Machine

/-! ## The acknowledgement (R201, R241) -/

theorem fillFlights_of_others {w : Nat} {fs : List Flight} (h : ∀ e ∈ fs, e.word ≠ w) (wait : Bool) (xs : List Vec) :
    fillFlights wait w xs fs = fs := by
  refine (List.map_congr_left fun e he => ?_).trans (List.map_id' fs)
  split
  · exact if_neg fun hw => h e he hw.1
  · rfl

/-- The result of a word goes to the one flight that waits for it. -/
theorem fillFlights_single {w : Nat} {p q : List Flight} {f : Flight} (hf : f.word = w) (hsrc : f.src = .result 0)
    (ha : f.arrived = false) (hfixed : f.fixed = false) (h : ∀ e ∈ p ++ q, e.word ≠ w) (wait : Bool) (x : Vec) :
    fillFlights wait w [x] (p ++ f :: q) = p ++ { f with arrived := true, data := x, buffered := wait } :: q := by
  have hp := fillFlights_of_others (fun e he => h e (List.mem_append_left q he)) wait [x]
  have hq := fillFlights_of_others (fun e he => h e (List.mem_append_right p he)) wait [x]
  unfold fillFlights at *
  rw [List.map_append, List.map_cons, hp, hq]
  simp [hsrc, resultIndex, hf, ha, hfixed]

section
variable {d : Dev} {k : Nat} {f : Flight} {p q : List Flight}

/-- The core after the result of a word has been written that one untimed flight awaits. -/
def ackLanded (c : Core) (f : Flight) (p q : List Flight) (l : Option Latch) (x : Vec) : Core :=
  land { c with flights := p ++ { f with arrived := true, data := x, buffered := false } :: q, latch := l }
    { f with arrived := true, data := x, buffered := false }

theorem deliver_single {c : Core} {w : Nat} (hflights : c.flights = p ++ f :: q) (hword : f.word = w)
    (hothers : ∀ e ∈ p ++ q, e.word ≠ w ∧ ¬ (e.remain = 63 ∧ e.arrived = true)) (hsrc : f.src = .result 0)
    (hpreempt : preemptDue d.now c = false) (hreplay : replaying d (stopeOf k) = false) (hfixed : f.fixed = false)
    (ha : f.arrived = false) (hremain : f.remain = 63) (x : Vec) : ∃ l,
    deliver d k c w [x] = { ackLanded c f p q l x with flights := p ++ q } := by
  have hfill := fillFlights_single hword hsrc ha hfixed (fun e he => (hothers e he).1) false x
  have hsel : ∀ e ∈ p ++ q, (e.remain == 63 && e.arrived) = false := fun e he => by
    simpa only [Bool.eq_false_iff, ne_eq, Bool.and_eq_true, beq_iff_eq] using (hothers e he).2
  have hdue : ∀ l, preemptDue d.now { c with flights := fillFlights false w [x] c.flights, latch := l } = false :=
    fun _ => hpreempt
  refine ⟨if c.inHandler then c.latch.map fun l => { l with landing := fillEntries w [x] l.landing } else c.latch, ?_⟩
  unfold deliver
  simp only [hreplay, hdue, Bool.or_self, Bool.false_eq_true, if_false]
  rw [hflights, hfill]
  exact writeSel_single (sel := fun f => f.remain == 63 && f.arrived) rfl (by simp [hremain]) hsel

theorem takeAck_single {a : AckItem} {y : Dword} (hresults : a.results = [y])
    (hflights : (coreAt d k).flights = p ++ f :: q) (hword : f.word = a.word)
    (hothers : ∀ e ∈ p ++ q, e.word ≠ a.word ∧ ¬ (e.remain = 63 ∧ e.arrived = true)) (hsrc : f.src = .result 0)
    (hpreempt : preemptDue d.now (coreAt d k) = false) (hreplay : replaying d (stopeOf k) = false)
    (hfixed : f.fixed = false) (ha : f.arrived = false) (hremain : f.remain = 63) : ∃ l, takeAck d k a =
      putCore d k
        { ackLanded (coreAt d k) f p q l (y.setWidth 1024) with
          flights := p ++ q
          acks := (ackLanded (coreAt d k) f p q l (y.setWidth 1024)).acks.filter fun b => b.word != a.word
          fflags := (ackLanded (coreAt d k) f p q l (y.setWidth 1024)).fflags ||| a.flags } := by
  obtain ⟨l, hdeliver⟩ := deliver_single (k := k) hflights hword hothers hsrc hpreempt hreplay hfixed ha hremain
    (y.setWidth 1024)
  refine ⟨l, ?_⟩
  unfold takeAck modCore
  dsimp only
  rw [hresults, List.map_singleton, hdeliver]
  simp only [hreplay, Bool.false_eq_true, if_false]

/-- What the written result shows in the core: its register, which is full, the others, and the flags. -/
theorem ackLanded_facts {c : Core} (ho : owns c f = true) (hfile : f.file = .g) (l : Option Latch) (y : Dword) :
    physReadG (ackLanded c f p q l (y.setWidth 1024)) f.num = y ∧
      isEmpty (ackLanded c f p q l (y.setWidth 1024)) .g f.num = false ∧
      (ackLanded c f p q l (y.setWidth 1024)).fflags = c.fflags ||| f.flags ∧
      (ackLanded c f p q l (y.setWidth 1024)).acks = c.acks ∧
      ∀ m, m ≠ f.num → physReadG (ackLanded c f p q l (y.setWidth 1024)) m = physReadG c m := by
  have hown : owns { c with
      flights := p ++ { f with arrived := true, data := y.setWidth 1024, buffered := false } :: q
      latch := l } { f with arrived := true, data := y.setWidth 1024, buffered := false } = true := ho
  have hread := physReadG_land hown hfile
  refine ⟨?_, ?_, fflags_land, acks_land, fun m hm => (hread m).trans (if_neg hm)⟩
  · refine (hread f.num).trans ((if_pos rfl).trans ?_)
    exact (BitVec.setWidth_setWidth_of_le y (by decide)).trans (BitVec.setWidth_eq y)
  · exact (congrArg (isEmpty _ · f.num) hfile).symm.trans (isEmpty_land_self hown)

end

/-- Settles O34: where no wait watches the changed memory, a performed atomic is the equation of its function, an
increment goes by the counter's mark, and an acknowledgement fills the one flight that waits and writes it. -/
theorem atomicsAndIncrements : Obligations.AtomicsAndIncrements := by
  unfold Obligations.AtomicsAndIncrements
  refine ⟨⟨?_, ?_, fun d st a => performAtomic_acas st, fun d st a => performAtomic_acas2 st, ?_, ?_⟩, increment_cases, ?_⟩
  · intro row hrow d st a hfn hhalf m mem hw
    obtain ⟨hwalks, hpair, hadd⟩ := fn_dwordRow row hrow
    rw [← hfn] at hwalks hpair hadd
    have hnew : newDword a.fn m a.x a.y = row.2 m a.x := by rw [hfn, newDword_row row hrow]
    rw [performAtomic_full st hwalks hpair hadd hhalf, hnew]
    exact ⟨rfl, rfl, mem_settle hw⟩
  · intro row hrow d st a hfn hhalf m mem hw
    obtain ⟨hwalks, hpair⟩ := fn_wordRow row hrow
    rw [← hfn] at hwalks hpair
    have hnew : (newWord a.fn m (a.x.setWidth 32) (a.y.setWidth 32)).1 = row.2 m (a.x.setWidth 32) := by
      rw [hfn, newWord_row row hrow]
    rw [performAtomic_half st hwalks hpair hhalf, hnew]
    exact ⟨rfl, mem_settle hw⟩
  · intro d st a hfn hempty mem hw
    rw [performAtomic_aenq_empty st hfn hempty]
    exact ⟨rfl, mem_settle hw⟩
  · intro d st a hfn
    simp only [performAtomic, hfn]
  · intro core s a y f p q
    dsimp only
    intro hfind hresults hflights hword hothers hsrc hpreempt hreplay hfixed ha hremain hfile hnum ho
    have hexec : exec (.atomicAcknowledgement core a.word) s = .next (setDev s (takeAck s.dev (coreNum core) a)) := by
      have hevent : execAtomicAcknowledgement core a.word s = .next (setDev s (takeAck s.dev (coreNum core) a)) := by
        simp only [execAtomicAcknowledgement, onCoreEvent, hfind]
      exact hevent
    obtain ⟨l, htake⟩ := takeAck_single hresults hflights hword hothers hsrc hpreempt hreplay hfixed ha hremain
    obtain ⟨hself, hfull, hflags, hacks, hrest⟩ := ackLanded_facts (p := p) (q := q) ho hfile l y
    refine ⟨_, hexec, ?_⟩
    rw [htake, setDev_dev, coreAt_putCore_self]
    refine ⟨rfl, hself, hfull, rfl, ?_, ?_, hrest⟩
    · rw [← hflags]
    · rw [← hacks]

end Sys2Proof.Machine
end
